-- ==== Sys2Proof/Word.lean ====
section
/-!
DEFINITION. The word types of the Solan and their plainest arithmetic (00 R2, R5; 12 R246): 64-bit
registers, 32-bit instruction words, 128-bit packets, bytes, and sign extension.
-/
namespace Sys2Proof

/-- A scalar register, an address while it is computed, or a system register (12 R227). -/
abbrev Word := BitVec 64

/-- One byte of memory; multi-byte values are little-endian (00 R2). -/
abbrev Byte := BitVec 8

/-- A scalar instruction word (12 R225). -/
abbrev IWord := BitVec 32

/-- The number of a scalar register, s0 to s63 (12 R227). -/
abbrev Reg := BitVec 6

/-- A 128-bit command packet (12 R225, R238). -/
abbrev Packet := BitVec 128

/-- Bits [lo + n - 1 : lo] of a value (00 R2). -/
def field {w : Nat} (v : BitVec w) (lo n : Nat) : BitVec n := v.extractLsb' lo n

/-- The truth value of one bit. -/
def bit {w : Nat} (v : BitVec w) (i : Nat) : Bool := v.getLsbD i

/-- 1 when a condition holds and 0 when it does not (13 R258). -/
def ofBool (b : Bool) : Word := if b then 1 else 0

/-- sext(v, n) of 12 R246 for a field of n bits. -/
def sextTo64 {n : Nat} (v : BitVec n) : Word := v.signExtend 64

/-- zext(v, n) of 12 R246 for a field of n bits. -/
def zextTo64 {n : Nat} (v : BitVec n) : Word := v.setWidth 64

end Sys2Proof
end

