-- ==== Sys2Proof/Syntax.lean ====
section
/-!
DEFINITION. The instruction set as syntax: one constructor of `Instr` for every row of
spec/opcode_table.json. A scalar instruction carries the fields of its form (12 R230 to R237), a stream
command the fields of its packet (12 R238 to R242; 15), an event the names of what it happens to
(95_what_each_step_holds.md: each row is one whole, indivisible step).
-/
namespace Sys2Proof

/-! ## Small alphabets -/

/-- Core number: die in [9:8], cluster in [7:3], core in [2:0] (05 R86). -/
abbrev CoreNum := BitVec 10

/-- Number of a compute die, 0 to 3 (01 R7). -/
abbrev DieNum := BitVec 2

/-- Number of a Paddock, 0 to 15 (02 R31). -/
abbrev PdkNum := BitVec 4

/-- Group number within a Paddock (04 R65). -/
abbrev GroupNum := BitVec 16

/-- One of the two control lanes (01 R15). -/
inductive Lane where
  | lane0 | lane1
  deriving DecidableEq, Repr

/-- Access size of an M-form instruction (12 R230): 1, 2, 4 or 8 bytes. -/
inductive Size where
  | b | h | w | d
  deriving DecidableEq, Repr

/-- Order of an A-form instruction (12 R230, 11 R214). -/
inductive MemOrder where
  | relaxed | acquire | release | acqRel
  deriving DecidableEq, Repr

/-- The five scopes of Table MEM-1 (11 R207). -/
inductive Scope where
  | core | cluster | die | package | system
  deriving DecidableEq, Repr

/-- The scopes that an atomic can name (12 R230, 11 R207): atomics have no CORE scope. -/
inductive AScope where
  | cluster | die | package | system
  deriving DecidableEq, Repr

/-- Rounding modes (07 R121). -/
inductive Rounding where
  | rne | rtz | rdn | rup
  deriving DecidableEq, Repr

/-- Formats that the scalar unit allows (07 R115 Table FMT-1). -/
inductive ScalarFmt where
  | fp32 | fp16 | bf16 | fp64 | b8a | b8b
  | i8 | i16 | i32 | i64 | u8 | u16 | u32 | u64
  deriving DecidableEq, Repr

/-- Conditions of FCMP (12 R237). -/
inductive FCond where
  | eq | lt | le | unord
  deriving DecidableEq, Repr

/-- What a YIELD waits for (12 R237, 14 R310). -/
inductive YieldKind where
  | none | future | barrier
  deriving DecidableEq, Repr

/-- Which packet bits CMDM replaces (14 R311). -/
inductive CmdSlot where
  | low48 | high48 | low32
  deriving DecidableEq, Repr

/-- System registers of Table INT-6 (13 R279). -/
inductive SysReg where
  | status | trapcause | trappc | trapval0 | trapval1 | utvec | stvec | uscratch | sscratch
  | f8sel | fflags | cycle | corenum | devid | lpdepth
  | lpcnt (n : BitVec 2) | lpbnd (n : BitVec 2)
  deriving DecidableEq, Repr

/-- Reasons of an ILLEGAL raised by the decoder (12 R233). -/
inductive IllegalReason where
  | opcode | fn | unusedField | reservedValue
  deriving DecidableEq, Repr

/-! ## Operand forms of scalar instructions -/

/-- R form with two sources (12 R230). -/
structure ROps where
  sd : Reg
  sa : Reg
  sb : Reg
  ea : Bool
  eb : Bool
  deriving DecidableEq, Repr

/-- One source and a destination. -/
structure UOps where
  sd : Reg
  sa : Reg
  ea : Bool
  deriving DecidableEq, Repr

/-- One source and no destination. -/
structure SOps where
  sa : Reg
  ea : Bool
  deriving DecidableEq, Repr

/-- Two sources and no destination. -/
structure PairOps where
  sa : Reg
  sb : Reg
  ea : Bool
  eb : Bool
  deriving DecidableEq, Repr

/-- I form with a signed immediate (12 R230). -/
structure IOps where
  sd : Reg
  sa : Reg
  ea : Bool
  imm : BitVec 11
  deriving DecidableEq, Repr

/-- Shift by an immediate, or extension from a width minus one (12 R236). -/
structure ShiftOps where
  sd : Reg
  sa : Reg
  ea : Bool
  amount : BitVec 6
  deriving DecidableEq, Repr

/-- Bit-field instructions: position and length minus one (12 R236). -/
structure FieldOps where
  sd : Reg
  sa : Reg
  ea : Bool
  pos : BitVec 6
  len : BitVec 5
  deriving DecidableEq, Repr

/-- L form (12 R230). -/
structure LOps where
  sd : Reg
  imm : BitVec 18
  deriving DecidableEq, Repr

/-- B form (12 R230). -/
structure BOps where
  sa : Reg
  sb : Reg
  ea : Bool
  eb : Bool
  off : BitVec 10
  deriving DecidableEq, Repr

/-- M form; `sd` is the destination or the store data (12 R230). -/
structure MOps where
  sd : Reg
  sa : Reg
  ea : Bool
  size : Size
  off : BitVec 9
  deriving DecidableEq, Repr

/-- LDQ and STQ: a register pair, offset in units of 16 bytes (12 R237). -/
structure QOps where
  sd : Reg
  sa : Reg
  ea : Bool
  off : BitVec 9
  deriving DecidableEq, Repr

/-- A form (12 R230). -/
structure AOps where
  sd : Reg
  sa : Reg
  sb : Reg
  ea : Bool
  eb : Bool
  order : MemOrder
  scope : AScope
  deriving DecidableEq, Repr

/-- F form (12 R230). -/
structure FenceOps where
  sd : Reg
  mask : BitVec 8
  scope : Scope
  deriving DecidableEq, Repr

/-- Two-source floating point; `dbl` selects FP64 (14 R315). -/
structure FpOps where
  sd : Reg
  sa : Reg
  sb : Reg
  ea : Bool
  eb : Bool
  dbl : Bool
  rm : Rounding
  deriving DecidableEq, Repr

/-! ## Operands of commands and events -/

/-- A host message as it arrives at the hub, less its TYPE, which the row fixes (02 R22 Table HST-1).
`reserved` holds header bits [63:61] and [47:36]. -/
structure Frame where
  lane : Lane
  check : BitVec 32
  tag : BitVec 32
  len : BitVec 13
  pdk : PdkNum
  seq : BitVec 16
  flags : BitVec 8
  reserved : BitVec 15
  payload : List Byte
  deriving DecidableEq, Repr

/-- The part that an uncorrectable soft error strikes (04 R84). -/
inductive ErrorUnit where
  | fabric | corral
  | loft (slot : BitVec 9)
  | other
  deriving DecidableEq, Repr

/-- A remote command as it arrives from the scale-out ports (15 R337 to R340). -/
inductive RemoteCmd where
  | put (va : BitVec 48) (bytes : List Byte)
  | get (va : BitVec 48) (len : Nat)
  | amo (va : BitVec 48) (op : BitVec 4) (opnd expect : Word)
  | send (packet : Packet) (record : List Byte)
  /-- Accesses of another device to a page of this one that its tables map as REMOTE (03 R53). -/
  | readPhys (pa : BitVec 44) (len : Nat)
  | writePhys (pa : BitVec 44) (bytes : List Byte)
  | amoPhys (pa : BitVec 44) (op : BitVec 4) (opnd expect : Word)
  /-- A reply from the home device to a command of this device: its fault code (0 for none), OPERAND,
  OFFSET and the bytes returned (15 R337). -/
  | reply (code operand : Byte) (offset : BitVec 48) (data : List Byte)
  deriving DecidableEq, Repr

/-- A remote message: the other device, its Paddock number, its core, the sender's serial number of the
command, and the command itself. -/
structure RemoteMsg where
  device : BitVec 20
  pdk : PdkNum
  core : CoreNum
  serial : Nat
  cmd : RemoteCmd
  deriving DecidableEq, Repr

/-- Where a write to a control register comes from (03, 04, 05; 02 R43): a store in a core's queue that reaches a
control page, or the management port, with the offset of a register of Table HST-9 and the value written. -/
inductive RegWrite where
  | store (core : CoreNum) (id : Nat)
  | management (off : BitVec 12) (value : Word)
  deriving DecidableEq, Repr

/-- One sensor reading handed in by the environment (01 R20). -/
structure SensorReading where
  core : CoreNum
  temp : BitVec 16
  droop : BitVec 12
  deriving DecidableEq, Repr

/-- What the environment makes of a module reset (01 R21): the first step that fails, if any, the
CXL ports and the scale-out ports whose training fails. -/
structure ResetOutcome where
  failStep : Option (BitVec 4)
  cxlDown : BitVec 4
  portsDown : BitVec 16
  lanesDown : BitVec 2
  deriving DecidableEq, Repr

/-- Body of FEED (15 R322 Table CMD-4). -/
structure FeedOps where
  tok : Reg
  port : BitVec 4
  eof : Bool
  addr : BitVec 48
  count : BitVec 32
  level : BitVec 3
  deriving DecidableEq, Repr

/-- Body of FEEDT. -/
structure FeedTOps where
  tok : Reg
  port : BitVec 4
  eof : Bool
  handle : BitVec 32
  count : BitVec 32
  level : BitVec 3
  deriving DecidableEq, Repr

/-- Body of FEEDC. -/
structure FeedCOps where
  tok : Reg
  port : BitVec 4
  eof : Bool
  base : BitVec 32
  step : BitVec 32
  count : BitVec 32
  level : BitVec 3
  deriving DecidableEq, Repr

/-- Body of DRAIN. -/
structure DrainOps where
  tok : Reg
  port : BitVec 4
  eof : Bool
  addr : BitVec 48
  count : BitVec 32
  deriving DecidableEq, Repr

/-- Body of DRAINT. -/
structure DrainTOps where
  tok : Reg
  port : BitVec 4
  eof : Bool
  handle : BitVec 32
  count : BitVec 32
  deriving DecidableEq, Repr

/-- Operand formats of a join command (15 R329 Table CMD-5). -/
structure JoinFmt where
  fmt : BitVec 4
  var : BitVec 5
  afmt : BitVec 2
  rm : Rounding
  deriving DecidableEq, Repr

/-- Whether a join may name the format code (07 Table FMT-1, 10 R182): FP32, FP16, BF16, binary8 or NB16. -/
def JoinFmt.codeOk (f : JoinFmt) : Bool := f.fmt.toNat < 3 || f.fmt == 4 || f.fmt == 6

/-- Whether a format code that uses a variant has one that is not reserved (07 R116). -/
def JoinFmt.varOk (f : JoinFmt) : Bool := f.fmt.toNat < 3 || 4 ≤ f.var.toNat

/-- FILL's two layouts (15 R336). -/
inductive FillBody where
  | direct (dst : BitVec 48) (len : BitVec 32) (byte : Byte)
  | desc (ext : BitVec 48)
  deriving DecidableEq, Repr

/-- Target of a JDRAIN (15 R329): a RECORDS address, or the descriptor of a DENSE target. -/
inductive DrainTarget where
  | records (addr : BitVec 48)
  | dense (ext : BitVec 48)
  deriving DecidableEq, Repr

/-! ## The instruction set -/

/-- One constructor per row of spec/opcode_table.json, in the table's order. -/
inductive Instr where
  -- integer register functions (13 R257, R258)
  | add (o : ROps) | sub (o : ROps) | and (o : ROps) | or (o : ROps) | xor (o : ROps)
  | andn (o : ROps) | orn (o : ROps) | shl (o : ROps) | shr (o : ROps) | sar (o : ROps)
  | rotl (o : ROps)
  | min (o : ROps) | max (o : ROps) | minu (o : ROps) | maxu (o : ROps)
  | seq (o : ROps) | sne (o : ROps) | slt (o : ROps) | sltu (o : ROps)
  -- multiply and divide (13 R264 to R266)
  | mul (o : ROps) | mulhi (o : ROps) | mulhiu (o : ROps)
  | div (o : ROps) | divu (o : ROps) | rem (o : ROps) | remu (o : ROps)
  | divideResult (core : CoreNum)
  -- one-source functions (13 R259) and LEA (13 R260)
  | clz (o : UOps) | ctz (o : UOps) | popc (o : UOps) | brev (o : UOps)
  | lea (o : ROps) (k : BitVec 2)
  -- immediates and bit fields (13 R261 to R263)
  | addi (o : IOps) | andi (o : IOps) | ori (o : IOps) | xori (o : IOps)
  | shli (o : ShiftOps) | shri (o : ShiftOps) | sari (o : ShiftOps)
  | slti (o : IOps) | sltiu (o : IOps)
  | sext (o : ShiftOps) | zext (o : ShiftOps)
  | bfx (o : FieldOps) | bfxs (o : FieldOps) | bfi (o : FieldOps)
  | li (o : LOps) | lis1 (o : LOps) | lis2 (o : LOps) | lis3 (sd : Reg) (imm : BitVec 10)
  -- branches, jumps and loops (13 R267 to R273)
  | beq (o : BOps) | bne (o : BOps) | blt (o : BOps) | bge (o : BOps)
  | bltu (o : BOps) | bgeu (o : BOps)
  | jmp (off : BitVec 24) | jal (off : BitVec 24)
  | jr (o : SOps) (imm : BitVec 11) | jalr (o : IOps)
  | loop (o : SOps) (last : BitVec 17)
  -- loads and stores (13 R274 to R278)
  | ld (o : MOps) | lds (o : MOps) | st (o : MOps) | ldq (o : QOps) | stq (o : QOps)
  | loadReturn (core : CoreNum) (id : Nat) (ecc : Bool)
  | storeAcknowledge (core : CoreNum) (id : Nat) (ecc : Bool)
  -- atomics (14 R292 to R296)
  | amoadd (o : AOps) | amoand (o : AOps) | amoor (o : AOps) | amoxor (o : AOps)
  | amomin (o : AOps) | amomax (o : AOps) | amominu (o : AOps) | amomaxu (o : AOps)
  | amoswp (o : AOps) | cas (o : AOps)
  | lda (o : UOps) (acq : Bool) (scope : AScope)
  | stl (o : PairOps) (rel : Bool) (scope : AScope)
  | atomicAtHome (core : CoreNum) (id : Nat)
  -- fences (11 R216, R217; 14 R297)
  | fence (o : FenceOps) | fencec (o : FenceOps)
  | fenceTokenFill (core : CoreNum) (id : Nat)
  -- futures and register state (14 R298 to R301)
  | ldf (o : UOps) | fput (o : PairOps) | fclr (o : SOps) | ftest (o : UOps)
  | fempty (sd : Reg)
  | femptyTimeout (core : CoreNum) (reg : Reg)
  | rfull (sd sa : Reg)
  -- barriers (04 R78; 14 R302, R303)
  | bararr (o : SOps) (scope : Scope) | barexp (o : PairOps) (scope : Scope)
  | bartok (o : UOps) (scope : Scope)
  -- tiles (06; 14 R304 to R306)
  | talloc (o : ROps) (part : BitVec 4)
  | tcons (o : SOps) | tfree (o : SOps) | tinfo (o : UOps)
  | tsend (o : PairOps) (port : BitVec 4)
  | taddr (o : UOps)
  -- tasks (14 R307 to R310)
  | spawn (o : SOps) (trap rpl ute tile : Bool)
  | retire
  | yield (o : PairOps) (kind : YieldKind)
  | etrig
  | runq (sd : Reg)
  -- commands, ports and configurations (14 R311 to R314)
  | cmd (o : SOps) | cmdm (o : PairOps) (slot : CmdSlot)
  | prd (o : UOps) | pwr (o : PairOps)
  | cfg (o : UOps) (graph : Bool)
  | instq (sd : Reg)
  -- floating point (14 R315 to R318)
  | fadd (o : FpOps) | fsub (o : FpOps) | fmul (o : FpOps) | fdiv (o : FpOps)
  | fsqrt (o : UOps) (dbl : Bool) (rm : Rounding)
  | fma (o : FpOps)
  | fmin (o : ROps) (dbl : Bool) | fmax (o : ROps) (dbl : Bool)
  | fcmp (o : ROps) (dbl : Bool) (cond : FCond)
  | fclass (o : UOps) (dbl : Bool)
  | fpResult (core : CoreNum)
  | cvt (o : UOps) (dst src : ScalarFmt) (rm : Rounding) (sat : Bool)
  -- system (13 R279 to R291)
  | trap (n : BitVec 11) | eret
  | mfs (sd : Reg) (n : SysReg) | mts (o : SOps) (n : SysReg)
  | wfe
  | wfeTimeout (core : CoreNum)
  | sev | halt | bkpt
  | instructionFetch (core : CoreNum)
  -- fabric port commands (15 R322 to R328)
  | feed (o : FeedOps) | feedt (o : FeedTOps) | feedc (o : FeedCOps)
  | drain (o : DrainOps) | draint (o : DrainTOps)
  | eofi (tok : Reg) (port : BitVec 4) (level : BitVec 3)
  | parm (tok : Reg) (elem : BitVec 7) (k : BitVec 3) (value : BitVec 32)
  | arm (tok : Reg) (cols : BitVec 12)
  | haltf (tok : Reg)
  -- join commands (10; 15 R329, R330)
  | jdense (tok : Reg) (f : JoinFmt) (m : BitVec 7) (n : BitVec 6) (base : BitVec 15) (ext : BitVec 48)
  | jsparse (tok : Reg) (f : JoinFmt) (ext : BitVec 48)
  | jgath (tok : Reg) (f : JoinFmt) (nb : BitVec 12) (ext : BitVec 48)
  | jfeed (tok : Reg) (src : Word) (count : BitVec 32) (afmt : BitVec 2) (rm : Rounding)
  | jdrain (tok : Reg) (ordered : Bool) (target : DrainTarget)
  | jpeek (tok : Reg) (addr : BitVec 48)
  | jclr (tok : Reg)
  | jspill (tok : Reg) (addr : BitVec 48) (cap : BitVec 32)
  -- block-transfer commands (15 R331 to R336)
  | copy (tok : Reg) (ext : BitVec 48) (faddr : BitVec 48) (ftok : Reg)
  | mcast (tok : Reg) (ext : BitVec 48)
  | pagein (tok : Reg) (ext : BitVec 48)
  | publish (tok : Reg) (addr : BitVec 48) (len : BitVec 32) (scope : Scope)
  | fill (tok : Reg) (body : FillBody)
  -- remote commands and LAUNCH (15 R337 to R341)
  | rput (tok : Reg) (ext : BitVec 48) | rget (tok : Reg) (ext : BitVec 48)
  | ramo (tok : Reg) (ext : BitVec 48) (op : BitVec 4)
  | rsend (tok : Reg) (ext : BitVec 48)
  | launch (tok : Reg) (early : Bool) (addr : BitVec 48)
  | remoteDelivery (m : RemoteMsg)
  | commandCompletion (core : CoreNum) (id : Nat)
  | shadowPublish (id : Nat)
  -- fabric events (08; 16)
  | configurationStart (core : CoreNum) | mappingTimeout (core : CoreNum)
  | instant (core : CoreNum)
  | thrTimeout (core : CoreNum) (elem : BitVec 7) | ctlmTimeout (core : CoreNum) (elem : BitVec 7)
  | ingLim (core : CoreNum) (id : Nat)
  -- the Ostler (04)
  | dispatchClk (die : DieNum)
  | generatorEnqueue (pdk : PdkNum) (group : GroupNum)
  | groupRetire (pdk : PdkNum) (group : GroupNum)
  | preemption (pdk : PdkNum)
  | fabricSaved (core : CoreNum) | drainWindowEnd (core : CoreNum)
  | softError (core : CoreNum) (unit : ErrorUnit)
  | requeue (pdk : PdkNum) (die : DieNum) | abortRecord (pdk : PdkNum) (die : DieNum)
  | abortGroup (pdk : PdkNum) (die : DieNum) | holdActionEnd (pdk : PdkNum) (die : DieNum)
  | deadlockSample
  -- the Loft (06)
  | loftGrantClk (core : CoreNum)
  | tileAdmission (id : Nat) | tileCount (id : Nat) | heldRelease (id : Nat)
  | admissionAnswer (id : Nat)
  -- power tokens, translation and registers (05, 03, 04)
  | tokenRingClk (die : DieNum) | tokenHoldExpiry (core : CoreNum)
  | jtok (die : DieNum) (value : Word)
  | go (core : CoreNum) (id : Nat) | invalidationDone (pdk : PdkNum) (die : DieNum)
  | thrcntRead (core : CoreNum) (id : Nat) | partcntRead (core : CoreNum) (id : Nat)
  | loftstatRead (core : CoreNum) (id : Nat)
  | registerWrite (w : RegWrite)
  -- environment (01)
  | sensorSample (readings : List SensorReading)
  | thermalWarning (die : DieNum) (temp : BitVec 16) | thermalTrip (die : DieNum)
  | linkRetryTimeout (a b : BitVec 3)
  | cxlLinkDown (port : BitVec 2) | portDown (port : BitVec 4) | laneFailure (lane : Lane)
  | scrub (pa : BitVec 44)
  | standbyPowerGood | mainPowerGood
  | moduleReset (r : ResetOutcome)
  -- host messages (02)
  | launchMessage (f : Frame) | memrd (f : Frame) | memwr (f : Frame)
  | create (f : Frame) | modify (f : Frame) | destroy (f : Frame) | keyload (f : Frame)
  | paddockReset (f : Frame)
  | queryDeviceInfo (f : Frame) | querySensor (f : Frame) | queryPaddock (f : Frame)
  | queryFaultLog (f : Frame) | queryDraw (f : Frame) | queryCertificates (f : Frame)
  | syscfgDevid (f : Frame) | syscfgPools (f : Frame) | syscfgWarn (f : Frame)
  | syscfgScrub (f : Frame)
  | attest (f : Frame)
  -- the management port (02 R43)
  | logdata
  | fwdata (value : Word)
  | hold (value : Bool) | fwstage (value : Bool) | fwswap (value : Bool)
  | warn (mask : BitVec 4)
  -- words and messages without a meaning of their own (12 R233, 02 R23), and power loss (02 R43)
  | undecodableInstruction (word : IWord) (reason : IllegalReason)
  | unassignedType (type : Byte) (f : Frame)
  | mainPowerLoss | standbyPowerLoss
  deriving DecidableEq, Repr

end Sys2Proof
end

