-- ==== Sys2Proof/Config.lean ====
section
/-!
DEFINITION. What the Solan's manual leaves to the device and no rule fixes: free values as opaque
constants (nothing can be proved about their values), and the sizes that the manual does fix.
-/
namespace Sys2Proof.Config

/-! ## Free values -/

/-- What a byte of memory reads as under a key other than the one it was written under: the key it was
written under, the key it is read under (`none` for a page with ENC clear), its local physical address and
the byte written (03 R51, R53 "ciphertext"; notes/assumptions/7.md). -/
opaque cipherByte : Option (BitVec 512) → Option (BitVec 512) → Nat → Byte → Byte

/-- What an access to a REMOTE page brings back from the home device, by the count of such reads made so far
and the byte's place in the read (03 R53; notes/assumptions/8.md). -/
opaque remoteByte : Nat → Nat → Byte

/-- Whether the home device of a REMOTE page refuses an access with PERM, by the count of such accesses made so far (03
R53; notes/assumptions/92.md). -/
opaque remoteRefused : Nat → Bool

/-- A word that the manual does not state, by the count of such values drawn so far: a trap value or a fault
word's OFFSET that no rule gives (notes/assumptions/24.md). -/
opaque freeWord : Nat → Word

/-- The CXL port behind which a tier address lies, in each map that system software makes: no register of that map is
given (01 R12; notes/assumptions/17.md). -/
opaque cxlPort : Nat → Nat → BitVec 2

/-- The hash of a core and a device that chooses a remote command's port among those that are up (01 R13 "a hash";
notes/assumptions/34.md). -/
opaque portHash : BitVec 10 → BitVec 20 → Nat

/-- Whether a remote command had not been delivered when its port went down, by the routing table, its serial number and
the clk (01 R13; notes/assumptions/34.md). -/
opaque undelivered : List Byte → Nat → Nat → Bool

/-- Where in the unnamed part of a die's control pages the sensor register of a core stands, by cluster × 8 + core (01 R20;
notes/assumptions/93.md). -/
opaque sensorOffset : Nat → Nat

/-- OKIND less 1 and OBJECT with which a deadlock report names the wait of a command on its core's pending ranges (04
R81, 11 R220; notes/assumptions/97.md). -/
opaque pendingWait : Nat × Word

/-- What a Loft byte reads as when its slot was freed between the translation of the access and its
performance (06 R102, R107; notes/assumptions/14.md). -/
opaque freedLoftByte : Nat → Byte

/-- The 64-byte key pair that an RSA-OAEP ciphertext holds under the device transport key, when it
decrypts (02 R34; notes/assumptions/9.md). -/
opaque rsaOaepDecrypt : List Byte → Option (BitVec 512)

/-- The RSASSA-PSS signature by the device attestation key (02 R42; notes/assumptions/9.md). -/
opaque attestSignature : List Byte → BitVec 3072

/-- The public key that the header of a firmware image names (02 R41; notes/assumptions/9.md). -/
opaque imageKey : List Byte → List Byte
/-- The header and body of an image that its signature covers (02 R41; notes/assumptions/9.md). -/
opaque imageSigned : List Byte → List Byte
/-- The signature of an image (02 R41; notes/assumptions/9.md). -/
opaque imageSignature : List Byte → List Byte
/-- The rollback number in the header of an image (02 R41; notes/assumptions/9.md). -/
opaque imageRollback : List Byte → Nat
/-- The four fused hashes of public keys, by number (02 R41; notes/assumptions/9.md). -/
opaque fusedKeyHash : Nat → List Byte
/-- Whether the revocation fuse of a key is intact, by number (02 R41; notes/assumptions/9.md). -/
opaque keyIntact : Nat → Bool
/-- RSASSA-PSS verification with SHA-256 of a 3,072-bit signature: public key, digest, signature (02 R41;
notes/assumptions/9.md). -/
opaque rsaPssVerifies : List Byte → List Byte → List Byte → Bool
/-- The image of the compute-die firmware (02 R41; notes/assumptions/9.md). -/
opaque dieFirmware : List Byte
/-- The image of the mapper (02 R41; notes/assumptions/9.md). -/
opaque mapperImage : List Byte

/-- The firmware image in flash slot A after manufacture (02 R41; notes/assumptions/9.md). -/
opaque factoryImageA : List Byte

/-- The firmware image in flash slot B after manufacture (02 R41; notes/assumptions/9.md). -/
opaque factoryImageB : List Byte

/-- A byte of a staged firmware image that no FWDATA write has stored (02 R43; notes/assumptions/9.md). -/
opaque unstagedByte : Nat → Byte

/-- The certificate chain of the device keys (02 R39; notes/assumptions/9.md). -/
opaque certificateChain : List Byte

/-- Device serial number and fused rollback counter (02 R42; notes/assumptions/9.md). -/
opaque serialNumber : BitVec 64
/-- See `serialNumber`. -/
opaque rollbackCounter : BitVec 32

/-- Hub firmware version of an accepted image (02 R40; notes/assumptions/9.md). -/
opaque firmwareVersion : List Byte → BitVec 32

/-- The field E of the header of a lane whose class is not finite and that an element forms: clk, core, element and lane
(07 R129 gives its digits only; notes/assumptions/27.md). -/
opaque nonFiniteE : Nat → Nat → Nat → Nat → BitVec 12

/-- Clk of the read of a word that MSCAT add touches first, as Table COR-3 gives them for where the word lies: clk of
the read and word (16 R365; notes/assumptions/99.md). -/
opaque readClk : Nat → Nat → Nat

/-- The element on which the mapper would place a node that has no FIXED position, for the bytes of a
graph and the node's index: any allowed placement may be chosen (08 R159; notes/assumptions/11.md). -/
opaque placement : List Byte → Nat → Nat

/-- Whether the mapper places the graph within 2^22 clk (08 R158 reason 6; notes/assumptions/11.md) is
the environment's: see MAPPING_TIMEOUT. An edge's LAT and an arm window are checked on the placement. -/
def mapperLimitClk : Nat := 2 ^ 22

/-! ## Sizes the manual fixes -/

/-- Words of MSCAT's address-compare queue (16 R365). -/
def maxTouches : Nat := 64
/-- Outstanding loads of a sequencer, store-queue entries (13 R277). -/
def maxLoads : Nat := 16
/-- Store-queue entries (13 R277). -/
def maxStores : Nat := 16
/-- Pending ranges of a core (11 R220). -/
def maxPendingRanges : Nat := 16
/-- Host messages queued per lane (02 R24). -/
def maxLaneQueue : Nat := 64
/-- Event records buffered per lane (02 R45). -/
def maxEvents : Nat := 4096
/-- Fault-log records (02 R43). -/
def maxFaultLog : Nat := 256
/-- Live groups of a Paddock (04 R65). -/
def maxGroups : Nat := 256
/-- Clk that end a WFE sleep or an FEMPTY (13 R290, 14 R300). -/
def waitLimit : Nat := 65536
/-- Clk for which a burst keeps its join power token (05 R98). -/
def tokenHoldLimit : Nat := 4096
/-- Instruction-buffer lines (05 R87 Table COR-1). -/
def ibufLines : Nat := 16
/-- L1 TLB entries (03 R54). -/
def l1TlbEntries : Nat := 64
/-- Last-level TLB entries of a die (03 R54). -/
def dieTlbEntries : Nat := 2048
/-- Placed images that a die caches (08 R158). -/
def maxCachedImages : Nat := 1024
/-- RUNQ nesting depth (04 R76). -/
def maxRunq : Nat := 4

end Sys2Proof.Config
end

