-- ==== Sys2Proof/Machine/Codes.lean ====
section
/-!
DEFINITION. The shared fault and event codes (12 R226 Table ENC-14), the reasons of a translation fault
(03 Table ADR-8), host status codes (02 Table HST-3), and the small alphabets of the state.
-/
namespace Sys2Proof.Machine

/-- Shared fault and event codes (12 R226 Table ENC-14). `none` is 0x00. -/
inductive Code where
  | none | illegal | privilege | emptySrc | futureEmpty | misalign | brk
  | xlate | perm | tierMiss | indexRange
  | tileStale | tilePinned | tileSize | tileAbandoned | bitmapMismatch | poolQuota
  | causality | digitInvalid | cfgKind | cfgCode | fabricDeadlock | cfgHash
  | corralSpillFull | joinOrder | deadlock | queueFull | mcastPartial | illegalCmd
  | eccUncorr | linkDown | replayed | machineCheck
  deriving DecidableEq, Repr

/-- The byte of a code (12 R226 Table ENC-14). -/
def Code.toByte : Code → Byte
  | .none => 0x00 | .illegal => 0x01 | .privilege => 0x02 | .emptySrc => 0x03
  | .futureEmpty => 0x04 | .misalign => 0x05 | .brk => 0x08
  | .xlate => 0x10 | .perm => 0x11 | .tierMiss => 0x12 | .indexRange => 0x13
  | .tileStale => 0x20 | .tilePinned => 0x21 | .tileSize => 0x22 | .tileAbandoned => 0x23
  | .bitmapMismatch => 0x24 | .poolQuota => 0x25
  | .causality => 0x30 | .digitInvalid => 0x31 | .cfgKind => 0x32 | .cfgCode => 0x33
  | .fabricDeadlock => 0x34 | .cfgHash => 0x35
  | .corralSpillFull => 0x40 | .joinOrder => 0x41 | .deadlock => 0x50 | .queueFull => 0x51
  | .mcastPartial => 0x60 | .illegalCmd => 0x61
  | .eccUncorr => 0x70 | .linkDown => 0x71 | .replayed => 0x72 | .machineCheck => 0x7F

/-- Every code that a fault word can carry. -/
def Code.all : List Code :=
  [.none, .illegal, .privilege, .emptySrc, .futureEmpty, .misalign, .brk, .xlate, .perm, .tierMiss, .indexRange,
    .tileStale, .tilePinned, .tileSize, .tileAbandoned, .bitmapMismatch, .poolQuota, .causality, .digitInvalid, .cfgKind,
    .cfgCode, .fabricDeadlock, .cfgHash, .corralSpillFull, .joinOrder, .deadlock, .queueFull, .mcastPartial, .illegalCmd,
    .eccUncorr, .linkDown, .replayed, .machineCheck]

/-- The code of a byte. -/
def Code.ofByte (b : Byte) : Option Code := Code.all.find? fun c => c.toByte == b

/-- User-level traps (13 R284). -/
def Code.isUser : Code → Bool
  | .emptySrc | .futureEmpty | .tierMiss | .queueFull | .brk => true
  | _ => false

/-- Reasons of a translation fault (03 Table ADR-8). -/
inductive XReason where
  | notValid | reserved | align | hole | access | owner | range | keySlot | mmio | nonRes
  | futPage | futOp | tierBits | nonCanon
  deriving DecidableEq, Repr

/-- The number of a reason (03 Table ADR-8). -/
def XReason.toNat : XReason → Nat
  | .notValid => 0 | .reserved => 1 | .align => 2 | .hole => 3 | .access => 4 | .owner => 5
  | .range => 6 | .keySlot => 7 | .mmio => 8 | .nonRes => 9 | .futPage => 10 | .futOp => 11
  | .tierBits => 12 | .nonCanon => 13

/-- Host status codes (02 Table HST-3). -/
inductive HStatus where
  | ok | notReady | badFrame | badField | conflict | noPaddock | fault | overrun | denied | aborted
  deriving DecidableEq, Repr

/-- The byte of a status (02 Table HST-3). -/
def HStatus.toByte : HStatus → Byte
  | .ok => 0 | .notReady => 1 | .badFrame => 2 | .badField => 3 | .conflict => 4
  | .noPaddock => 5 | .fault => 6 | .overrun => 7 | .denied => 8 | .aborted => 9

/-- Privilege of a sequencer (13 R255): HUB is never a sequencer's. -/
inductive Priv where
  | user | paddock
  deriving DecidableEq, Repr

/-- Cacheability of a page (03 Table ADR-4). -/
inductive Cache where
  | wb | nc | uc
  deriving DecidableEq, Repr

/-- Where a translated access performs (03 R46 to R53): HBM or tier memory at a local physical address under the key that
its slot held when the access began (02 R34), a tile slot of a Loft, a control-page register, or another device. -/
inductive Target where
  | mem (pa : Nat) (key : Option (BitVec 512)) (cache : Cache) (future : Bool)
  | loft (core : CoreNum) (slot : BitVec 9) (off : Nat)
  | ctrl (pdk : PdkNum) (die : DieNum) (off : Nat)
  | remote (dev : BitVec 20) (pa : Nat) (cache : Cache)
  deriving DecidableEq, Repr

/-- The name of a continuation record (04 R84): its address, or group and index for level 0. -/
inductive RecName where
  | spawned (addr : BitVec 48)
  | level0 (group : GroupNum) (index : Nat)
  deriving DecidableEq, Repr

/-- The 64-bit record name of a report (04 R84): the address, or 2^63 + group × 2^32 + index. -/
def RecName.toWord : RecName → Word
  | .spawned a => a.setWidth 64
  | .level0 g i => BitVec.ofNat 64 (2 ^ 63 + g.toNat * 2 ^ 32 + i)

/-- A fault as a trap or a token reports it (00 R5, 13 R285). `sup` marks the fault of a command without a
token, which goes to the supervisor whatever its code (15 R320). -/
structure FaultInfo where
  code : Code
  val0 : Word
  val1 : Word
  sup : Bool := false
  deriving DecidableEq, Repr

/-- Whether a fault enters a user-level handler (13 R284). -/
def FaultInfo.isUser (f : FaultInfo) : Bool := f.code.isUser && !f.sup

/-- Modes of an element, in the order of Table ENC-9 (12 R243). -/
inductive EMode where
  | add | sub | addk | lsum
  | mul | mulk | sqr
  | div | rcp
  | sqrt
  | max2 | min2 | relu | gtp | thr | lmax
  | unpk | pack | norm | exp2 | log2 | scale
  | steer | fork
  | mrgi | mrgp | mrga
  | nzs | filt | bmx | bmc
  | cnt | ctls | ctlp | ctlm
  | win
  | agen | mload | mstore | mgath | mscat | mtalloc | mtread
  deriving DecidableEq, Repr

/-- Kinds of element (05 R89). -/
inductive EKind where
  | add | mul | div | sqrt | cmp | xform | steer | merge | compact | count | window | mem
  deriving DecidableEq, Repr

/-- Source of a data input (08 Table FAB-7). -/
inductive Src where
  | none
  | elem (index : Nat) (out : Nat)
  | ingress (port : Nat)
  deriving DecidableEq, Repr

/-- Source of an enable (08 Table FAB-6). -/
inductive EnabSrc where
  | none | head
  | elem (index : Nat)
  deriving DecidableEq, Repr

/-- Corral modes (10 R180). -/
inductive CorralMode where
  | empty | dense | hash
  deriving DecidableEq, Repr

/-- Inboxes of a core (15 R319 Table CMD-1). -/
inductive Box where
  | ingress (port : BitVec 4)
  | egress (port : BitVec 4)
  | control | join | bte | remote | ostler
  deriving DecidableEq, Repr

/-- Read-modify-write operations (14 R292 Table SYN-1). -/
inductive AmoOp where
  | add | and | or | xor | min | max | minu | maxu | swp | cas
  deriving DecidableEq, Repr

end Sys2Proof.Machine
end

