-- ==== Sys2Proof/WellFormed.lean ====
section
/-!
DEFINITION. The checks that the spec puts on an instruction's fields and that its type does not already
make: reserved values of scalar fields (12 R231, R236, R237) and of packet fields (12 R240, 15 R322, R330,
R335, R339, R341). `WellFormed i` holds of exactly the terms that an encoding admits; events carry no field
that an encoding restricts.
-/
namespace Sys2Proof

/-- A 48-bit address that is a multiple of 2^k. -/
def alignedTo (a : BitVec 48) (k : Nat) : Bool := a.toNat % 2 ^ k == 0

/-- The formats of a join's operands (07 R115, R116; 10 R182; 15 R330): a floating-point code of 4 bytes or less or
NB16, a variant that is not reserved where the code uses one, and an accumulator format. -/
def JoinFmt.ok (f : JoinFmt) : Bool := f.codeOk && f.varOk && f.afmt != 3

/-- Table ENC-8's zero fields of a reference and its reserved kind (12 R241). -/
def refOk (r : Word) : Bool :=
  field r 48 14 == 0 &&
  match field r 62 2 with
  | 0 => true
  | 1 => field r 32 16 == 0
  | 2 => field r 4 44 == 0
  | _ => false

/-- The checks by constructor; every constructor that is not named carries no restricted field. -/
def Instr.wfCheck : Instr → Bool
  | .bfx o | .bfxs o | .bfi o => o.pos.toNat + o.len.toNat + 1 ≤ 64
  | .loop _ last => last != 0
  | .lds o => o.size != .d
  | .ldq o | .stq o => !bit o.sd 0
  | .fempty sd => sd != 0
  | .yield o kind => kind != .none || (o.sb == 0 && !o.eb)
  | .cvt _ dst src _ sat => dst != src || sat
  | .undecodableInstruction _ _ => true
  -- packets
  | .feed o => alignedTo o.addr 7
  | .drain o => alignedTo o.addr 7
  | .parm _ elem _ _ => elem.toNat < 120
  | .arm _ cols => cols != 0
  | .jdense _ f _ _ _ _ => f.ok
  | .jsparse _ f _ => f.ok
  | .jgath _ f _ _ => f.ok && f.fmt != 6
  | .jfeed _ src _ afmt _ => refOk src && afmt != 3
  | .jdrain _ _ (.records a) => alignedTo a 4
  | .jpeek _ a => alignedTo a 4
  | .jspill _ a _ => alignedTo a 4
  | .copy _ _ faddr _ => alignedTo faddr 4
  | .ramo _ _ op => op.toNat < 10
  | .launch _ _ a => alignedTo a 6
  | _ => true

/-- An instruction that some encoding admits. -/
def WellFormed (i : Instr) : Prop := i.wfCheck = true

end Sys2Proof
end

