-- ==== Sys2Proof/Decode.lean ====
section
/-!
DEFINITION. Decoding: a 32-bit scalar word (12 R230 to R237) or a 128-bit command packet (12 R238 to R242,
15 R321 to R341) to an instruction, or to a rejection by name; and the encoders, from the same tables.
-/
namespace Sys2Proof
open Sys2Proof.Machine

/-! ## Small codes -/

/-- Access size of bits [10:9] of an M form. -/
def Size.ofBits (v : BitVec 2) : Size :=
  match v with | 0 => .b | 1 => .h | 2 => .w | _ => .d
/-- Code of a size. -/
def Size.bits : Size → BitVec 2 | .b => 0 | .h => 1 | .w => 2 | .d => 3
/-- Bytes of a size. -/
def Size.bytes : Size → Nat | .b => 1 | .h => 2 | .w => 4 | .d => 8

/-- Order of bits [3:2] of an A form. -/
def MemOrder.ofBits (v : BitVec 2) : MemOrder :=
  match v with | 0 => .relaxed | 1 => .acquire | 2 => .release | _ => .acqRel
/-- Code of an order. -/
def MemOrder.bits : MemOrder → BitVec 2 | .relaxed => 0 | .acquire => 1 | .release => 2 | .acqRel => 3

/-- Scope of bits [1:0] of an A form. -/
def AScope.ofBits (v : BitVec 2) : AScope :=
  match v with | 0 => .cluster | 1 => .die | 2 => .package | _ => .system
/-- Code of an atomic's scope. -/
def AScope.bits : AScope → BitVec 2 | .cluster => 0 | .die => 1 | .package => 2 | .system => 3
/-- The scope that an atomic names. -/
def AScope.toScope : AScope → Scope
  | .cluster => .cluster | .die => .die | .package => .package | .system => .system

/-- Scope of a 3-bit code (11 Table MEM-1); codes 5 to 7 are reserved. -/
def Scope.ofBits (v : BitVec 3) : Option Scope :=
  match v with
  | 0 => some .core | 1 => some .cluster | 2 => some .die | 3 => some .package | 4 => some .system
  | _ => none
/-- Code of a scope. -/
def Scope.bits : Scope → BitVec 3 | .core => 0 | .cluster => 1 | .die => 2 | .package => 3 | .system => 4

/-- Rounding mode of a code (07 R121). -/
def Rounding.ofBits (v : BitVec 2) : Rounding :=
  match v with | 0 => .rne | 1 => .rtz | 2 => .rdn | _ => .rup
/-- Code of a rounding mode. -/
def Rounding.bits : Rounding → BitVec 2 | .rne => 0 | .rtz => 1 | .rdn => 2 | .rup => 3

/-- Format that the scalar unit allows for a code (07 Table FMT-1). -/
def ScalarFmt.ofBits (v : BitVec 4) : Option ScalarFmt :=
  match v with
  | 0 => some .fp32 | 1 => some .fp16 | 2 => some .bf16 | 3 => some .fp64 | 4 => some .b8a | 5 => some .b8b
  | 8 => some .i8 | 9 => some .i16 | 10 => some .i32 | 11 => some .i64
  | 12 => some .u8 | 13 => some .u16 | 14 => some .u32 | 15 => some .u64
  | _ => none
/-- Code of a scalar format. -/
def ScalarFmt.bits : ScalarFmt → BitVec 4
  | .fp32 => 0 | .fp16 => 1 | .bf16 => 2 | .fp64 => 3 | .b8a => 4 | .b8b => 5
  | .i8 => 8 | .i16 => 9 | .i32 => 10 | .i64 => 11 | .u8 => 12 | .u16 => 13 | .u32 => 14 | .u64 => 15

/-- Condition of FCMP (12 Table ENC-5). -/
def FCond.ofBits (v : BitVec 2) : FCond :=
  match v with | 0 => .eq | 1 => .lt | 2 => .le | _ => .unord
/-- Code of a condition. -/
def FCond.bits : FCond → BitVec 2 | .eq => 0 | .lt => 1 | .le => 2 | .unord => 3

/-- WKIND of YIELD; 3 is reserved. -/
def YieldKind.ofBits (v : BitVec 2) : Option YieldKind :=
  match v with | 0 => some .none | 1 => some .future | 2 => some .barrier | _ => Option.none
/-- Code of a WKIND. -/
def YieldKind.bits : YieldKind → BitVec 2 | .none => 0 | .future => 1 | .barrier => 2

/-- Slot of CMDM; 3 is reserved. -/
def CmdSlot.ofBits (v : BitVec 2) : Option CmdSlot :=
  match v with | 0 => some .low48 | 1 => some .high48 | 2 => some .low32 | _ => none
/-- Code of a slot. -/
def CmdSlot.bits : CmdSlot → BitVec 2 | .low48 => 0 | .high48 => 1 | .low32 => 2

/-- System register of a number (13 Table INT-6). -/
def SysReg.ofBits (v : BitVec 11) : Option SysReg :=
  match v.toNat with
  | 0x00 => some .status | 0x01 => some .trapcause | 0x02 => some .trappc | 0x03 => some .trapval0
  | 0x04 => some .trapval1 | 0x05 => some .utvec | 0x06 => some .stvec | 0x07 => some .uscratch
  | 0x08 => some .sscratch | 0x10 => some .f8sel | 0x11 => some .fflags | 0x20 => some .cycle
  | 0x21 => some .corenum | 0x22 => some .devid | 0x30 => some .lpdepth
  | 0x31 => some (.lpcnt 0) | 0x32 => some (.lpcnt 1) | 0x33 => some (.lpcnt 2) | 0x34 => some (.lpcnt 3)
  | 0x35 => some (.lpbnd 0) | 0x36 => some (.lpbnd 1) | 0x37 => some (.lpbnd 2) | 0x38 => some (.lpbnd 3)
  | _ => none
/-- Number of a system register. -/
def SysReg.bits : SysReg → BitVec 11
  | .status => 0x00 | .trapcause => 0x01 | .trappc => 0x02 | .trapval0 => 0x03 | .trapval1 => 0x04
  | .utvec => 0x05 | .stvec => 0x06 | .uscratch => 0x07 | .sscratch => 0x08 | .f8sel => 0x10
  | .fflags => 0x11 | .cycle => 0x20 | .corenum => 0x21 | .devid => 0x22 | .lpdepth => 0x30
  | .lpcnt n => 0x31 + n.setWidth 11 | .lpbnd n => 0x35 + n.setWidth 11

/-! ## Forms of a scalar word -/

/-- The word of an R form; the A form has the same fields above bit 3 (12 Table ENC-1). -/
def packR (op : BitVec 8) (sd sa sb : Reg) (ea eb : Bool) (fn : BitVec 4) : IWord :=
  op ++ sd ++ sa ++ sb ++ BitVec.ofBool ea ++ BitVec.ofBool eb ++ fn
/-- The word of an I form. -/
def packI (op : BitVec 8) (sd sa : Reg) (ea : Bool) (imm : BitVec 11) : IWord :=
  op ++ sd ++ sa ++ BitVec.ofBool ea ++ imm
/-- The word of an L form. -/
def packL (op : BitVec 8) (sd : Reg) (imm : BitVec 18) : IWord := op ++ sd ++ imm
/-- The word of a B form. -/
def packB (op : BitVec 8) (sa sb : Reg) (ea eb : Bool) (off : BitVec 10) : IWord :=
  op ++ sa ++ sb ++ BitVec.ofBool ea ++ BitVec.ofBool eb ++ off
/-- The word of a J form. -/
def packJ (op : BitVec 8) (off : BitVec 24) : IWord := op ++ off
/-- The word of an M form. -/
def packM (op : BitVec 8) (sd sa : Reg) (ea : Bool) (size : BitVec 2) (off : BitVec 9) : IWord :=
  op ++ sd ++ sa ++ BitVec.ofBool ea ++ size ++ off
/-- The word of an F form. -/
def packF (op : BitVec 8) (sd : Reg) (mask : BitVec 8) (scope : BitVec 3) : IWord :=
  op ++ sd ++ mask ++ scope ++ (0 : BitVec 7)
/-- The word of the LOOP form. -/
def packLoop (op : BitVec 8) (sa : Reg) (ea : Bool) (last : BitVec 17) : IWord :=
  op ++ sa ++ BitVec.ofBool ea ++ last

/-- The opcode. -/
def opOf (w : IWord) : BitVec 8 := field w 24 8
/-- Bits [23:18]: sd, or sa of the B and LOOP forms. -/
def r1 (w : IWord) : Reg := field w 18 6
/-- Bits [17:12]: sa, or sb of the B form. -/
def r2 (w : IWord) : Reg := field w 12 6
/-- Bits [11:6]: sb of the R and A forms. -/
def r3 (w : IWord) : Reg := field w 6 6
/-- fn of the R form; order and scope of the A form. -/
def fnOf (w : IWord) : BitVec 4 := field w 0 4

/-- R form operands. -/
def ropsOf (w : IWord) : ROps := { sd := r1 w, sa := r2 w, sb := r3 w, ea := bit w 5, eb := bit w 4 }
/-- R form operands, sb unused. -/
def uopsOf (w : IWord) : UOps := { sd := r1 w, sa := r2 w, ea := bit w 5 }
/-- R form operands, sd and sb unused. -/
def sopsOf (w : IWord) : SOps := { sa := r2 w, ea := bit w 5 }
/-- R form operands, sd unused. -/
def pairOf (w : IWord) : PairOps := { sa := r2 w, sb := r3 w, ea := bit w 5, eb := bit w 4 }
/-- I form operands. -/
def iopsOf (w : IWord) : IOps := { sd := r1 w, sa := r2 w, ea := bit w 11, imm := field w 0 11 }
/-- I form operands with a shift or a width. -/
def shiftOf (w : IWord) : ShiftOps := { sd := r1 w, sa := r2 w, ea := bit w 11, amount := field w 0 6 }
/-- I form operands with a bit field. -/
def fieldOf (w : IWord) : FieldOps :=
  { sd := r1 w, sa := r2 w, ea := bit w 11, pos := field w 5 6, len := field w 0 5 }
/-- L form operands. -/
def lopsOf (w : IWord) : LOps := { sd := r1 w, imm := field w 0 18 }
/-- B form operands. -/
def bopsOf (w : IWord) : BOps :=
  { sa := r1 w, sb := r2 w, ea := bit w 11, eb := bit w 10, off := field w 0 10 }
/-- M form operands. -/
def mopsOf (w : IWord) : MOps :=
  { sd := r1 w, sa := r2 w, ea := bit w 11, size := Size.ofBits (field w 9 2), off := field w 0 9 }
/-- LDQ and STQ operands. -/
def qopsOf (w : IWord) : QOps := { sd := r1 w, sa := r2 w, ea := bit w 11, off := field w 0 9 }
/-- A form operands. -/
def aopsOf (w : IWord) : AOps :=
  { sd := r1 w, sa := r2 w, sb := r3 w, ea := bit w 5, eb := bit w 4, order := MemOrder.ofBits (field w 2 2),
    scope := AScope.ofBits (field w 0 2) }
/-- Floating-point operands. -/
def fpOf (w : IWord) : FpOps :=
  { sd := r1 w, sa := r2 w, sb := r3 w, ea := bit w 5, eb := bit w 4, dbl := bit w 3,
    rm := Rounding.ofBits (field w 1 2) }

/-- The fields of R-form words that an instruction leaves unused (12 R232). -/
def noSd (w : IWord) : Bool := r1 w == 0
/-- sa and ea zero. -/
def noSa (w : IWord) : Bool := r2 w == 0 && !bit w 5
/-- sb and eb zero. -/
def noSb (w : IWord) : Bool := r3 w == 0 && !bit w 4

/-! ## Decoding a scalar word -/

/-- What the decoder answers: an instruction, or the reason of R233. -/
abbrev Decoded := Except IllegalReason Instr

/-- The fields that must be zero are (reason 2 otherwise). -/
def needZero (ok : Bool) (k : Decoded) : Decoded := if ok then k else .error .unusedField
/-- No field holds a reserved value (reason 3 otherwise). -/
def needValue (ok : Bool) (k : Decoded) : Decoded := if ok then k else .error .reservedValue
/-- A code that its table gives (reason 3 otherwise). -/
def needCode {α : Type} (c : Option α) (k : α → Decoded) : Decoded :=
  match c with | some v => k v | none => .error .reservedValue

/-- Opcode 0x01 (12 Table ENC-3). -/
def decodeInt1 (w : IWord) : Decoded :=
  match (fnOf w).toNat with
  | 0 => .ok (.add (ropsOf w))
  | 1 => .ok (.sub (ropsOf w))
  | 2 => .ok (.and (ropsOf w))
  | 3 => .ok (.or (ropsOf w))
  | 4 => .ok (.xor (ropsOf w))
  | 5 => .ok (.andn (ropsOf w))
  | 6 => .ok (.orn (ropsOf w))
  | 7 => .ok (.shl (ropsOf w))
  | 8 => .ok (.shr (ropsOf w))
  | 9 => .ok (.sar (ropsOf w))
  | 10 => .ok (.rotl (ropsOf w))
  | _ => .error .fn

/-- Opcode 0x02. -/
def decodeInt2 (w : IWord) : Decoded :=
  match (fnOf w).toNat with
  | 0 => .ok (.min (ropsOf w))
  | 1 => .ok (.max (ropsOf w))
  | 2 => .ok (.minu (ropsOf w))
  | 3 => .ok (.maxu (ropsOf w))
  | 4 => .ok (.seq (ropsOf w))
  | 5 => .ok (.sne (ropsOf w))
  | 6 => .ok (.slt (ropsOf w))
  | 7 => .ok (.sltu (ropsOf w))
  | _ => .error .fn

/-- Opcode 0x03. -/
def decodeInt3 (w : IWord) : Decoded :=
  match (fnOf w).toNat with
  | 0 => .ok (.mul (ropsOf w))
  | 1 => .ok (.mulhi (ropsOf w))
  | 2 => .ok (.mulhiu (ropsOf w))
  | 3 => .ok (.div (ropsOf w))
  | 4 => .ok (.divu (ropsOf w))
  | 5 => .ok (.rem (ropsOf w))
  | 6 => .ok (.remu (ropsOf w))
  | _ => .error .fn

/-- Opcode 0x04: sb and eb are zero. -/
def decodeInt4 (w : IWord) : Decoded :=
  match (fnOf w).toNat with
  | 0 => needZero (noSb w) (.ok (.clz (uopsOf w)))
  | 1 => needZero (noSb w) (.ok (.ctz (uopsOf w)))
  | 2 => needZero (noSb w) (.ok (.popc (uopsOf w)))
  | 3 => needZero (noSb w) (.ok (.brev (uopsOf w)))
  | _ => .error .fn

/-- Opcode 0x24. -/
def decodeLea (w : IWord) : Decoded :=
  match (fnOf w).toNat with
  | 0 => .ok (.lea (ropsOf w) 0)
  | 1 => .ok (.lea (ropsOf w) 1)
  | 2 => .ok (.lea (ropsOf w) 2)
  | 3 => .ok (.lea (ropsOf w) 3)
  | _ => .error .fn

/-- A scalar word as the decoder of R233 step 1 reads it: an instruction, or the reason of the ILLEGAL.
Reasons are tried in ascending order (notes/assumptions/15.md). -/
def decode (w : IWord) : Decoded :=
  match (opOf w).toNat with
  | 0x01 => decodeInt1 w
  | 0x02 => decodeInt2 w
  | 0x03 => decodeInt3 w
  | 0x04 => decodeInt4 w
  | 0x10 => .ok (.addi (iopsOf w))
  | 0x11 => .ok (.andi (iopsOf w))
  | 0x12 => .ok (.ori (iopsOf w))
  | 0x13 => .ok (.xori (iopsOf w))
  | 0x14 => needZero (field w 6 5 == 0) (.ok (.shli (shiftOf w)))
  | 0x15 => needZero (field w 6 5 == 0) (.ok (.shri (shiftOf w)))
  | 0x16 => needZero (field w 6 5 == 0) (.ok (.sari (shiftOf w)))
  | 0x17 => .ok (.slti (iopsOf w))
  | 0x18 => .ok (.sltiu (iopsOf w))
  | 0x19 => needZero (field w 6 5 == 0) (.ok (.sext (shiftOf w)))
  | 0x1A => needZero (field w 6 5 == 0) (.ok (.zext (shiftOf w)))
  | 0x1B => needValue ((field w 5 6).toNat + (field w 0 5).toNat + 1 ≤ 64) (.ok (.bfx (fieldOf w)))
  | 0x1C => needValue ((field w 5 6).toNat + (field w 0 5).toNat + 1 ≤ 64) (.ok (.bfxs (fieldOf w)))
  | 0x1D => needValue ((field w 5 6).toNat + (field w 0 5).toNat + 1 ≤ 64) (.ok (.bfi (fieldOf w)))
  | 0x20 => .ok (.li (lopsOf w))
  | 0x21 => .ok (.lis1 (lopsOf w))
  | 0x22 => .ok (.lis2 (lopsOf w))
  | 0x23 => needZero (field w 10 8 == 0) (.ok (.lis3 (r1 w) (field w 0 10)))
  | 0x24 => decodeLea w
  | 0x28 => .ok (.beq (bopsOf w))
  | 0x29 => .ok (.bne (bopsOf w))
  | 0x2A => .ok (.blt (bopsOf w))
  | 0x2B => .ok (.bge (bopsOf w))
  | 0x2C => .ok (.bltu (bopsOf w))
  | 0x2D => .ok (.bgeu (bopsOf w))
  | 0x30 => .ok (.jmp (field w 0 24))
  | 0x31 => .ok (.jal (field w 0 24))
  | 0x32 => needZero (noSd w) (.ok (.jr { sa := r2 w, ea := bit w 11 } (field w 0 11)))
  | 0x33 => .ok (.jalr (iopsOf w))
  | 0x34 => needValue (field w 0 17 != 0) (.ok (.loop { sa := r1 w, ea := bit w 17 } (field w 0 17)))
  | 0x38 => .ok (.ld (mopsOf w))
  | 0x39 => needValue (Size.ofBits (field w 9 2) != .d) (.ok (.lds (mopsOf w)))
  | 0x3A => .ok (.st (mopsOf w))
  | 0x3B => needValue (!bit (r1 w) 0 && field w 9 2 == 3) (.ok (.ldq (qopsOf w)))
  | 0x3C => needValue (!bit (r1 w) 0 && field w 9 2 == 3) (.ok (.stq (qopsOf w)))
  | 0x40 => .ok (.amoadd (aopsOf w))
  | 0x41 => .ok (.amoand (aopsOf w))
  | 0x42 => .ok (.amoor (aopsOf w))
  | 0x43 => .ok (.amoxor (aopsOf w))
  | 0x44 => .ok (.amomin (aopsOf w))
  | 0x45 => .ok (.amomax (aopsOf w))
  | 0x46 => .ok (.amominu (aopsOf w))
  | 0x47 => .ok (.amomaxu (aopsOf w))
  | 0x48 => .ok (.amoswp (aopsOf w))
  | 0x49 => .ok (.cas (aopsOf w))
  | 0x4A => needZero (noSb w) (needValue (!bit w 3) (.ok (.lda (uopsOf w) (bit w 2) (AScope.ofBits (field w 0 2)))))
  | 0x4B => needZero (noSd w) (needValue (!bit w 2) (.ok (.stl (pairOf w) (bit w 3) (AScope.ofBits (field w 0 2)))))
  | 0x4C => needZero (field w 0 7 == 0) (needCode (Scope.ofBits (field w 7 3)) fun sc =>
      .ok (.fence { sd := r1 w, mask := field w 10 8, scope := sc }))
  | 0x4D => needZero (field w 0 7 == 0) (needCode (Scope.ofBits (field w 7 3)) fun sc =>
      .ok (.fencec { sd := r1 w, mask := field w 10 8, scope := sc }))
  | 0x50 => needZero (noSb w && fnOf w == 0) (.ok (.ldf (uopsOf w)))
  | 0x51 => needZero (noSd w && fnOf w == 0) (.ok (.fput (pairOf w)))
  | 0x52 => needZero (noSd w && noSb w && fnOf w == 0) (.ok (.fclr (sopsOf w)))
  | 0x53 => needZero (noSb w && fnOf w == 0) (.ok (.ftest (uopsOf w)))
  | 0x54 => needZero (noSa w && noSb w && fnOf w == 0) (needValue (r1 w != 0) (.ok (.fempty (r1 w))))
  | 0x55 => needZero (!bit w 5 && noSb w && fnOf w == 0) (.ok (.rfull (r1 w) (r2 w)))
  | 0x56 => needZero (noSd w && noSb w && !bit w 3) (needCode (Scope.ofBits (field w 0 3)) fun sc => .ok (.bararr (sopsOf w) sc))
  | 0x57 => needZero (noSd w && !bit w 3) (needCode (Scope.ofBits (field w 0 3)) fun sc => .ok (.barexp (pairOf w) sc))
  | 0x58 => needZero (noSb w && !bit w 3) (needCode (Scope.ofBits (field w 0 3)) fun sc => .ok (.bartok (uopsOf w) sc))
  | 0x60 => .ok (.talloc (ropsOf w) (fnOf w))
  | 0x61 => needZero (noSd w && noSb w && fnOf w == 0) (.ok (.tcons (sopsOf w)))
  | 0x62 => needZero (noSd w && noSb w && fnOf w == 0) (.ok (.tfree (sopsOf w)))
  | 0x63 => needZero (noSb w && fnOf w == 0) (.ok (.tinfo (uopsOf w)))
  | 0x64 => needZero (noSd w) (.ok (.tsend (pairOf w) (fnOf w)))
  | 0x65 => needZero (noSb w && fnOf w == 0) (.ok (.taddr (uopsOf w)))
  | 0x70 => needZero (noSd w && noSb w) (.ok (.spawn (sopsOf w) (bit w 0) (bit w 1) (bit w 2) (bit w 3)))
  | 0x71 => needZero (noSd w && noSa w && noSb w && fnOf w == 0) (.ok .retire)
  | 0x72 => needZero (noSd w && field w 2 2 == 0 && (field w 0 2 != 0 || noSb w)) (
      needCode (YieldKind.ofBits (field w 0 2)) fun k => .ok (.yield (pairOf w) k))
  | 0x73 => needZero (noSd w && noSa w && noSb w && fnOf w == 0) (.ok .etrig)
  | 0x74 => needZero (noSa w && noSb w && fnOf w == 0) (.ok (.runq (r1 w)))
  | 0x78 => needZero (noSd w && noSb w && fnOf w == 0) (.ok (.cmd (sopsOf w)))
  | 0x79 => needZero (noSd w && field w 2 2 == 0) (
      needCode (CmdSlot.ofBits (field w 0 2)) fun sl => .ok (.cmdm (pairOf w) sl))
  | 0x7A => needZero (noSb w && fnOf w == 0) (.ok (.prd (uopsOf w)))
  | 0x7B => needZero (noSd w && fnOf w == 0) (.ok (.pwr (pairOf w)))
  | 0x7C => needZero (noSb w && field w 1 3 == 0) (.ok (.cfg (uopsOf w) (bit w 0)))
  | 0x7D => needZero (noSa w && noSb w && fnOf w == 0) (.ok (.instq (r1 w)))
  | 0x80 => needZero (!bit w 0) (.ok (.fadd (fpOf w)))
  | 0x81 => needZero (!bit w 0) (.ok (.fsub (fpOf w)))
  | 0x82 => needZero (!bit w 0) (.ok (.fmul (fpOf w)))
  | 0x83 => needZero (!bit w 0) (.ok (.fdiv (fpOf w)))
  | 0x84 => needZero (noSb w && !bit w 0) (.ok (.fsqrt (uopsOf w) (bit w 3) (Rounding.ofBits (field w 1 2))))
  | 0x85 => needZero (!bit w 0) (.ok (.fma (fpOf w)))
  | 0x86 => needZero (field w 0 3 == 0) (.ok (.fmin (ropsOf w) (bit w 3)))
  | 0x87 => needZero (field w 0 3 == 0) (.ok (.fmax (ropsOf w) (bit w 3)))
  | 0x88 => needZero (!bit w 0) (.ok (.fcmp (ropsOf w) (bit w 3) (FCond.ofBits (field w 1 2))))
  | 0x89 => needZero (noSb w && field w 0 3 == 0) (.ok (.fclass (uopsOf w) (bit w 3)))
  | 0x8A => needCode (ScalarFmt.ofBits (field w 7 4)) fun d => needCode (ScalarFmt.ofBits (field w 3 4)) fun sf =>
      needValue (d != sf || bit w 0)
        (.ok (.cvt { sd := r1 w, sa := r2 w, ea := bit w 11 } d sf (Rounding.ofBits (field w 1 2)) (bit w 0)))
  | 0x90 => needZero (r1 w == 0 && r2 w == 0 && !bit w 11) (.ok (.trap (field w 0 11)))
  | 0x91 => needZero (noSd w && noSa w && noSb w && fnOf w == 0) (.ok .eret)
  | 0x92 => needZero (r2 w == 0 && !bit w 11) (needCode (SysReg.ofBits (field w 0 11)) fun n => .ok (.mfs (r1 w) n))
  | 0x93 => needZero (noSd w) (
      needCode (SysReg.ofBits (field w 0 11)) fun n => .ok (.mts { sa := r2 w, ea := bit w 11 } n))
  | 0x94 => needZero (noSd w && noSa w && noSb w && fnOf w == 0) (.ok .wfe)
  | 0x95 => needZero (noSd w && noSa w && noSb w && fnOf w == 0) (.ok .sev)
  | 0x96 => needZero (noSd w && noSa w && noSb w && fnOf w == 0) (.ok .halt)
  | 0x97 => needZero (noSd w && noSa w && noSb w && fnOf w == 0) (.ok .bkpt)
  | _ => .error .opcode

/-! ## Encoding a scalar instruction -/

/-- R form of three registers. -/
def ROps.pack (o : ROps) (op : BitVec 8) (fn : BitVec 4) : IWord := packR op o.sd o.sa o.sb o.ea o.eb fn
/-- R form without sb. -/
def UOps.pack (o : UOps) (op : BitVec 8) (fn : BitVec 4) : IWord := packR op o.sd o.sa 0 o.ea false fn
/-- R form with sa only. -/
def SOps.pack (o : SOps) (op : BitVec 8) (fn : BitVec 4) : IWord := packR op 0 o.sa 0 o.ea false fn
/-- R form without sd. -/
def PairOps.pack (o : PairOps) (op : BitVec 8) (fn : BitVec 4) : IWord := packR op 0 o.sa o.sb o.ea o.eb fn
/-- I form. -/
def IOps.pack (o : IOps) (op : BitVec 8) : IWord := packI op o.sd o.sa o.ea o.imm
/-- I form with a shift or width. -/
def ShiftOps.pack (o : ShiftOps) (op : BitVec 8) : IWord := packI op o.sd o.sa o.ea ((0 : BitVec 5) ++ o.amount)
/-- I form with a bit field. -/
def FieldOps.pack (o : FieldOps) (op : BitVec 8) : IWord := packI op o.sd o.sa o.ea (o.pos ++ o.len)
/-- L form. -/
def LOps.pack (o : LOps) (op : BitVec 8) : IWord := packL op o.sd o.imm
/-- B form. -/
def BOps.pack (o : BOps) (op : BitVec 8) : IWord := packB op o.sa o.sb o.ea o.eb o.off
/-- M form. -/
def MOps.pack (o : MOps) (op : BitVec 8) : IWord := packM op o.sd o.sa o.ea o.size.bits o.off
/-- M form of a register pair. -/
def QOps.pack (o : QOps) (op : BitVec 8) : IWord := packM op o.sd o.sa o.ea 3 o.off
/-- A form. -/
def AOps.pack (o : AOps) (op : BitVec 8) : IWord :=
  packR op o.sd o.sa o.sb o.ea o.eb (o.order.bits ++ o.scope.bits)
/-- Floating-point R form. -/
def FpOps.pack (o : FpOps) (op : BitVec 8) : IWord :=
  packR op o.sd o.sa o.sb o.ea o.eb (BitVec.ofBool o.dbl ++ o.rm.bits ++ (0 : BitVec 1))
/-- F form. -/
def FenceOps.pack (o : FenceOps) (op : BitVec 8) : IWord := packF op o.sd o.mask o.scope.bits

/-- Whether the constructor is a scalar instruction of the table. -/
def Instr.isScalar : Instr → Bool
  | .add _ | .sub _ | .and _ | .or _ | .xor _ | .andn _ | .orn _ | .shl _ | .shr _ | .sar _ | .rotl _
  | .min _ | .max _ | .minu _ | .maxu _ | .seq _ | .sne _ | .slt _ | .sltu _ | .mul _ | .mulhi _
  | .mulhiu _ | .div _ | .divu _ | .rem _ | .remu _ | .clz _ | .ctz _ | .popc _ | .brev _ | .lea _ _
  | .addi _ | .andi _ | .ori _ | .xori _ | .shli _ | .shri _ | .sari _ | .slti _ | .sltiu _ | .sext _
  | .zext _ | .bfx _ | .bfxs _ | .bfi _ | .li _ | .lis1 _ | .lis2 _ | .lis3 _ _ | .beq _ | .bne _ | .blt _
  | .bge _ | .bltu _ | .bgeu _ | .jmp _ | .jal _ | .jr _ _ | .jalr _ | .loop _ _ | .ld _ | .lds _ | .st _
  | .ldq _ | .stq _ | .amoadd _ | .amoand _ | .amoor _ | .amoxor _ | .amomin _ | .amomax _ | .amominu _
  | .amomaxu _ | .amoswp _ | .cas _ | .lda _ _ _ | .stl _ _ _ | .fence _ | .fencec _ | .ldf _ | .fput _
  | .fclr _ | .ftest _ | .fempty _ | .rfull _ _ | .bararr _ _ | .barexp _ _ | .bartok _ _ | .talloc _ _
  | .tcons _ | .tfree _ | .tinfo _ | .tsend _ _ | .taddr _ | .spawn _ _ _ _ _ | .retire | .yield _ _
  | .etrig | .runq _ | .cmd _ | .cmdm _ _ | .prd _ | .pwr _ | .cfg _ _ | .instq _ | .fadd _ | .fsub _
  | .fmul _ | .fdiv _ | .fsqrt _ _ _ | .fma _ | .fmin _ _ | .fmax _ _ | .fcmp _ _ _ | .fclass _ _
  | .cvt _ _ _ _ _ | .trap _ | .eret | .mfs _ _ | .mts _ _ | .wfe | .sev | .halt | .bkpt => true
  | _ => false

/-- The word of a scalar instruction, from the tables that `decode` follows. A rejected word is its own
encoding; a command or an event has no scalar word. -/
def encode : Instr → IWord
  | .add o => o.pack 0x01 0
  | .sub o => o.pack 0x01 1
  | .and o => o.pack 0x01 2
  | .or o => o.pack 0x01 3
  | .xor o => o.pack 0x01 4
  | .andn o => o.pack 0x01 5
  | .orn o => o.pack 0x01 6
  | .shl o => o.pack 0x01 7
  | .shr o => o.pack 0x01 8
  | .sar o => o.pack 0x01 9
  | .rotl o => o.pack 0x01 10
  | .min o => o.pack 0x02 0
  | .max o => o.pack 0x02 1
  | .minu o => o.pack 0x02 2
  | .maxu o => o.pack 0x02 3
  | .seq o => o.pack 0x02 4
  | .sne o => o.pack 0x02 5
  | .slt o => o.pack 0x02 6
  | .sltu o => o.pack 0x02 7
  | .mul o => o.pack 0x03 0
  | .mulhi o => o.pack 0x03 1
  | .mulhiu o => o.pack 0x03 2
  | .div o => o.pack 0x03 3
  | .divu o => o.pack 0x03 4
  | .rem o => o.pack 0x03 5
  | .remu o => o.pack 0x03 6
  | .clz o => o.pack 0x04 0
  | .ctz o => o.pack 0x04 1
  | .popc o => o.pack 0x04 2
  | .brev o => o.pack 0x04 3
  | .lea o k => o.pack 0x24 ((0 : BitVec 2) ++ k)
  | .addi o => o.pack 0x10
  | .andi o => o.pack 0x11
  | .ori o => o.pack 0x12
  | .xori o => o.pack 0x13
  | .shli o => o.pack 0x14
  | .shri o => o.pack 0x15
  | .sari o => o.pack 0x16
  | .slti o => o.pack 0x17
  | .sltiu o => o.pack 0x18
  | .sext o => o.pack 0x19
  | .zext o => o.pack 0x1A
  | .bfx o => o.pack 0x1B
  | .bfxs o => o.pack 0x1C
  | .bfi o => o.pack 0x1D
  | .li o => o.pack 0x20
  | .lis1 o => o.pack 0x21
  | .lis2 o => o.pack 0x22
  | .lis3 sd imm => packL 0x23 sd ((0 : BitVec 8) ++ imm)
  | .beq o => o.pack 0x28
  | .bne o => o.pack 0x29
  | .blt o => o.pack 0x2A
  | .bge o => o.pack 0x2B
  | .bltu o => o.pack 0x2C
  | .bgeu o => o.pack 0x2D
  | .jmp off => packJ 0x30 off
  | .jal off => packJ 0x31 off
  | .jr o imm => packI 0x32 0 o.sa o.ea imm
  | .jalr o => o.pack 0x33
  | .loop o last => packLoop 0x34 o.sa o.ea last
  | .ld o => o.pack 0x38
  | .lds o => o.pack 0x39
  | .st o => o.pack 0x3A
  | .ldq o => o.pack 0x3B
  | .stq o => o.pack 0x3C
  | .amoadd o => o.pack 0x40
  | .amoand o => o.pack 0x41
  | .amoor o => o.pack 0x42
  | .amoxor o => o.pack 0x43
  | .amomin o => o.pack 0x44
  | .amomax o => o.pack 0x45
  | .amominu o => o.pack 0x46
  | .amomaxu o => o.pack 0x47
  | .amoswp o => o.pack 0x48
  | .cas o => o.pack 0x49
  | .lda o acq sc => o.pack 0x4A ((0 : BitVec 1) ++ BitVec.ofBool acq ++ sc.bits)
  | .stl o rel sc => o.pack 0x4B (BitVec.ofBool rel ++ (0 : BitVec 1) ++ sc.bits)
  | .fence o => o.pack 0x4C
  | .fencec o => o.pack 0x4D
  | .ldf o => o.pack 0x50 0
  | .fput o => o.pack 0x51 0
  | .fclr o => o.pack 0x52 0
  | .ftest o => o.pack 0x53 0
  | .fempty sd => packR 0x54 sd 0 0 false false 0
  | .rfull sd sa => packR 0x55 sd sa 0 false false 0
  | .bararr o sc => o.pack 0x56 ((0 : BitVec 1) ++ sc.bits)
  | .barexp o sc => o.pack 0x57 ((0 : BitVec 1) ++ sc.bits)
  | .bartok o sc => o.pack 0x58 ((0 : BitVec 1) ++ sc.bits)
  | .talloc o part => o.pack 0x60 part
  | .tcons o => o.pack 0x61 0
  | .tfree o => o.pack 0x62 0
  | .tinfo o => o.pack 0x63 0
  | .tsend o port => o.pack 0x64 port
  | .taddr o => o.pack 0x65 0
  | .spawn o t rpl ute tile => o.pack 0x70 (BitVec.ofBool tile ++ BitVec.ofBool ute ++ BitVec.ofBool rpl ++ BitVec.ofBool t)
  | .retire => packR 0x71 0 0 0 false false 0
  | .yield o k => o.pack 0x72 ((0 : BitVec 2) ++ k.bits)
  | .etrig => packR 0x73 0 0 0 false false 0
  | .runq sd => packR 0x74 sd 0 0 false false 0
  | .cmd o => o.pack 0x78 0
  | .cmdm o sl => o.pack 0x79 ((0 : BitVec 2) ++ sl.bits)
  | .prd o => o.pack 0x7A 0
  | .pwr o => o.pack 0x7B 0
  | .cfg o graph => o.pack 0x7C ((0 : BitVec 3) ++ BitVec.ofBool graph)
  | .instq sd => packR 0x7D sd 0 0 false false 0
  | .fadd o => o.pack 0x80
  | .fsub o => o.pack 0x81
  | .fmul o => o.pack 0x82
  | .fdiv o => o.pack 0x83
  | .fsqrt o dbl rm => o.pack 0x84 (BitVec.ofBool dbl ++ rm.bits ++ (0 : BitVec 1))
  | .fma o => o.pack 0x85
  | .fmin o dbl => o.pack 0x86 (BitVec.ofBool dbl ++ (0 : BitVec 3))
  | .fmax o dbl => o.pack 0x87 (BitVec.ofBool dbl ++ (0 : BitVec 3))
  | .fcmp o dbl c => o.pack 0x88 (BitVec.ofBool dbl ++ c.bits ++ (0 : BitVec 1))
  | .fclass o dbl => o.pack 0x89 (BitVec.ofBool dbl ++ (0 : BitVec 3))
  | .cvt o d sf rm sat => packI 0x8A o.sd o.sa o.ea (d.bits ++ sf.bits ++ rm.bits ++ BitVec.ofBool sat)
  | .trap n => packI 0x90 0 0 false n
  | .eret => packR 0x91 0 0 0 false false 0
  | .mfs sd n => packI 0x92 sd 0 false n.bits
  | .mts o n => packI 0x93 0 o.sa o.ea n.bits
  | .wfe => packR 0x94 0 0 0 false false 0
  | .sev => packR 0x95 0 0 0 false false 0
  | .halt => packR 0x96 0 0 0 false false 0
  | .bkpt => packR 0x97 0 0 0 false false 0
  | .undecodableInstruction word _ => word
  | _ => 0

/-! ## Command packets -/

/-- Why a packet is refused before or beside its descriptor (15 R321): a header field (R240), the EXT rule,
or a body field at its lowest bit number. A body fault of a command whose descriptor is read first keeps
the instruction, so that the engine can make the earlier checks. -/
inductive PacketError where
  | header (off : Nat)
  | ext
  | body (i : Instr) (off : Nat)
  deriving DecidableEq, Repr

/-- The first check that fails, in the order given; each check is a condition and the field's bit number. -/
def firstBad : List (Bool × Nat) → Option Nat
  | [] => none
  | (ok, off) :: rest => if ok then firstBad rest else some off

/-- The zero fields and the kind of a reference whose lowest bit stands at `lo` (12 Table ENC-8). -/
def refChecks (r : Word) (lo : Nat) : List (Bool × Nat) :=
  [(field r 62 2 != 3, lo + 62), (field r 48 14 == 0, lo + 48),
   (field r 62 2 != 1 || field r 32 16 == 0, lo + 32), (field r 62 2 != 2 || field r 4 44 == 0, lo + 4)]

/-- Whether a command needs, allows or forbids EXT (15 Table CMD-3). -/
inductive ExtRule where
  | yes | no | allowed
  deriving DecidableEq, Repr

/-- Header facts of a command (12 Table ENC-7, 15 Table CMD-3): whether the target is a port, whether it
defines C0 and C1, and its EXT rule for a given C0. -/
structure CmdShape where
  port : Bool
  c0 : Bool
  c1 : Bool
  ext : Bool → ExtRule

/-- The header facts of an opcode that a sequencer may issue; SNAP (0x09) is the Ostler's alone (15 R327). -/
def cmdShape (op : Nat) : Option CmdShape :=
  match op with
  | 0x01 | 0x02 | 0x03 | 0x04 | 0x05 => some ⟨true, true, false, fun _ => .no⟩
  | 0x06 => some ⟨true, false, false, fun _ => .no⟩
  | 0x07 | 0x08 | 0x0A => some ⟨false, false, false, fun _ => .no⟩
  | 0x20 | 0x21 | 0x22 => some ⟨false, false, false, fun _ => .yes⟩
  | 0x23 | 0x25 | 0x26 | 0x27 => some ⟨false, false, false, fun _ => .no⟩
  | 0x24 => some ⟨false, true, true, fun c0 => if c0 then .yes else .no⟩
  | 0x40 | 0x41 | 0x42 | 0x60 | 0x61 | 0x62 | 0x63 => some ⟨false, false, false, fun _ => .yes⟩
  | 0x43 => some ⟨false, false, false, fun _ => .no⟩
  | 0x44 => some ⟨false, false, false, fun _ => .allowed⟩
  | 0x70 => some ⟨false, true, false, fun _ => .no⟩
  | _ => none

/-- Opcode of a packet. -/
def pktOp (p : Packet) : Nat := (field p 120 8).toNat
/-- Token register of a packet (12 Table ENC-6). -/
def pktTok (p : Packet) : Reg := field p 108 6

/-- The header check of R240, in the order of its list. -/
def headerCheck (p : Packet) : Option PacketError :=
  match cmdShape (pktOp p) with
  | none => some (.header 120)
  | some sh =>
    let tgtOk := if sh.port then field p 118 2 == 0 else field p 114 6 == 0
    match firstBad [(tgtOk, 114), (!bit p 107, 107), (sh.c0 || !bit p 105, 105), (sh.c1 || !bit p 106, 106)] with
    | some off => some (.header off)
    | none =>
      match sh.ext (bit p 105), bit p 104 with
      | .yes, false => some .ext
      | .no, true => some .ext
      | _, _ => none

/-- Format fields of JDENSE, JSPARSE and JGATH (15 Table CMD-5). -/
def joinFmtOf (p : Packet) : JoinFmt :=
  { fmt := field p 48 4, var := field p 52 5, afmt := field p 57 2, rm := Rounding.ofBits (field p 59 2) }

/-- The checks on the format fields of a join command, in ascending bit order; `nb16` says that NB16 values have a layout
in the command's operands (07 R134). -/
def joinFmtChecks (f : JoinFmt) (nb16 : Bool) : List (Bool × Nat) :=
  [(f.codeOk && (nb16 || f.fmt != 6), 48), (f.varOk, 52), (f.afmt != 3, 57)]

/-- The instruction that a packet with a good header names, with the checks of its body in the order of
R321: references first, then fields by ascending bit number. Bits that a layout leaves unnamed are reserved
(notes/assumptions/16.md). -/
def decodeBody (p : Packet) : Instr × List (Bool × Nat) :=
  let tok := pktTok p
  let port : BitVec 4 := field p 114 4
  let eof := bit p 105
  let ext : BitVec 48 := field p 0 48
  let z (lo n : Nat) : Bool × Nat := (field p lo n == 0, lo)
  match pktOp p with
  | 0x01 => (.feed { tok := tok, port := port, eof := eof, addr := ext, count := field p 48 32,
                     level := field p 80 3 }, [(alignedTo ext 7, 0), z 83 21])
  | 0x02 => (.feedt { tok := tok, port := port, eof := eof, handle := field p 0 32, count := field p 48 32,
                      level := field p 80 3 }, [z 32 16, z 83 21])
  | 0x03 => (.feedc { tok := tok, port := port, eof := eof, base := field p 0 32, step := field p 32 32,
                      count := field p 64 32, level := field p 96 3 }, [z 99 5])
  | 0x04 => (.drain { tok := tok, port := port, eof := eof, addr := ext, count := field p 48 32 },
             [(alignedTo ext 7, 0), z 80 24])
  | 0x05 => (.draint { tok := tok, port := port, eof := eof, handle := field p 0 32, count := field p 48 32 },
             [z 32 16, z 80 24])
  | 0x06 => (.eofi tok port (field p 0 3), [z 3 101])
  | 0x07 => (.parm tok (field p 32 7) (field p 39 3) (field p 0 32),
             [(decide ((field p 32 7).toNat < 120), 32), z 42 62])
  | 0x08 => (.arm tok (field p 0 12), [(field p 0 12 != 0, 0), z 12 92])
  | 0x0A => (.haltf tok, [z 0 104])
  | 0x20 => (.jdense tok (joinFmtOf p) (field p 61 7) (field p 68 6) (field p 74 15) ext,
             joinFmtChecks (joinFmtOf p) true ++ [z 89 15])
  | 0x21 => (.jsparse tok (joinFmtOf p) ext, joinFmtChecks (joinFmtOf p) true ++ [z 61 43])
  | 0x22 => (.jgath tok (joinFmtOf p) (field p 61 12) ext,
             joinFmtChecks (joinFmtOf p) false ++ [z 73 31])
  | 0x23 => (.jfeed tok (field p 0 64) (field p 64 32) (field p 96 2) (Rounding.ofBits (field p 98 2)),
             refChecks (field p 0 64) 0 ++ [(field p 96 2 != 3, 96), z 100 4])
  | 0x24 =>
    if eof then (.jdrain tok (bit p 106) (.dense ext), [z 48 56])
    else (.jdrain tok (bit p 106) (.records ext), [(alignedTo ext 4, 0), z 48 56])
  | 0x25 => (.jpeek tok ext, [(alignedTo ext 4, 0), z 48 56])
  | 0x26 => (.jclr tok, [z 0 104])
  | 0x27 => (.jspill tok ext (field p 48 32), [(alignedTo ext 4, 0), z 80 24])
  | 0x40 => (.copy tok ext (field p 48 48) (field p 96 6), [(alignedTo (field p 48 48) 4, 48), z 102 2])
  | 0x41 => (.mcast tok ext, [z 48 56])
  | 0x42 => (.pagein tok ext, [z 48 56])
  | 0x43 =>
    match Scope.ofBits (field p 80 3) with
    | some sc => (.publish tok ext (field p 48 32) sc, [z 83 21])
    | none => (.publish tok ext (field p 48 32) .core, [(false, 80)])
  | 0x44 =>
    if bit p 104 then (.fill tok (.desc ext), [z 48 56])
    else (.fill tok (.direct ext (field p 48 32) (field p 80 8)), [z 88 16])
  | 0x60 => (.rput tok ext, [z 48 56])
  | 0x61 => (.rget tok ext, [z 48 56])
  | 0x62 => (.ramo tok ext (field p 48 4), [(decide ((field p 48 4).toNat < 10), 48), z 52 52])
  | 0x63 => (.rsend tok ext, [z 48 56])
  | _ => (.launch tok eof ext, [(alignedTo ext 6, 0), z 48 56])

/-- A command packet as its engine reads it (12 R240, 15 R321). -/
def decodePacket (p : Packet) : Except PacketError Instr :=
  match headerCheck p with
  | some e => .error e
  | none =>
    let (i, checks) := decodeBody p
    match firstBad checks with
    | some off => .error (.body i off)
    | none => .ok i

/-! ## Encoding a command packet -/

/-- The packet of a header and a body (12 Table ENC-6). -/
def packCmd (op : BitVec 8) (target : BitVec 6) (tok : Reg) (c1 c0 ext : Bool) (body : BitVec 104) : Packet :=
  op ++ target ++ tok ++ (0 : BitVec 1) ++ BitVec.ofBool c1 ++ BitVec.ofBool c0 ++ BitVec.ofBool ext ++ body

/-- A body whose named fields end at bit `n`. -/
def body {n : Nat} (v : BitVec n) : BitVec 104 := v.setWidth 104

/-- The target of a port. -/
def portTarget (p : BitVec 4) : BitVec 6 := (0 : BitVec 2) ++ p

/-- The format fields of a join body, from bit 48. -/
def JoinFmt.pack (f : JoinFmt) : BitVec 13 := f.rm.bits ++ f.afmt ++ f.var ++ f.fmt

/-- The packet of a command; an instruction that is no command has none. -/
def encodePacket : Instr → Packet
  | .feed o => packCmd 0x01 (portTarget o.port) o.tok false o.eof false (body (o.level ++ o.count ++ o.addr))
  | .feedt o => packCmd 0x02 (portTarget o.port) o.tok false o.eof false
      (body (o.level ++ o.count ++ (0 : BitVec 16) ++ o.handle))
  | .feedc o => packCmd 0x03 (portTarget o.port) o.tok false o.eof false
      (body (o.level ++ o.count ++ o.step ++ o.base))
  | .drain o => packCmd 0x04 (portTarget o.port) o.tok false o.eof false (body (o.count ++ o.addr))
  | .draint o => packCmd 0x05 (portTarget o.port) o.tok false o.eof false
      (body (o.count ++ (0 : BitVec 16) ++ o.handle))
  | .eofi tok port level => packCmd 0x06 (portTarget port) tok false false false (body level)
  | .parm tok elem k value => packCmd 0x07 0 tok false false false (body (k ++ elem ++ value))
  | .arm tok cols => packCmd 0x08 0 tok false false false (body cols)
  | .haltf tok => packCmd 0x0A 0 tok false false false 0
  | .jdense tok f m n base ext => packCmd 0x20 0 tok false false true (body (base ++ n ++ m ++ f.pack ++ ext))
  | .jsparse tok f ext => packCmd 0x21 0 tok false false true (body (f.pack ++ ext))
  | .jgath tok f nb ext => packCmd 0x22 0 tok false false true (body (nb ++ f.pack ++ ext))
  | .jfeed tok src count afmt rm => packCmd 0x23 0 tok false false false (body (rm.bits ++ afmt ++ count ++ src))
  | .jdrain tok ordered (.records a) => packCmd 0x24 0 tok ordered false false (body a)
  | .jdrain tok ordered (.dense ext) => packCmd 0x24 0 tok ordered true true (body ext)
  | .jpeek tok a => packCmd 0x25 0 tok false false false (body a)
  | .jclr tok => packCmd 0x26 0 tok false false false 0
  | .jspill tok a cap => packCmd 0x27 0 tok false false false (body (cap ++ a))
  | .copy tok ext faddr ftok => packCmd 0x40 0 tok false false true (body (ftok ++ faddr ++ ext))
  | .mcast tok ext => packCmd 0x41 0 tok false false true (body ext)
  | .pagein tok ext => packCmd 0x42 0 tok false false true (body ext)
  | .publish tok a len sc => packCmd 0x43 0 tok false false false (body (sc.bits ++ len ++ a))
  | .fill tok (.direct dst len byte) => packCmd 0x44 0 tok false false false (body (byte ++ len ++ dst))
  | .fill tok (.desc ext) => packCmd 0x44 0 tok false false true (body ext)
  | .rput tok ext => packCmd 0x60 0 tok false false true (body ext)
  | .rget tok ext => packCmd 0x61 0 tok false false true (body ext)
  | .ramo tok ext op => packCmd 0x62 0 tok false false true (body (op ++ ext))
  | .rsend tok ext => packCmd 0x63 0 tok false false true (body ext)
  | .launch tok early a => packCmd 0x70 0 tok false early false (body a)
  | _ => 0

/-- Whether the constructor is a stream command. -/
def Instr.isCommand : Instr → Bool
  | .feed _ | .feedt _ | .feedc _ | .drain _ | .draint _ | .eofi _ _ _ | .parm _ _ _ _ | .arm _ _ | .haltf _
  | .jdense _ _ _ _ _ _ | .jsparse _ _ _ | .jgath _ _ _ _ | .jfeed _ _ _ _ _ | .jdrain _ _ _ | .jpeek _ _
  | .jclr _ | .jspill _ _ _ | .copy _ _ _ _ | .mcast _ _ | .pagein _ _ | .publish _ _ _ _ | .fill _ _
  | .rput _ _ | .rget _ _ | .ramo _ _ _ | .rsend _ _ | .launch _ _ _ => true
  | _ => false

/-! ## The host's reading of a table row -/

/-- The instruction that the decoder reads from `nbits` bits numbered as spec/opcode_table.json numbers
them: one little-endian 32-bit word, or a packet of 128 bits; bits above `nbits` are zero. -/
def decodeTableWord (nbits w : Nat) : Option Instr :=
  if nbits ≤ 32 then
    match decode (BitVec.ofNat 32 w) with
    | .ok i => some i
    | .error _ => none
  else
    match decodePacket (BitVec.ofNat 128 w) with
    | .ok i => some i
    | .error _ => none

end Sys2Proof
end

