-- ==== Sys2Proof/Machine/EngineTypes.lean ====
section
/-!
DEFINITION. The plain-data types of the engines of a core: commands and their completions, shadow
writes, the fabric with its configuration, the join engine with its Corral, and the Loft.
-/
namespace Sys2Proof.Machine

/-! ## Commands, completions and shadow writes -/

/-- Which task a result belongs to: its Paddock, its record, and the start of the record that it belongs to
(a record that is requeued with CTX = 0 starts anew). The name 0 stands for the supervisor's handler that
runs with no task (13 R284). -/
structure Owner where
  pdk : PdkNum
  name : RecName
  run : Nat
  deriving DecidableEq, Repr

/-- A piece of an engine access that a command has made: its address, length and direction, where it performs, and the
bytes that a read brought. -/
structure Piece where
  va : Nat
  len : Nat
  wr : Bool
  tgt : Target
  bytes : List Byte
  deriving DecidableEq, Repr

/-- What holds a command at its inbox (11 R220): nothing, pending ranges that its source ranges meet, or a table of pending
ranges that is full. -/
inductive Hold where
  | no
  | ranges (sources : List (Nat × Nat))
  | full
  deriving DecidableEq, Repr

/-- A command packet in an inbox (15 R319): the sequencer's serial number for it, the packet's address
(TRAPPC of a fault without a token, 03 R58), the task that issued it, the privilege at issue
(notes/assumptions/23.md), its token register, its descriptor once it has been read (12 R242), the accesses that it made
before it was held or suspended, which stand (03 R59, R61; 15 R332, R341), and what held it when it was last tried. -/
structure Cmd where
  id : Nat
  addr : Word
  packet : Packet
  owner : Owner
  priv : Priv
  tok : Reg
  desc : Option (List Byte) := none
  trail : List Piece := []
  hold : Hold := .no
  deriving DecidableEq, Repr

/-- A command that has ended and whose token is still to fill (15 R320): its word and the CODE in it. With
token s0 a fault is raised instead. -/
structure Completion where
  id : Nat
  tok : Reg
  word : Word
  code : Code
  addr : Word
  owner : Owner
  deriving DecidableEq, Repr

/-- Bytes to be written from a target onward. -/
structure Run where
  tgt : Target
  bytes : List Byte
  deriving DecidableEq, Repr

/-- The leaf exchange of a PAGEIN (03 R60): the entry's address, the entry read in step 1 and the new entry. -/
structure LeafSwap where
  pa : Nat
  old : Word
  new : Word
  deriving DecidableEq, Repr

/-- A set of shadow writes that awaits its publish (11 R218): the command's core, task and serial
number, the publish scope, the destination range tracked under 11 R220 (first address and length),
whether the write is a join's (published at the task's commit, 10 R181), the completion that follows the
publish, a follow-on join (10 R204) and a PAGEIN's leaf (03 R60). -/
structure Shadow where
  id : Nat
  core : CoreNum
  owner : Owner
  cmd : Nat
  isJoin : Bool
  scope : Scope
  runs : List Run
  start : Nat
  len : Nat
  completion : Option Completion
  followOn : Option Cmd
  leaf : Option LeafSwap
  deriving DecidableEq, Repr

/-- A command suspended on a non-resident tier page (03 R59): the inbox it stood in, the command and the
page's virtual address. -/
structure Suspended where
  box : Box
  cmd : Cmd
  va : BitVec 48
  deriving DecidableEq, Repr

/-! ## The fabric -/

/-- One instant of a data channel (08 R137): 1,024 data bits (32 words, or 512 digit codes) when
`valid`; on a D channel one of the eight header instants of the next group when `hdr` is present, with
its group word (07 R131) in the first of them; or an end-of-fibre marker. `last` says that the group in progress carries
no further digit instants (08 R148). -/
structure Item where
  valid : Bool
  data : BitVec 1024
  hdr : Option (BitVec 1024)
  gword : Option (BitVec 16)
  marker : Option (BitVec 3)
  last : Bool
  deriving DecidableEq, Repr

/-- Descriptor of a data input (08 Table FAB-7): source, kind, digit count D (0 for W), window W. -/
structure InDesc where
  src : Src
  isD : Bool
  digits : Nat
  window : Nat
  deriving DecidableEq, Repr

/-- A USED element record (08 Table FAB-6) with its parameters. -/
structure ElemRec where
  index : Nat
  mode : EMode
  ins : List InDesc
  pred : Option Nat
  enab : EnabSrc
  params : List (BitVec 32)
  deriving DecidableEq, Repr

/-- Egress descriptor (08 Table FAB-5), with the window of a branch (R149): that of the graph's edge, 8 in an image. -/
structure EgressDesc where
  src : Nat
  out : Nat
  isD : Bool
  digits : Nat
  window : Nat
  deriving DecidableEq, Repr

/-- A placed configuration (08 R154, R155): period of 2 clk, declared draw, ROOT, the USED elements in
ascending index, and the sixteen egress ports. -/
structure Image where
  period2 : Bool
  draw : Nat
  root : Nat
  elems : List ElemRec
  egress : List (Option EgressDesc)
  deriving DecidableEq, Repr

/-- An instant in a FIFO or in flight toward it: the first instant in which it stands in the FIFO, and by how many clk it
arrives before that instant begins (08 R160). -/
structure Slot where
  ready : Nat
  lead : Nat
  item : Item
  deriving DecidableEq, Repr

/-- A value group of an element (07 R130, 09 R161). `src` is the input it comes from in a mode that takes one input
per group, `index` STEER's number of it. For each input: the group word's SEQ, the header instants and digit instants
taken, whether the input's group has ended early (08 R148), and the lanes that the element has killed. `fin` is FIN of
the inputs, `steps` the digit steps made, `pred` the predicate mask. For the output: the output it goes to, its SEQ,
the header and digit instants emitted, whether it has ended, and the stopped lanes whose kills have been passed on to
the inputs. UNPK keeps the output's own headers and digits here. An entry with `marker` stands for a marker that has
been taken and follows the groups before it. -/
structure GroupRun where
  marker : Option (BitVec 3)
  src : Nat
  index : Nat
  seqs : List (BitVec 8)
  fin : Bool
  hdrs : List (List (BitVec 1024))
  digits : List (List (BitVec 1024))
  ended : List Bool
  killed : List (BitVec 512)
  pred : Option (BitVec 512)
  steps : Nat
  out : Nat
  outSeq : BitVec 8
  outHdrs : Nat
  outDigits : Nat
  outDone : Bool
  passed : BitVec 512
  deriving DecidableEq, Repr

/-- The counters of Table FAB-2 (08 R144). -/
structure ElemCounters where
  fired : BitVec 32
  noopnd : BitVec 32
  nospace : BitVec 32
  killed : BitVec 32
  throttle : BitVec 32
  allocw : BitVec 32
  deriving DecidableEq, Repr

/-- A kill on its way (08 R147): the instant in which it takes effect, the producing element and
output, the consumer's element and port, the sequence number and the lanes. -/
structure Kill where
  at_ : Nat
  elem : Nat
  out : Nat
  fromElem : Nat
  fromPort : Nat
  seq : BitVec 8
  lanes : BitVec 512
  deriving DecidableEq, Repr

/-- The running state of an element: its record with the parameters as they stand (P7 is the status word, 16 R343), input
FIFOs with the data in flight toward them, the number that SEQ 0 of each input's channel has at the output that drives it
(08 R151), groups in progress (oldest first), words taken and not yet consumed, output instants formed
and not yet emitted (one entry per instant, output number and data), mode registers (number 8 + n counts the groups of
output n), the predicate mask of the W vector in progress and the instants of it taken, counters, and whether it is
enabled (16 R345). `waitTier` is the page that a MEM
element waits for (16 R367). `lead` is by how many clk what it works on came before the instant in which it was taken (08
R160). `marked` says on which inputs the pre-empt marker has arrived, `saved` that the element has
saved its state (08 R151). -/
structure ElemState where
  desc : ElemRec
  fifos : List (List Slot)
  bases : List (BitVec 8)
  groups : List GroupRun
  buf : List (BitVec 32)
  outq : List (List (Nat × Item))
  nums : List Nat
  predLive : BitVec 512
  vec : Nat
  counters : ElemCounters
  enabled : Bool
  waitTier : Option (BitVec 48)
  lead : Nat
  marked : List Bool
  saved : Bool
  deriving DecidableEq, Repr

/-- Where a port command reads or writes (15 R324, R325); `join` stands for a join command that takes its PORT source
(10 R190). -/
inductive PortEnd where
  | join
  | mem (addr : BitVec 48)
  | tile (handle : BitVec 32)
  | coords (base step : BitVec 32)
  | marker
  deriving DecidableEq, Repr

/-- A fabric port command that runs (15 R324, R325): what it reads or writes, instants or groups left,
the marker rule, bytes moved, instants or groups moved, on an ingress D port the header instants of the current group and
of the next one entered so far and the digits of the current group, for a drain whether it has taken its last
data and the DETAIL of its token, and the tier page that it waits for (03 R59). -/
structure PortRun where
  cmd : Cmd
  target : PortEnd
  left : Nat
  eof : Bool
  level : BitVec 3
  moved : Nat
  count : Nat
  hdr : Nat
  ahead : Nat
  pos : Nat
  ended : Bool
  detail : Byte
  tier : Option (BitVec 48)
  deriving DecidableEq, Repr

/-- A fabric port: commands waiting, the command that runs, the data in flight to an egress port, the
sequence number of the next group generated at an ingress D port, the header and digit instants of the group that an
egress D port assembles, drains that ended and wait for the commit (15 R322 to R325), and whether a pre-empt marker has
been placed at an ingress port (08 R151). -/
structure Port where
  queue : List Cmd
  run : Option PortRun
  slots : List Slot
  seq : BitVec 8
  hdrs : List (BitVec 1024)
  digits : List (BitVec 1024)
  finished : List PortRun
  marked : Bool
  deriving DecidableEq, Repr

/-- A held write of the running configuration (16 R364): instant, element and lane at which it entered,
and its bytes. A drain's writes carry element 120 + port. -/
structure HeldWrite where
  instant : Nat
  elem : Nat
  lane : Nat
  run : Run
  deriving DecidableEq, Repr

/-- A consuming read of the task (06 R106): handle, the command and its operand, whether its admission has been
granted or has failed (with the code and reason), whether its pass is complete, and whether the configuration (rather
than the task) commits it. -/
structure Consume where
  handle : BitVec 32
  cmd : Nat
  operand : Nat
  admitted : Bool
  failed : Option (Code × Nat)
  passed : Bool
  byConfig : Bool
  deriving DecidableEq, Repr

/-- The word that MSCAT add keeps for a first touch (16 R365): the element, the target, the value read, and the instant from
which its read has returned and its entry in the address-compare queue is free. -/
structure FirstTouch where
  elem : Nat
  tgt : Target
  value : Word
  till : Nat
  deriving DecidableEq, Repr

/-- A write of a parameter that waits for the start of an instant (14 R312, 15 R326): the first instant
in which it may act, element, parameter, value, and the PARM command it came from, if any. -/
structure ParamWrite where
  at_ : Nat
  elem : Nat
  k : Nat
  value : BitVec 32
  cmd : Option Cmd
  deriving DecidableEq, Repr

/-- An ARM that waits for its instant (15 R326). -/
structure ArmWrite where
  at_ : Nat
  cols : BitVec 12
  cmd : Cmd
  deriving DecidableEq, Repr

/-- A pre-empt marker on its way (08 R151): the instant of its arrival, the element and the input. -/
structure PreMark where
  at_ : Nat
  elem : Nat
  input : Nat
  deriving DecidableEq, Repr

/-- A running configuration (08 R152, R153): its serial number, CFG address and token register, the image, the instant
counter, the running elements in ascending index, kills and pre-empt markers under way, held writes and first touches,
parameter writes and enables waiting, the commands that configured each element last (FFCMD), whether ROOT
has emitted done, whether HALTF has been taken, and the tokens entered in the window of the ingress limiter. -/
structure RunConfig where
  id : Nat
  addr : Word
  tok : Reg
  owner : Owner
  priv : Priv
  image : Image
  instant : Nat
  elems : List ElemState
  kills : List Kill
  marks : List PreMark
  held : List HeldWrite
  touches : List FirstTouch
  paramWrites : List ParamWrite
  arms : List ArmWrite
  parmCmds : List (Nat × Word)
  rootDone : Bool
  halted : Option Cmd
  ingTokens : Nat
  deriving DecidableEq, Repr

/-- A configuration that loads (08 R152): the CFG's serial number, address, token, and the image once it is known; a
canonical graph with this hash waits for the mapper from `since` (08 R158). -/
structure Loading where
  id : Nat
  addr : Word
  tok : Reg
  owner : Owner
  priv : Priv
  image : Image
  isGraph : Bool
  hash : List Byte
  since : Nat
  deriving DecidableEq, Repr

/-- An image in a die's cache (08 R158): the Paddock, the graph's hash, and the image the mapper made. -/
structure CachedImage where
  pdk : PdkNum
  hash : List Byte
  image : Image
  deriving DecidableEq, Repr

/-- Progress of a fabric drain (04 Table SCH-8): the instants counted so far in the window. -/
structure Drain where
  instants : Nat
  deriving DecidableEq, Repr

/-- The fabric of a core: what loads or runs, its ports and control inbox, the count and the element counters with which
the last configuration ended (14 R312, R314), the drain, the ingress limiter (05 Table COR-5; `limNext` takes effect at the
next window), and the fault registers of Table FAB-4. -/
structure Fabric where
  loading : Option Loading
  config : Option RunConfig
  lastCount : Nat
  lastCounters : List (Nat × ElemCounters)
  ingress : List Port
  egress : List Port
  control : List Cmd
  drain : Option Drain
  limT : BitVec 16
  limW : BitVec 16
  limNext : Option (BitVec 16 × BitVec 16)
  ffword : Word
  ffval0 : Word
  ffval1 : Word
  ffcmd : BitVec 48
  deriving DecidableEq, Repr

/-! ## The join engine -/

/-- A Corral entry (10 R180). -/
structure CorralEntry where
  key : BitVec 48
  value : BitVec 32
  ovf : Bool
  sat : Bool
  nans : Bool
  deriving DecidableEq, Repr

/-- Whether the join engine holds a power token (05 R98). -/
inductive PowerToken where
  | idle | waiting
  | holding (since : Nat)
  deriving DecidableEq, Repr

/-- The join engine of a core: MODE and AFMT, occupied entries by ascending flat slot (10 R180), spill
area (10 R194), counters of Table JON-3, inbox, power token, the egress data that the PORT sources of the running
command have taken (10 R190, 18 R377), and the CODE and OFFSET with which they ended (15 R322, R328). -/
structure Join where
  mode : CorralMode
  afmt : BitVec 2
  entries : List (Nat × CorralEntry)
  spillBase : BitVec 48
  spillCap : BitVec 32
  spillCount : BitVec 32
  probes : BitVec 32
  hits : BitVec 32
  inserts : BitVec 32
  spills : BitVec 32
  bankwait : BitVec 32
  tokwait : BitVec 32
  inbox : List Cmd
  power : PowerToken
  portReads : List (BitVec 4 × List Item)
  portFail : Option (Code × Nat)
  deriving DecidableEq, Repr

/-- What a JPEEK sees beside a command that runs (10 R199): the clk of that command in which the scan reads slot
number 0, the slot number that it reads next, and the entries that it has read. -/
structure Peek where
  start : Int
  next : Nat
  seen : List CorralEntry
  deriving DecidableEq, Repr

/-! ## The Loft -/

/-- State of a tile (06 Table LFT-2): COUNTED with COUNT and HELD, or PINNED. -/
inductive TileState where
  | counted (count held : Nat)
  | pinned
  deriving DecidableEq, Repr

/-- A tile in a slot (06 R99, R111): state, the granules of extent pages 0, 1, …, partition, Paddock
and owning group, and the task or configuration whose discard releases it (Table LFT-2). -/
structure Tile where
  state : TileState
  granules : List Nat
  part : Nat
  pdk : PdkNum
  group : GroupNum
  allocBy : Owner
  byConfig : Bool
  deriving DecidableEq, Repr

/-- Who waits for an allocation (06 R104). -/
inductive Requester where
  | sequencer
  | element (index : Nat)
  | mcast (core : CoreNum) (cmd : Nat)
  deriving DecidableEq, Repr

/-- A request in a partition FIFO (06 R103). -/
structure LoftReq where
  who : Requester
  granules : Nat
  count : Nat
  part : Nat
  pdk : PdkNum
  group : GroupNum
  task : Owner
  deriving DecidableEq, Repr

/-- The Loft of a core (06 R99 to R113): generations that differ from 1 by slot, tiles by ascending
slot, bytes by granule × 4,096 + offset (unlisted 0), written bits by granule × 16 + line, requests that
arrived since the last clk, the eight FIFOs, last_granted, BLOCKCLK and GRANTS of each partition, ABANDON,
grants that their requesters have not taken up yet (requester and handle), and the granules whose next write meets an
uncorrectable error (R114). -/
structure Loft where
  gens : List (Nat × BitVec 13)
  tiles : List (Nat × Tile)
  bytes : List Host.Cell
  written : List Nat
  incoming : List LoftReq
  fifos : List (List LoftReq)
  lastGranted : Nat
  blockClk : List (BitVec 32)
  grants : List (BitVec 32)
  abandon : BitVec 32
  granted : List (Requester × BitVec 32)
  bad : List Nat
  deriving DecidableEq, Repr

/-- A message about a consuming read between a reader and a home core (06 R110). -/
inductive TileMsgKind where
  | admission | count | release
  | answer (ok : Bool) (code : Code) (reason : Nat)
  deriving DecidableEq, Repr

/-- A tile message: reader core, home core, handle, the reader's command (a number of 2^32 and above
names an MTREAD element) and its operand. -/
structure TileMsg where
  id : Nat
  kind : TileMsgKind
  reader : CoreNum
  home : CoreNum
  handle : BitVec 32
  cmd : Nat
  operand : Nat
  deriving DecidableEq, Repr

/-- An MCAST in progress (06 R114): its command, the fields of its descriptor, what each of the
eight destinations has: nothing yet, a handle, or a failure, and the tier page that it waits for (03 R59). -/
structure McastRun where
  cmd : Cmd
  core : CoreNum
  src : BitVec 48
  size : Nat
  reads : Nat
  part : Nat
  mask : Byte
  htab : BitVec 48
  granted : List (Option (BitVec 32))
  failed : Byte
  tier : Option (BitVec 48) := none
  deriving DecidableEq, Repr

end Sys2Proof.Machine
end

