-- ==== Sys2Proof/Machine/CoreTypes.lean ====
section
/-!
DEFINITION. The plain-data types of a sequencer and of a core (12 R227 to R229, 13 R254 to R291, 05 R87).
-/
namespace Sys2Proof.Machine

/-- STATUS (13 R280 Table INT-7); the other bits are reserved and read zero. -/
structure Status where
  priv : Priv
  ppriv : Priv
  intrap : Bool
  ute : Bool
  tile : Bool
  rpl : Bool
  horizon : Bool
  event : Bool
  deriving DecidableEq, Repr

/-- A loop entry (13 R271): start and last address of the body and the remaining count. -/
structure LoopEntry where
  start : Word
  last : Word
  count : Word
  deriving DecidableEq, Repr

/-- The register state of a sequencer (12 R227, 13 R279): what a context save holds. The loop stack has
its innermost entry first. -/
structure Seq where
  regs : Vector Word 64
  full : BitVec 64
  pc : Word
  status : Status
  trapcause : BitVec 14
  trappc : Word
  trapval0 : Word
  trapval1 : Word
  utvec : Word
  stvec : Word
  uscratch : Word
  sscratch : Word
  f8va : BitVec 5
  f8vb : BitVec 5
  fflags : BitVec 5
  loops : List LoopEntry
  deriving DecidableEq, Repr

/-- What an outstanding load brings back: memory bytes zero- or sign-extended, or a value already known
(from the store queue), or the full bit of a future (FTEST). -/
inductive LoadKind where
  | plain (signed : Bool)
  | value (v : Word)
  | fullBit
  deriving DecidableEq, Repr

/-- An outstanding load (13 R277): serial number, the load's own address, virtual address, where it
performs, bytes, destination, kind, and whether it is an acquire (14 R295). -/
structure PendLoad where
  id : Nat
  addr : Word
  va : Word
  target : Target
  bytes : Nat
  dst : Reg
  kind : LoadKind
  acq : Bool
  owner : Owner
  deriving DecidableEq, Repr

/-- What a store-queue entry does when it performs (13 R277, 14 R298, R302). -/
inductive StoreKind where
  | plain | stl | fput | fclr | bararr
  | barexp (n : BitVec 32)
  deriving DecidableEq, Repr

/-- A store-queue entry (13 R277). `rel` makes it wait for every earlier access (14 R295). -/
structure PendStore where
  id : Nat
  addr : Word
  va : Word
  target : Target
  bytes : Nat
  value : Word
  kind : StoreKind
  rel : Bool
  owner : Owner
  deriving DecidableEq, Repr

/-- A read that has returned while an earlier read of its task was still out (11 R219). -/
structure PastRead where
  id : Nat
  owner : Owner
  target : Target
  bytes : Nat
  deriving DecidableEq, Repr

/-- An outstanding atomic (14 R292, R295). -/
structure PendAtomic where
  id : Nat
  addr : Word
  va : Word
  target : Target
  dst : Reg
  op : AmoOp
  operand : Word
  expect : Word
  acq : Bool
  rel : Bool
  owner : Owner
  deriving DecidableEq, Repr

/-- A FENCE whose token is empty (11 R217): the class mask, for each core the serial number below which it covers its task's
accesses there, and whether the configuration that was loading or running at its issue is covered. -/
structure PendFence where
  id : Nat
  dst : Reg
  mask : BitVec 8
  marks : List (CoreNum × Nat)
  cfg : Bool
  owner : Owner
  deriving DecidableEq, Repr

/-- A BARTOK whose token is empty (14 R302): the object's address, where it lies and the PHASE it read. -/
structure PendBar where
  dst : Reg
  va : Word
  target : Target
  phase : BitVec 32
  owner : Owner
  deriving DecidableEq, Repr

/-- An FEMPTY that waits (14 R300): its register and the clk at issue. -/
structure PendEmpty where
  reg : Reg
  since : Nat
  owner : Owner
  deriving DecidableEq, Repr

/-- A result of the divider or of the FDIV/FSQRT unit that is still to be written (13 R266, 14 R316). -/
structure PendResult where
  dst : Reg
  value : Word
  owner : Owner
  deriving DecidableEq, Repr

/-- A PRD whose destination is still empty (14 R312): its number, destination and the value that it read at issue. -/
structure PendPort where
  id : Nat
  dst : Reg
  value : Word
  owner : Owner
  deriving DecidableEq, Repr

/-- A trap that waits for the next instruction boundary (13 R278, 03 R58, R59). `async` sets ASYNC;
`tpc` is the TRAPPC to report, or none for the next instruction's address. `detached` marks a trap that no
running task raised (13 R284). -/
structure PendTrap where
  info : FaultInfo
  async : Bool
  tpc : Option Word
  owner : Owner
  detached : Bool
  deriving DecidableEq, Repr

/-- SEQBLOCK (14 R312 Table SYN-5). -/
structure Block where
  okind : BitVec 8
  detail : BitVec 8
  object : BitVec 48
  deriving DecidableEq, Repr

/-- A line of the instruction buffer (05 Table COR-1, 13 R254): address bits [47:8] and 256 bytes. -/
structure FetchLine where
  tag : BitVec 40
  bytes : BitVec 2048
  deriving DecidableEq, Repr

/-- A TLB entry (03 R54): Paddock, first address of the page, leaf level (1 to 3) and leaf word. -/
structure TlbEntry where
  pdk : PdkNum
  base : BitVec 48
  level : Nat
  leaf : Word
  deriving DecidableEq, Repr

/-- The task a core runs (04 R66 to R72, R79, R82, R95): record, group, level, effective priority at
dispatch, parent address, admitted draw, whether ETRIG has decremented the parent, whether it may not be
chosen as a victim again (Table SCH-8), the count of its instants so far, and replays. -/
structure Task where
  owner : Owner
  group : GroupNum
  level : Nat
  prio : Nat
  effPrio : Nat
  parent : BitVec 48
  draw : Nat
  triggered : Bool
  noVictim : Bool
  deriving DecidableEq, Repr

/-- The caller that RUNQ saved (14 R309). -/
structure SavedCaller where
  seq : Seq
  task : Task
  dst : Reg
  deriving DecidableEq, Repr

/-- Outstanding work of a sequencer. `nextId` numbers accesses and commands in issue order; `past` holds the reads that have
overtaken earlier ones of their tasks. -/
structure Pipe where
  nextId : Nat
  loads : List PendLoad
  stores : List PendStore
  atomics : List PendAtomic
  past : List PastRead
  prds : List PendPort
  fences : List PendFence
  bartoks : List PendBar
  fempties : List PendEmpty
  divUnit : Option PendResult
  fpUnit : Option PendResult
  traps : List PendTrap
  tallocWait : Bool
  deriving DecidableEq, Repr

/-- A destination extent not yet published (11 R220): the command, first virtual address, length. -/
structure PendRange where
  cmd : Nat
  start : Nat
  len : Nat
  deriving DecidableEq, Repr

/-- Core sensor register (01 R20 Table PKG-5). -/
structure Sensor where
  temp : BitVec 16
  droop : BitVec 12
  seq : BitVec 16
  deriving DecidableEq, Repr

/-- A core (05 R87). A core with no task is idle unless `detached` names the Paddock whose supervisor handler runs on
it (13 R284); `sleeping` holds the clk at which a WFE began to sleep, `blockedAt` the clk at which the instruction
that now waits began to wait (13 R254); `stopping` says that its task is being pre-empted (04 R82), in favour of a
record or of a detached trap. -/
structure Core where
  seq : Seq
  task : Option Task
  pipe : Pipe
  sleeping : Option Nat
  stall : BitVec 32
  block : Block
  blockedAt : Nat
  ibuf : List FetchLine
  tlb : List TlbEntry
  callers : List SavedCaller
  fabric : Fabric
  join : Join
  loft : Loft
  bte : List Cmd
  remote : List Cmd
  ostler : List Cmd
  done : List Completion
  suspended : List Suspended
  ranges : List PendRange
  consumes : List Consume
  sensor : Sensor
  stopping : Option (Option Owner)
  detached : Option PdkNum
  deriving DecidableEq, Repr

end Sys2Proof.Machine
end

