-- ==== Sys2Proof/Machine/OstlerTypes.lean ====
section
/-!
DEFINITION. The plain-data types of the Ostler (04), of a Paddock (02 R31) and of a compute die (01, 05).
-/
namespace Sys2Proof.Machine

/-- Domain of a level (04 Table SCH-2). -/
inductive Domain where
  | package | die | cluster | core | sequence
  deriving DecidableEq, Repr

/-- A level descriptor (04 Table SCH-2). -/
structure LevelDesc where
  count : Nat
  domain : Domain
  scope : Scope
  qbound : Nat
  deriving DecidableEq, Repr

/-- A queue of a Paddock (04 R71). -/
inductive QueueId where
  | package
  | die (d : DieNum)
  | cluster (c : Nat)
  | deque (c : CoreNum)
  deriving DecidableEq, Repr

/-- WKIND of a record (04 Table SCH-3). -/
inductive WaitKind where
  | none | future | barrier | held
  deriving DecidableEq, Repr

/-- Where the Ostler has a record (04 R66 to R72): waiting for its JOIN, in a sublist, parked, held, or
running on a core. -/
inductive RecState where
  | joining | queued | parked | held
  | running (core : CoreNum)
  deriving DecidableEq, Repr

/-- The saved image of a pre-empted or yielded tile task (04 Table SCH-8, 05 R88): the configuration with
its held effects, the commands that wait for its control inbox, the Corral and spill area and the held consumes and shadow
writes of the task, the requests and grants of its MTALLOC elements, and the size in bytes that SNAP's token reports. -/
structure SavedImage where
  config : Option RunConfig
  ingress : List Port
  egress : List Port
  lastCount : Nat
  lastCounters : List (Nat × ElemCounters)
  control : List Cmd
  join : Join
  consumes : List Consume
  asks : List LoftReq
  grants : List (Requester × BitVec 32)
  size : Nat
  deriving DecidableEq, Repr

/-- The context of a pre-empted record, in memory that the Ostler reserves (04 R82, 14 R309): registers and
system state. -/
structure SavedContext where
  seq : Seq
  deriving DecidableEq, Repr

/-- The Ostler's copy of a continuation record (04 Table SCH-3), with what the Ostler keeps beside it:
state, the clk at which it became ready or was requeued, base priority for ageing (04 R71), the sublist
order number, the core on which it last ran (04 R77), the declared draw (05 R95), the context and image of
a pre-emption, the core it is tied to (04 R82), the index of a level-0 record and the phase value a barrier
park waits on (14 R310), the number of its latest start (0 before the
first), whether it stands before its sublist rather than at its tail, the clk from which it counts as waiting without
an eligible core (04 R82), and the frame with its port slots, which FRAME no longer names after a YIELD (04 R67, R84).
`draw = none` says the draw word has not been read. -/
structure Record where
  name : RecName
  code : BitVec 48
  level : Nat
  prio : Nat
  rpl : Bool
  ute : Bool
  tile : Bool
  ctx : Bool
  frame : BitVec 48
  group : GroupNum
  parent : BitVec 48
  join : Nat
  wkind : WaitKind
  waddr : BitVec 48
  replays : Nat
  hcode : Byte
  state : RecState
  readyAt : Nat
  base : Nat
  order : Nat
  queue : QueueId
  lastCore : CoreNum
  draw : Option Nat
  saved : Option SavedContext
  image : Option SavedImage
  tied : Option CoreNum
  phase : BitVec 32
  horizon : Bool
  triggered : Bool
  waitTarget : Option Target
  run : Nat
  front : Bool
  waitFrom : Nat
  slots : BitVec 48
  deriving DecidableEq, Repr

/-- Where the outcome of a group goes (04 R70): a host message's TAG, a LAUNCH token (core,
completion of the command), or nowhere but DONEFUT. -/
inductive GroupSink where
  | message (tag : BitVec 32)
  | token (core : CoreNum) (c : Completion)
  | none
  deriving DecidableEq, Repr

/-- A task group (04 R65): number, launch fields, resolved COUNTs, the generator's next index and whether
it has stopped, outcome, counts of abandoned tiles and replays (02 R37). -/
structure Group where
  number : GroupNum
  prio : Nat
  rpl : Bool
  ute : Bool
  tile : Bool
  entry : BitVec 48
  fbase : BitVec 48
  fstride : Nat
  doneFut : Word
  levels : List LevelDesc
  counts : List Nat
  next : Nat
  aborted : Bool
  failed : Bool
  firstFault : Byte
  abandoned : Nat
  replays : Nat
  seqCore : Option CoreNum
  sink : GroupSink
  deriving DecidableEq, Repr

/-- Control-page registers of a Paddock on one die (03 Tables ADR-6, ADR-7; 04 Table SCH-5; 05 Table COR-4):
`busy` is GO, `holdBusy` is HOLDCTL.BUSY, `holdDone` says that the
action has been performed and only its end is awaited, `report` the deadlock report from offset 0x1000. -/
structure CtrlPage where
  tlbinva : Word
  busy : Bool
  doneCount : BitVec 32
  agingA : BitVec 5
  devD : BitVec 3
  droopK : BitVec 4
  pwait : BitVec 16
  preen : Bool
  pkgw : BitVec 8
  diew : BitVec 8
  clw : BitVec 8
  drainwin : BitVec 6
  holdAction : BitVec 2
  holdL0 : Bool
  holdAddr : BitVec 48
  holdResult : BitVec 2
  holdBusy : Bool
  holdDone : Bool
  holdName : BitVec 48
  throttle : BitVec 32
  report : List Word
  deriving DecidableEq, Repr

/-- A range of local HBM (02 Table HST-6): base and limit. -/
structure HbmRange where
  base : Nat
  limit : Nat
  deriving DecidableEq, Repr

/-- The descriptor of a Paddock (02 R31 Table HST-6) as CREATE or MODIFY last gave it. -/
structure PdkDesc where
  action : Byte
  maxReplay : BitVec 4
  replayFab : Bool
  replayCorral : Bool
  replayLoft : Bool
  abandonTrap : Bool
  mirror : Bool
  clusters : BitVec 80
  ptroot : BitVec 64
  stvec : Word
  utvec : Word
  keymask : BitVec 64
  draw : List Nat
  parts : List (Nat × Nat)
  hbm : List HbmRange
  qbound : List Nat
  deriving DecidableEq, Repr

/-- A round-robin pointer and the turn of wrr_next (04 R73, R74). -/
structure QueuePointer where
  queue : QueueId
  pointer : CoreNum
  deriving DecidableEq, Repr

/-- The rotation of wrr_next on one die (04 R73): the Paddock and queue served last and how often in a row. -/
structure WrrState where
  pdk : PdkNum
  queue : QueueId
  times : Nat
  deriving DecidableEq, Repr

/-- What stops a Paddock (02 R35). -/
inductive StopKind where
  | destroy | reset
  deriving DecidableEq, Repr

/-- A Paddock (02 R31; 04 R71): its descriptor, control pages of dies 0 to 3, records, groups,
round-robin pointers, the next order number, and what is stopping it, while a stop takes time. -/
structure Paddock where
  num : PdkNum
  desc : PdkDesc
  ctrl : List CtrlPage
  records : List Record
  groups : List Group
  pointers : List QueuePointer
  order : Nat
  stopping : Option StopKind := none
  deriving DecidableEq, Repr

/-- A compute die (01 R17, R18, R11; 05 R98; 03 R54): `hot` says that its hottest sensor stands at or above the warning
threshold since the last thermal event, `released` the stations that
tokens join in the next clk; with the rotation of its shared queues (04 R73), and its
cache of placed images, most recently used first (08 R158). -/
structure Die where
  pool : Nat
  jtok : Nat
  live : Nat
  ring : List Nat
  released : List Nat
  lastServed : List Nat
  tlb : List TlbEntry
  warnAt : Nat
  hot : Bool
  tripped : Bool
  corrected : Nat
  wrr : Option WrrState
  images : List CachedImage
  deriving DecidableEq, Repr

end Sys2Proof.Machine
end

