-- ==== Sys2Proof/Machine/HubTypes.lean ====
section
/-!
DEFINITION. The plain-data types of the hub, the host interface and the management port (02; 01 R9 to R21).
-/
namespace Sys2Proof.Machine

/-- The fault record of Table HST-4 (02 R26). -/
structure FaultRecord where
  code : Byte
  status : Byte
  paddock : Byte
  lost : Bool
  mirror : Bool
  machine : Bool
  source : CoreNum
  pc : Word
  val0 : Word
  val1 : Word
  time : Nat
  tag : BitVec 32
  lostcnt : Nat
  deriving DecidableEq, Repr

/-- Types of device-to-host messages (02 Table HST-2). -/
inductive EventType where
  | completion | fault | tier | replay | ready | response | thermal
  deriving DecidableEq, Repr

/-- A message of the device to the host (02 R22, R24): type, TAG, Paddock, payload bytes, or the fault
record it carries. -/
structure HostEvent where
  type : EventType
  tag : BitVec 32
  pdk : Option PdkNum
  payload : List Byte
  record : Option FaultRecord
  deriving DecidableEq, Repr

/-- A host message accepted into a lane's queue (02 R24): its TYPE and the frame. -/
structure QueuedMsg where
  type : Byte
  frame : Frame
  deriving DecidableEq, Repr

/-- A control lane (02 R22 to R29, R45): up or down, the next SEQ expected and the next to be sent, messages that count
against the limit of 64, events that wait to be sent, events dropped since the last delivered record, events that the host
has not acknowledged at link level, and whether the lane takes no event now. -/
structure LaneState where
  up : Bool
  expect : BitVec 16
  sendSeq : BitVec 16
  queue : List QueuedMsg
  buffer : List HostEvent
  lost : Nat
  unacked : List HostEvent
  blocked : Bool
  deriving DecidableEq, Repr

/-- A member of a wait-for set (04 R81): core, AKIND, OKIND, UNIT and OBJECT. -/
structure Member where
  core : CoreNum
  akind : Nat
  okind : Nat
  unit : Nat
  object : Word
  pdk : PdkNum
  deriving DecidableEq, Repr

/-- A command sent on the scale-out ports that awaits its answer (15 R337): serial number, device, the command's
core and completion, for RGET and RAMO where the answer's bytes go (the bytes of `dest` are placeholders), and the
port on which it travels (01 R13). -/
structure RemoteWait where
  serial : Nat
  device : BitVec 20
  port : BitVec 4
  core : CoreNum
  completion : Completion
  dest : List Run
  deriving DecidableEq, Repr

/-- The hub (01 R9 to R18; 02; 04 R80): `frames` holds the bytes of the messages in `sent` as they went out, header
and all (02 R22); `tierMap` numbers the map of the tier that system software made last (01 R12), `routing` is the
routing table as it was loaded (01 R13), `slowStops` says that a stop of a Paddock takes time (02 R35;
notes/assumptions/95.md), `queueMemory` that memory for the queues of a new Paddock is found (04 R71); of the deadlock
detector, the clk of its last sample, the sets found then, and those of them that have been reported. -/
structure Hub where
  ready : Bool
  devid : Option (BitVec 20)
  lane0 : LaneState
  lane1 : LaneState
  sent : List (Lane × HostEvent)
  frames : List (Lane × List Byte)
  keys : List (BitVec 6 × BitVec 512)
  scrubPeriod : Word
  linksDown : List (BitVec 3 × BitVec 3)
  cxlDown : BitVec 4
  tierMap : Nat
  portsDown : BitVec 16
  routing : List Byte
  slowStops : Bool
  queueMemory : Bool
  sampledAt : Option Nat
  lastSample : List (List Member)
  reported : List (List Member)
  remoteOut : List RemoteMsg
  remoteWrites : List (BitVec 20 × Run)
  remoteWaits : List RemoteWait
  nextSerial : Nat
  deriving DecidableEq, Repr

/-- The management port and its domain (02 R43; 01 R21). `main` and `standby` are the two power supplies;
`staging` holds staged bytes by offset; `flashA` and `flashB` are the firmware slots, `primaryB` the
boot-order record; `running` is the accepted image, of which M0 is the hash; `log` is the fault log, oldest first, and
`logRest` the words that LOGDATA has still to return of the record that it popped. `readData` is the word that the
last read of LOGDATA returned. -/
structure Mgmt where
  standby : Bool
  main : Bool
  ready : Bool
  fwok : Bool
  fwslot : Bool
  step : BitVec 4
  failstep : BitVec 4
  trip : BitVec 4
  warn : BitVec 4
  hold : Bool
  fwstage : Bool
  fwswap : Bool
  sensidx : BitVec 10
  fwaddr : Word
  staging : List Host.Cell
  flashA : List Byte
  flashB : List Byte
  primaryB : Bool
  running : List Byte
  log : List FaultRecord
  logLost : BitVec 16
  logRest : List Word
  readData : Word
  samples : List (CoreNum × Sensor)
  deriving DecidableEq, Repr

end Sys2Proof.Machine
end

