-- ==== Sys2Proof/Machine/State.lean ====
section
/-!
DEFINITION. The whole state of the Solan as plain data, why a step can stop, and the state after module
reset (01 R21).
-/
namespace Sys2Proof.Machine

/-- Why the machine stops with a fault. Every fault that the manual describes is a next state of the
model: a trap, a fault word in a token, a held record or an event. -/
inductive Fault where
  /-- The term handed to `exec` is no well-formed instruction, so no decoder produces it. Raised by the
  engines' operand check; safe: no machine runs such a term. -/
  | illFormed
  deriving DecidableEq, Repr

/-- Why the model has no meaning for an instruction. -/
inductive Refusal where
  /-- The named instruction has no meaning in the model. Raised only by an arm of `exec`; safe. -/
  | notModelled (mnemonic : String)
  deriving DecidableEq, Repr

/-- Configuration of the part (00 R1, 01 R7, 05 R86): grade, and the clusters disabled by fuse. -/
structure Chip where
  gradeB : Bool
  fused : BitVec 80
  deriving DecidableEq, Repr

/-- A part as it is made: grade B has two clusters of every die fused off, grade A none (00 R1, 01 R7). -/
def Chip.wf (c : Chip) : Bool :=
  (List.range 4).all fun d =>
    decide (((List.range 20).filter fun k => c.fused.getLsbD (20 * d + k)).length = if c.gradeB then 2 else 0)

/-- What the surroundings of the device do that no row of the opcode table names. -/
inductive EnvAct where
  /-- The controller of a die corrects a single-bit error (01 R11). -/
  | corrected (die : DieNum)
  /-- A word of HBM takes an uncorrectable error (01 R11). -/
  | badWord (pa : Nat)
  /-- A granule of a Loft takes an uncorrectable error that its next write meets (06 R114). -/
  | badGranule (core : CoreNum) (granule : Nat)
  /-- System software maps the devices of the tier anew (01 R12). -/
  | remap
  /-- System software loads the routing table (01 R13). -/
  | routing (table : List Byte)
  /-- The host acknowledges the oldest events of a lane at link level (02 R29). -/
  | acknowledge (lane : Lane) (n : Nat)
  /-- A lane stops or starts taking events (02 R45). -/
  | lane (l : Lane) (takes : Bool)
  /-- Stops of Paddocks take time from now on, or do not (02 R35). -/
  | slowStops (b : Bool)
  /-- The stop of a Paddock that takes time ends (02 R35). -/
  | stopEnds (pdk : PdkNum)
  /-- Hub firmware finds memory for the queues of new Paddocks from now on, or does not (04 R71). -/
  | queueMemory (b : Bool)
  deriving DecidableEq, Repr

/-- Who moves in a turn: the sequencer of a core, the engine behind an inbox of a core, an event, or the surroundings. -/
inductive Mover where
  | core (c : CoreNum)
  | engine (c : CoreNum) (b : Box)
  | event (i : Instr)
  | env (a : EnvAct)
  deriving DecidableEq, Repr

/-- The engine accesses that the command now performed has made, those that it made before it was suspended and has not
come to again, what holds it, and the JPEEK that runs beside it. -/
structure Journal where
  made : List Piece
  left : List Piece
  hold : Hold
  peek : Option Peek
  deriving DecidableEq, Repr

/-- A journal of no command. -/
def Journal.empty : Journal := { made := [], left := [], hold := .no, peek := none }

/-- What the clk at hand has seen, for what the spec orders within a clk: the place of the latest operation on a word and of
the latest one on a barrier (14 R294, R299, R303), that of the latest event on a tile (06 R104, R107), the dies whose
dispatch step has run and the package heads taken, as they stood in their queues (04 R73), and the cores that tasks have
left with the draws that they return (04 R72, 05 R95). -/
structure ClkMarks where
  word : Nat
  barrier : Nat
  tile : Nat
  moved : List DieNum
  taken : List (PdkNum × Record)
  left : List (CoreNum × List (PdkNum × Nat))
  deriving DecidableEq, Repr

/-- A clk in which nothing has happened yet. -/
def ClkMarks.empty : ClkMarks := { word := 0, barrier := 0, tile := 0, moved := [], taken := [], left := [] }

/-- A turn: the clk that pass before it, and who moves (notes/assumptions/2.md). -/
structure Turn where
  elapsed : Nat
  who : Mover
  deriving DecidableEq, Repr

/-- The state of the device. `sched`, `cur`, `me` and `others` are the model's own view of the cores: `me` is the core
numbered `cur`, `others` holds every other core that has left its reset state. `encBy` holds the key of every byte
written under one, `freeIx` counts the free values drawn (notes/assumptions/8.md), `fullBits` the addresses of HBM
words whose full bit is set (04 R76), `badWords` the 32-byte words of HBM with an uncorrectable error (01 R11), by
address / 32, `lastTaker` the die that last took the package head (04 R73); `journal` stands for the command that is
being performed now, `inClk` for the clk at hand. -/
structure State where
  chip : Chip
  clk : Nat
  inClk : ClkMarks
  sched : List Turn
  cur : CoreNum
  me : Core
  others : List (CoreNum × Core)
  mem : List Host.Cell
  encBy : List (Nat × BitVec 512)
  fullBits : List Nat
  badWords : List Nat
  shadows : List Shadow
  nextShadow : Nat
  tileMsgs : List TileMsg
  nextMsg : Nat
  freeIx : Nat
  mcasts : List McastRun
  journal : Journal
  lastTaker : DieNum
  paddocks : List Paddock
  dies : List Die
  hub : Hub
  mgmt : Mgmt
  deriving DecidableEq, Repr

/-! ## Memory -/

namespace Memory

/-- What a byte that no entry lists reads as: HBM is zeroed at reset (01 R21 step 5); the tier and Loft
granules by notes/assumptions/6.md. -/
def empty : Byte := 0

/-- The byte at an address. -/
def read : List Host.Cell → Nat → Byte
  | [], _ => empty
  | (a, b) :: rest, n => if a = n then b else if n < a then empty else read rest n

/-- The memory after one byte is written; an entry that would equal `empty` is removed. -/
def write : List Host.Cell → Nat → Byte → List Host.Cell
  | [], n, v => if v = empty then [] else [(n, v)]
  | (a, b) :: rest, n, v =>
    if n < a then (if v = empty then (a, b) :: rest else (n, v) :: (a, b) :: rest)
    else if n = a then (if v = empty then rest else (n, v) :: rest)
    else (a, b) :: write rest n v

/-- Every address of the list is at least `lo`, addresses rise strictly, and no entry is `empty`. -/
def wfFrom (lo : Nat) : List Host.Cell → Bool
  | [] => true
  | (a, b) :: rest => decide (lo ≤ a) && b != empty && wfFrom (a + 1) rest

/-- The canonical form of a memory. -/
def wf (m : List Host.Cell) : Bool := wfFrom 0 m

/-- `n` bytes from an address on. -/
def readBytes (m : List Host.Cell) (a : Nat) : Nat → List Byte
  | 0 => []
  | n + 1 => read m a :: readBytes m (a + 1) n

/-- Bytes written from an address on. -/
def writeBytes (m : List Host.Cell) (a : Nat) : List Byte → List Host.Cell
  | [] => m
  | b :: bs => writeBytes (write m a b) (a + 1) bs

end Memory

/-! ## Reset -/

/-- STATUS at reset (13 R280: every field 0). -/
def Status.reset : Status :=
  { priv := .user, ppriv := .user, intrap := false, ute := false, tile := false, rpl := false,
    horizon := false, event := false }

/-- A sequencer at module reset: every register zero and full (12 R227), F8SEL by 07 R116, the rest zero;
pc, UTVEC and STVEC by notes/assumptions/10.md. -/
def Seq.reset : Seq :=
  { regs := Vector.replicate 64 0, full := BitVec.allOnes 64, pc := 0, status := Status.reset,
    trapcause := 0, trappc := 0, trapval0 := 0, trapval1 := 0, utvec := 0, stvec := 0, uscratch := 0,
    sscratch := 0, f8va := 0x10, f8vb := 0x0C, fflags := 0, loops := [] }

/-- No outstanding work. -/
def Pipe.reset : Pipe :=
  { nextId := 0, loads := [], stores := [], atomics := [], past := [], prds := [], fences := [], bartoks := [], fempties := [],
    divUnit := none, fpUnit := none, traps := [], tallocWait := false }

/-- A port with nothing queued. -/
def Port.reset : Port :=
  { queue := [], run := none, slots := [], seq := 0, hdrs := [], digits := [], finished := [], marked := false }

/-- A fabric with nothing loaded; INGLIM at its reset value (05 Table COR-5). -/
def Fabric.reset : Fabric :=
  { loading := none, config := none, lastCount := 0, lastCounters := [], ingress := List.replicate 16 Port.reset,
    egress := List.replicate 16 Port.reset, control := [], drain := none, limT := 0, limW := 1,
    limNext := none, ffword := 0, ffval0 := 0, ffval1 := 0, ffcmd := 0 }

/-- A join engine with an EMPTY Corral and no power token (10 R180). -/
def Join.reset : Join :=
  { mode := .empty, afmt := 0, entries := [], spillBase := 0, spillCap := 0, spillCount := 0, probes := 0,
    hits := 0, inserts := 0, spills := 0, bankwait := 0, tokwait := 0, inbox := [], power := .idle,
    portReads := [], portFail := none }

/-- A Loft with every slot free at generation 1 and last_granted 7 (06 R101, R104). -/
def Loft.reset : Loft :=
  { gens := [], tiles := [], bytes := [], written := [], incoming := [], fifos := List.replicate 8 [],
    lastGranted := 7, blockClk := List.replicate 8 0, grants := List.replicate 8 0, abandon := 0,
    granted := [], bad := [] }

/-- An idle core at module reset. -/
def Core.reset : Core :=
  { seq := Seq.reset, task := none, pipe := Pipe.reset, sleeping := none, stall := 0,
    block := { okind := 0, detail := 0, object := 0 }, blockedAt := 0,
    ibuf := [], tlb := [], callers := [],
    fabric := Fabric.reset, join := Join.reset, loft := Loft.reset, bte := [], remote := [], ostler := [],
    done := [], suspended := [], ranges := [], consumes := [], sensor := { temp := 0, droop := 0, seq := 0 },
    stopping := none, detached := none }

/-- A compute die at module reset: pool 2,280 DU and 95 degrees (01 R17, R18), 160 tokens (05 R98); the
places of the tokens by notes/assumptions/12.md. -/
def Die.reset : Die :=
  { pool := 2280, jtok := 160, live := 160, ring := List.replicate 20 8, released := [], lastServed := List.replicate 20 7,
    tlb := [], warnAt := 95, hot := false, tripped := false, corrected := 0, wrr := none, images := [] }

/-- A control lane that is up and has carried no message (02 R22). -/
def LaneState.reset : LaneState :=
  { up := true, expect := 0, sendSeq := 0, queue := [], buffer := [], lost := 0, unacked := [], blocked := false }

/-- The hub after module reset, its READY event delivered (01 R21 step 8; notes/assumptions/4.md). -/
def Hub.reset : Hub :=
  { ready := true, devid := none, lane0 := { LaneState.reset with sendSeq := 1 }, lane1 := LaneState.reset, sent := [],
    frames := [], keys := [], scrubPeriod := 0, linksDown := [], cxlDown := 0, tierMap := 0, portsDown := 0, routing := [],
    slowStops := false, queueMemory := true, sampledAt := none, lastSample := [], reported := [], remoteOut := [], remoteWrites := [],
    remoteWaits := [], nextSerial := 0 }

/-- The management port after the sequence of Table PKG-6 has ended (02 R43; notes/assumptions/4.md). -/
def Mgmt.reset : Mgmt :=
  { standby := true, main := true, ready := true, fwok := true, fwslot := false, step := 8, failstep := 0,
    trip := 0, warn := 0, hold := false, fwstage := false, fwswap := false, sensidx := 0, fwaddr := 0,
    staging := [], flashA := Config.factoryImageA, flashB := Config.factoryImageB, primaryB := false,
    running := Config.factoryImageA, log := [], logLost := 0, logRest := [], readData := 0, samples := [] }

/-- The configuration of the part that the model runs (notes/assumptions/5.md). -/
def Chip.default : Chip := { gradeB := false, fused := 0 }

/-- The device right after module reset: every core idle, no Paddock, memory with nothing listed. -/
def State.reset : State :=
  { chip := Chip.default, clk := 0, inClk := ClkMarks.empty, sched := [], cur := 0, me := Core.reset, others := [], mem := [],
    encBy := [], fullBits := [], badWords := [], shadows := [], nextShadow := 0, tileMsgs := [], nextMsg := 0, freeIx := 0, mcasts := [],
    journal := Journal.empty,
    lastTaker := 3, paddocks := [], dies := List.replicate 4 Die.reset, hub := Hub.reset, mgmt := Mgmt.reset }

end Sys2Proof.Machine
end

