-- ==== Sys2Proof/Machine/Access.lean ====
section
/-!
DEFINITION. Named access to the parts of the state: small list helpers, cores and the focused core,
Paddocks, records and dies, bytes of local physical memory with their keys (03 R51), and full bits (04 R76).
-/
namespace Sys2Proof.Machine

/-- What a meaning answers. -/
abbrev Out := Host.Outcome State Fault Refusal

/-! ## Lists -/

/-- The value listed under a key. -/
def assocGet {κ ν : Type} [DecidableEq κ] : List (κ × ν) → κ → Option ν
  | [], _ => none
  | (k, v) :: rest, x => if k = x then some v else assocGet rest x

/-- The list without a key. -/
def assocDel {κ ν : Type} [DecidableEq κ] : List (κ × ν) → κ → List (κ × ν)
  | [], _ => []
  | (k, v) :: rest, x => if k = x then assocDel rest x else (k, v) :: assocDel rest x

/-- The list with a value under a key. -/
def assocSet {κ ν : Type} [DecidableEq κ] : List (κ × ν) → κ → ν → List (κ × ν)
  | [], x, w => [(x, w)]
  | (k, v) :: rest, x, w => if k = x then (k, w) :: rest else (k, v) :: assocSet rest x w

/-- The list with its element at an index changed. -/
def updAt {α : Type} : List α → Nat → (α → α) → List α
  | [], _, _ => []
  | a :: rest, 0, f => f a :: rest
  | a :: rest, n + 1, f => a :: updAt rest n f

/-- The element at an index, or a default. -/
def getAt {α : Type} (l : List α) (i : Nat) (d : α) : α := (l[i]?).getD d

/-- A number inserted into a rising list. -/
def insertNat : List Nat → Nat → List Nat
  | [], n => [n]
  | a :: rest, n => if n < a then n :: a :: rest else if n = a then a :: rest else a :: insertNat rest n

/-- A key and value inserted into a list of rising keys. -/
def insertAt {ν : Type} : List (Nat × ν) → Nat → ν → List (Nat × ν)
  | [], n, w => [(n, w)]
  | (a, v) :: rest, n, w =>
    if n < a then (n, w) :: (a, v) :: rest else if n = a then (a, w) :: rest else (a, v) :: insertAt rest n w

/-- The first element that meets a test, and the others. -/
def takeFirst {α : Type} (p : α → Bool) : List α → Option (α × List α)
  | [] => none
  | a :: rest => if p a then some (a, rest) else (takeFirst p rest).map fun (b, r) => (b, a :: r)

/-- The numbers below `n`, rising. -/
def upTo (n : Nat) : List Nat := List.range n

/-- Little-endian bytes of a value (00 R2). -/
def bytesOf (v : Nat) : Nat → List Byte
  | 0 => []
  | n + 1 => BitVec.ofNat 8 v :: bytesOf (v / 256) n

/-- The value of little-endian bytes. -/
def natOf : List Byte → Nat
  | [] => 0
  | b :: rest => b.toNat + 256 * natOf rest

/-- The word of little-endian bytes. -/
def wordOf (bs : List Byte) : Word := BitVec.ofNat 64 (natOf bs)

/-- `n` bytes of a list from an offset on, missing ones zero. -/
def sliceBytes (bs : List Byte) (off n : Nat) : List Byte :=
  let got := (bs.drop off).take n
  got ++ List.replicate (n - got.length) 0

/-- The little-endian value at an offset of a list of bytes. -/
def natAt (bs : List Byte) (off n : Nat) : Nat := natOf (sliceBytes bs off n)

/-! ## Numbering (05 R86) -/

/-- Die of a core. -/
def dieOf (c : CoreNum) : DieNum := field c 8 2
/-- Cluster of a core on its die. -/
def clusterOf (c : CoreNum) : Nat := (field c 3 5).toNat
/-- Cluster numbered over the device: bit 20 × die + cluster of CLUSTERS (02 R31). -/
def clusterIx (c : CoreNum) : Nat := 20 * (dieOf c).toNat + clusterOf c
/-- The core numbered `k` of a die, by cluster × 8 + core. -/
def coreOnDie (d : DieNum) (k : Nat) : CoreNum := BitVec.ofNat 10 (256 * d.toNat + k)
/-- The cores of a die, rising. -/
def dieCores (d : DieNum) : List CoreNum := (upTo 160).map (coreOnDie d)
/-- The cores of the cluster that holds a core, in ascending order. -/
def clusterCores (c : CoreNum) : List CoreNum :=
  (upTo 8).map fun k => BitVec.ofNat 10 (8 * (c.toNat / 8) + k)

/-- A core that the part has: its cluster exists and is not fused off. -/
def State.enabledCore (s : State) (c : CoreNum) : Bool :=
  decide (clusterOf c < 20) && !bit s.chip.fused (clusterIx c)

/-- Whether two cores share a scope (11 Table MEM-1). -/
def sharesScope (sc : Scope) (a b : CoreNum) : Bool :=
  match sc with
  | .core => a == b
  | .cluster => clusterIx a == clusterIx b
  | .die => dieOf a == dieOf b
  | .package | .system => true

/-! ## Cores -/

/-- A core of the device: the focused one, one that `others` lists, or one in its reset state. -/
def State.coreAt (s : State) (c : CoreNum) : Core :=
  if c = s.cur then s.me else (assocGet s.others c).getD Core.reset

/-- The device with a core replaced. -/
def State.setCore (s : State) (c : CoreNum) (k : Core) : State :=
  if c = s.cur then { s with me := k } else { s with others := assocSet s.others c k }

/-- The device with a core changed. -/
def State.modCore (s : State) (c : CoreNum) (f : Core → Core) : State := s.setCore c (f (s.coreAt c))

/-- The device with its focus on another core (the model's own view; notes/assumptions/2.md). -/
def State.focus (s : State) (c : CoreNum) : State :=
  if c = s.cur then s
  else { s with cur := c, me := s.coreAt c, others := assocSet (assocDel s.others c) s.cur s.me }

/-- A change made with the focus on a core, the focus then returned. -/
def State.onCore (s : State) (c : CoreNum) (f : State → State) : State :=
  if c = s.cur then f s else (f (s.focus c)).focus s.cur

/-- Every core that has left its reset state, in ascending order, with its number. -/
def State.liveCores (s : State) : List (Nat × CoreNum) :=
  (s.others.map (fun e => (e.1.toNat, e.1))).foldl (fun acc e => insertAt acc e.1 e.2) [(s.cur.toNat, s.cur)]

/-- The cores that have left their reset state, the focused one first. -/
def State.cores (s : State) : List Core := s.me :: s.others.map (·.2)

/-- The focused core changed. -/
def State.mapMe (s : State) (f : Core → Core) : State := { s with me := f s.me }
/-- The focused core's sequencer changed. -/
def State.mapSeq (s : State) (f : Seq → Seq) : State := { s with me := { s.me with seq := f s.me.seq } }
/-- The focused core's outstanding work changed. -/
def State.mapPipe (s : State) (f : Pipe → Pipe) : State := { s with me := { s.me with pipe := f s.me.pipe } }

/-! ## Paddocks, records and dies -/

/-- The Paddock of a number, if it exists. -/
def State.paddock? (s : State) (n : PdkNum) : Option Paddock := s.paddocks.find? fun p => p.num == n

/-- The device with a Paddock changed. -/
def State.modPaddock (s : State) (n : PdkNum) (f : Paddock → Paddock) : State :=
  { s with paddocks := s.paddocks.map fun p => if p.num = n then f p else p }

/-- Whether a Paddock owns the cluster of a core. -/
def PdkDesc.ownsCore (d : PdkDesc) (c : CoreNum) : Bool := decide (clusterOf c < 20) && bit d.clusters (clusterIx c)

/-- The Paddock that owns the cluster of a core. -/
def State.paddockOf (s : State) (c : CoreNum) : Option Paddock := s.paddocks.find? fun p => p.desc.ownsCore c

/-- The cores of a Paddock that the part has, in ascending order. -/
def State.coresOf (s : State) (p : Paddock) : List CoreNum :=
  ((upTo 1024).map (BitVec.ofNat 10)).filter fun c => p.desc.ownsCore c && s.enabledCore c

/-- The supervisor core of a Paddock: its lowest-numbered enabled core (04 R81). -/
def State.supervisor (s : State) (p : Paddock) : Option CoreNum := (s.coresOf p).head?

/-- A record of a Paddock by name. -/
def Paddock.record? (p : Paddock) (n : RecName) : Option Record := p.records.find? fun r => r.name == n

/-- The record of an owner. -/
def State.record? (s : State) (o : Owner) : Option Record := (s.paddock? o.pdk).bind (·.record? o.name)

/-- The device with a record changed. -/
def State.modRecord (s : State) (o : Owner) (f : Record → Record) : State :=
  s.modPaddock o.pdk fun p => { p with records := p.records.map fun r => if r.name = o.name then f r else r }

/-- The device without a record. -/
def State.dropRecord (s : State) (o : Owner) : State :=
  s.modPaddock o.pdk fun p => { p with records := p.records.filter fun r => !(r.name == o.name) }

/-- The group of a number. -/
def Paddock.group? (p : Paddock) (g : GroupNum) : Option Group := p.groups.find? fun x => x.number == g

/-- The device with a group changed. -/
def State.modGroup (s : State) (n : PdkNum) (g : GroupNum) (f : Group → Group) : State :=
  s.modPaddock n fun p => { p with groups := p.groups.map fun x => if x.number = g then f x else x }

/-- A compute die. -/
def State.die (s : State) (d : DieNum) : Die := getAt s.dies d.toNat Die.reset

/-- The device with a die changed. -/
def State.modDie (s : State) (d : DieNum) (f : Die → Die) : State := { s with dies := updAt s.dies d.toNat f }

/-- The control page of a Paddock on a die. -/
def Paddock.ctrlOf (p : Paddock) (d : DieNum) : Option CtrlPage := p.ctrl[d.toNat]?

/-- The device with a control page changed. -/
def State.modCtrl (s : State) (n : PdkNum) (d : DieNum) (f : CtrlPage → CtrlPage) : State :=
  s.modPaddock n fun p => { p with ctrl := updAt p.ctrl d.toNat f }

/-- The tasks that a core holds: the one that runs and the callers that RUNQ saved. -/
def Core.tasks (c : Core) : List Task := c.task.toList ++ c.callers.map (·.task)

/-- Draw admitted on a die now, over the tasks of its cores; `pdk` restricts it to one Paddock (05 R95). -/
def State.admitted (s : State) (d : DieNum) (pdk : Option PdkNum) : Nat :=
  (s.liveCores.map fun e =>
    if dieOf e.2 = d then
      (((s.coreAt e.2).tasks.filter fun t => pdk.all (· == t.owner.pdk)).map (·.draw)).sum
    else 0).sum

/-- Draw that tasks which have left cores of a die in this clk return: it counts until the next clk (05 R95). -/
def State.returning (s : State) (d : DieNum) (pdk : Option PdkNum) : Nat :=
  (s.inClk.left.map fun x =>
    if dieOf x.1 = d then ((x.2.filter fun t => pdk.all (· == t.1)).map (·.2)).sum else 0).sum

/-! ## Local physical memory (03 Table ADR-2) -/

/-- HBM ends at 576 GiB. -/
def hbmEnd : Nat := 0x009000000000
/-- HBM of one die. -/
def hbmDie : Nat := 0x002400000000
/-- The CXL tier window. -/
def tierStart : Nat := 0x010000000000
/-- End of the tier window. -/
def tierEnd : Nat := 0x090000000000
/-- Compute die MMIO. -/
def dieMmio : Nat := 0x0E0000000000
/-- Hub MMIO. -/
def hubMmio : Nat := 0x0F0000000000
/-- End of the map. -/
def mapEnd : Nat := 0x100000000000
/-- MMIO range of one die: 256 GiB. -/
def dieMmioSize : Nat := 0x004000000000

/-- Whether an address is HBM. -/
def isHbm (a : Nat) : Bool := decide (a < hbmEnd)
/-- Whether an address is in the tier window. -/
def isTier (a : Nat) : Bool := decide (tierStart ≤ a ∧ a < tierEnd)
/-- Whether an address is MMIO. -/
def isMmio (a : Nat) : Bool := decide (dieMmio ≤ a ∧ a < mapEnd)

/-- The key in a slot; a slot that no KEYLOAD has written holds zero (02 R35; notes/assumptions/9.md). -/
def State.keyIn (s : State) (k : BitVec 6) : BitVec 512 := (assocGet s.hub.keys k).getD 0

/-- The key of an access: that of the page's slot, or none. -/
def State.keyOf (s : State) (slot : Option (BitVec 6)) : Option (BitVec 512) := slot.map s.keyIn

/-- The byte at a physical address as an access under a key sees it (03 R51, R53). -/
def State.readPhys (s : State) (key : Option (BitVec 512)) (a : Nat) : Byte :=
  let under := assocGet s.encBy a
  let b := Memory.read s.mem a
  if under = key then b else Config.cipherByte under key a b

/-- The device after a byte is written under a key. -/
def State.writePhys (s : State) (key : Option (BitVec 512)) (a : Nat) (b : Byte) : State :=
  { s with
    mem := Memory.write s.mem a b,
    encBy := match key with
      | some k => insertAt s.encBy a k
      | none => assocDel s.encBy a }

/-- Bytes read from a physical address on. -/
def State.readPhysBytes (s : State) (key : Option (BitVec 512)) (a : Nat) : Nat → List Byte
  | 0 => []
  | n + 1 => s.readPhys key a :: s.readPhysBytes key (a + 1) n

/-- Bytes written from a physical address on. -/
def State.writePhysBytes (s : State) (key : Option (BitVec 512)) (a : Nat) : List Byte → State
  | [] => s
  | b :: bs => (s.writePhys key a b).writePhysBytes key (a + 1) bs

/-- `read8` of 03 R50: eight bytes of local physical memory, under no key. -/
def State.read8 (s : State) (a : Nat) : Word := wordOf (s.readPhysBytes none a 8)

/-- The full bit of the 8-byte word at an address (04 R76). -/
def State.fullBit (s : State) (a : Nat) : Bool := s.fullBits.contains a

/-- The device with a full bit set or cleared. -/
def State.setFullBit (s : State) (a : Nat) (v : Bool) : State :=
  { s with fullBits := if v then insertNat s.fullBits a else s.fullBits.filter (· != a) }

/-- The first byte of a range that lies in a word of HBM with an uncorrectable error, among those that meet a test: SECDED
covers 32 bytes (01 R10, R11). -/
def State.badByte (s : State) (a n : Nat) (p : Nat → Bool) : Option Nat :=
  if s.badWords.isEmpty then none else (upTo n).find? fun i => s.badWords.contains ((a + i) / 32) && p ((a + i) / 32)

/-- Whether a range covers a word wholly. -/
def coversWord (a n w : Nat) : Bool := decide (a ≤ 32 * w ∧ 32 * w + 32 ≤ a + n)

/-- The words that a write covers wholly are good again (notes/assumptions/94.md). -/
def State.repair (s : State) (a n : Nat) : State := { s with badWords := s.badWords.filter fun w => !coversWord a n w }

/-- Whether a range lies in one of a Paddock's HBM ranges (02 Table HST-6). -/
def PdkDesc.inHbm (d : PdkDesc) (a n : Nat) : Bool :=
  d.hbm.any fun r => decide (r.base ≤ a ∧ a + n ≤ r.limit)

/-- The device that has counted one more read of free values (notes/assumptions/8.md). -/
def State.drew (s : State) : State := { s with freeIx := s.freeIx + 1 }

end Sys2Proof.Machine
end

