-- ==== Sys2Proof/Machine/LoftOps.lean ====
section
/-!
DEFINITION. The Loft of a core (06): slots, generations, granules, tile bytes, the transitions of Table
LFT-2, the grant step of R104, and the messages of a consuming read (R110).
-/
namespace Sys2Proof.Machine

/-! ## Handles (06 Table LFT-1) -/

/-- Home core of a handle. -/
def handleCore (h : BitVec 32) : CoreNum := field h 22 10
/-- Slot of a handle. -/
def handleSlot (h : BitVec 32) : Nat := (field h 13 9).toNat
/-- Generation of a handle. -/
def handleGen (h : BitVec 32) : BitVec 13 := field h 0 13
/-- The handle of a core's slot in a generation. -/
def mkHandle (c : CoreNum) (slot : Nat) (g : BitVec 13) : BitVec 32 := c ++ BitVec.ofNat 9 slot ++ g

/-- The aperture address of a handle's tile (06 R102). -/
def apertureOf (h : BitVec 32) : Word :=
  0xF00000000000 + BitVec.ofNat 64 ((handleCore h).toNat * 2 ^ 30 + handleSlot h * 2 ^ 21)

/-! ## Slots and granules -/

/-- Generation of a slot (06 R101). -/
def Loft.gen (l : Loft) (slot : Nat) : BitVec 13 := (assocGet l.gens slot).getD 1

/-- The generation after a release: 8,191 is followed by 1 (06 R101). -/
def nextGen (g : BitVec 13) : BitVec 13 := if g = 8191 then 1 else g + 1

/-- The tile in a slot. -/
def Loft.tile? (l : Loft) (slot : Nat) : Option Tile := assocGet l.tiles slot

/-- The tile that a handle names, if the handle is current (06 R101). -/
def Loft.current? (l : Loft) (h : BitVec 32) : Option Tile :=
  if l.gen (handleSlot h) = handleGen h then l.tile? (handleSlot h) else none

/-- Granules that tiles hold. -/
def Loft.usedGranules (l : Loft) : List Nat := (l.tiles.map fun e => e.2.granules).flatten

/-- Granules held by no tile. -/
def Loft.free (l : Loft) : Nat := 512 - l.usedGranules.length

/-- Granules held by a partition's tiles (06 R104). -/
def Loft.used (l : Loft) (p : Nat) : Nat :=
  (l.tiles.map fun e => if e.2.part = p then e.2.granules.length else 0).sum

/-- A slot released: its generation increments and its granules return (06 R107). -/
def Loft.release (l : Loft) (slot : Nat) : Loft :=
  match l.tile? slot with
  | none => l
  | some _ => { l with tiles := assocDel l.tiles slot, gens := insertAt l.gens slot (nextGen (l.gen slot)) }

/-- A tile's state replaced, or the slot released when its COUNT has reached 0. -/
def Loft.setState (l : Loft) (slot : Nat) (t : Tile) (st : TileState) : Loft :=
  match st with
  | .counted 0 _ => l.release slot
  | _ => { l with tiles := insertAt l.tiles slot { t with state := st } }

/-! ## Transitions of Table LFT-2 -/

/-- What a tile operation answers: the Loft after it, or a fault with its reason (06 R108). -/
inductive LoftAnswer where
  | done (l : Loft)
  | fault (code : Code) (reason : Nat)

/-- Admission of a consuming read. -/
def Loft.admission (l : Loft) (h : BitVec 32) : LoftAnswer :=
  match l.current? h with
  | none => .fault .tileStale 0
  | some t =>
    match t.state with
    | .pinned => .fault .tilePinned 0
    | .counted c held =>
      if held < c then .done (l.setState (handleSlot h) t (.counted c (held + 1))) else .fault .tileStale 1

/-- Count of a read whose pass is complete; ignored where it no longer applies (06 R106). -/
def Loft.count (l : Loft) (h : BitVec 32) : Loft :=
  match l.current? h with
  | none => l
  | some t =>
    match t.state with
    | .counted (c + 1) (held + 1) => l.setState (handleSlot h) t (.counted c held)
    | _ => l

/-- Release of an admitted read that faulted or was discarded; ignored where it no longer applies. -/
def Loft.unhold (l : Loft) (h : BitVec 32) : Loft :=
  match l.current? h with
  | none => l
  | some t =>
    match t.state with
    | .counted c (held + 1) => l.setState (handleSlot h) t (.counted c held)
    | _ => l

/-- TCONS: an admission and a count in one step. -/
def Loft.tcons (l : Loft) (h : BitVec 32) : LoftAnswer :=
  match l.current? h with
  | none => .fault .tileStale 0
  | some t =>
    match t.state with
    | .pinned => .fault .tilePinned 0
    | .counted c held =>
      if held < c then .done (l.setState (handleSlot h) t (.counted (c - 1) held)) else .fault .tileStale 1

/-- TFREE: a pinned tile is freed, a counted one is refused. -/
def Loft.tfree (l : Loft) (h : BitVec 32) : LoftAnswer :=
  match l.current? h with
  | none => .fault .tileStale 0
  | some t =>
    match t.state with
    | .pinned => .done (l.release (handleSlot h))
    | .counted _ _ => .fault .illegal 0

/-- The tile information word (06 Table LFT-3), 0 for a stale handle. -/
def Loft.info (l : Loft) (h : BitVec 32) : Word :=
  match l.current? h with
  | none => 0
  | some t =>
    let (c, held, pin) := match t.state with
      | .counted c held => (c, held, 0)
      | .pinned => (0, 0, 1)
    BitVec.ofNat 64
      (c + held * 2 ^ 16 + t.granules.length * 2 ^ 32 + t.part * 2 ^ 42 + pin * 2 ^ 45 + t.group.toNat * 2 ^ 48)

/-! ## Tile bytes (06 R99, R100) -/

/-- The place of a byte of a tile among the granules, if it lies within the tile. -/
def Tile.place (t : Tile) (off : Nat) : Option Nat := (t.granules[off / 4096]?).map fun g => g * 4096 + off % 4096

/-- The byte of a slot's tile; `none` when the slot is free or the byte lies beyond the tile. A line never
written reads as zero. -/
def Loft.readByte (l : Loft) (slot off : Nat) : Option Byte :=
  (l.tile? slot).bind fun t => (t.place off).map fun a =>
    if l.written.contains (a / 256) then Memory.read l.bytes a else 0

/-- The Loft after a byte of a slot's tile is written; the first write to a line sets its written bit. -/
def Loft.writeByte (l : Loft) (slot off : Nat) (b : Byte) : Loft :=
  match (l.tile? slot).bind fun t => t.place off with
  | none => l
  | some a => { l with bytes := Memory.write l.bytes a b, written := insertNat l.written (a / 256) }

/-- Bytes of a tile from an offset on; a byte that no tile holds is a free value (notes/assumptions/14.md). -/
def Loft.readBytes (l : Loft) (slot off : Nat) : Nat → List Byte
  | 0 => []
  | n + 1 => (l.readByte slot off).getD (Config.freedLoftByte off) :: l.readBytes slot (off + 1) n

/-- Bytes written into a tile from an offset on. -/
def Loft.writeBytes (l : Loft) (slot off : Nat) : List Byte → Loft
  | [] => l
  | b :: bs => (l.writeByte slot off b).writeBytes slot (off + 1) bs

/-! ## Grants (06 R103, R104) -/

/-- Granules that a size in bytes takes. -/
def granulesFor (size : Nat) : Nat := (size + 4095) / 4096

/-- The reserve that a partition sees. -/
def Loft.reserve (l : Loft) (parts : List (Nat × Nat)) (p : Nat) : Nat :=
  ((upTo 8).map fun q => if q = p then 0 else (getAt parts q (0, 0)).1 - l.used q).sum

/-- Whether the request at the head of a partition's FIFO can be granted. -/
def Loft.canGrant (l : Loft) (parts : List (Nat × Nat)) (r : LoftReq) : Bool :=
  decide (l.used r.part + r.granules ≤ (getAt parts r.part (0, 0)).2
    ∧ r.granules + l.reserve parts r.part ≤ l.free)

/-- The lowest-numbered free slot. -/
def Loft.freeSlot (l : Loft) : Option Nat := (upTo 512).find? fun k => (l.tile? k).isNone

/-- The lowest-numbered free granules. -/
def Loft.freeGranules (l : Loft) (n : Nat) : List Nat :=
  let used := l.usedGranules
  ((upTo 512).filter fun g => !used.contains g).take n

/-- Bytes of the granules that an allocation takes are cleared. -/
def clearGranules (bytes : List Host.Cell) (gs : List Nat) : List Host.Cell :=
  bytes.filter fun c => !gs.contains (c.1 / 4096)

/-- A grant: the tile in its slot, its written bits clear, and its handle kept for the requester. -/
def Loft.grant (l : Loft) (home : CoreNum) (r : LoftReq) : Loft :=
  match l.freeSlot with
  | none => l
  | some slot =>
    let gs := l.freeGranules r.granules
    let st := if r.count = 0 then .pinned else .counted r.count 0
    let byConfig := match r.who with | .element _ => true | _ => false
    let tile : Tile := { state := st, granules := gs, part := r.part, pdk := r.pdk, group := r.group,
                         allocBy := r.task, byConfig := byConfig }
    { l with
      tiles := insertAt l.tiles slot tile
      bytes := clearGranules l.bytes gs
      written := l.written.filter fun w => !gs.contains (w / 16)
      granted := l.granted ++ [(r.who, mkHandle home slot (l.gen slot))] }

/-- The order in which requests of one clk enter the FIFOs (06 R104). -/
def Requester.rank : Requester → Nat
  | .sequencer => 0
  | .element k => 1 + k
  | .mcast c n => 1000 + c.toNat + 1024 * n

/-- A request placed among others by rank. -/
def insertReq (r : LoftReq) : List LoftReq → List LoftReq
  | [] => [r]
  | q :: rest => if r.who.rank < q.who.rank then r :: q :: rest else q :: insertReq r rest

/-- The requests that arrived enter the tails of their FIFOs in the fixed order. -/
def Loft.takeIncoming (l : Loft) : Loft :=
  let sorted := l.incoming.foldl (fun acc r => insertReq r acc) []
  { l with
    incoming := []
    fifos := sorted.foldl (fun fs r => updAt fs r.part (· ++ [r])) l.fifos }

/-- The first partition, in rotation after the last granted one, whose head can be granted. -/
def Loft.pick (l : Loft) (parts : List (Nat × Nat)) : Option (Nat × LoftReq) :=
  ((upTo 8).map fun k => (l.lastGranted + 1 + k) % 8).findSome? fun p =>
    match getAt l.fifos p [] with
    | [] => none
    | r :: _ => if l.canGrant parts r then some (p, r) else none

/-- BLOCKCLK of every partition whose FIFO head waits gains 1, saturating (06 Table LFT-4). -/
def Loft.countBlocked (l : Loft) (granted : Option Nat) : Loft :=
  { l with blockClk := (upTo 8).map fun p =>
      let b := getAt l.blockClk p 0
      if (getAt l.fifos p []).isEmpty || granted == some p || b == BitVec.allOnes 32 then b else b + 1 }

/-- One step of the grant loop (06 R104). -/
def Loft.grantClk (l : Loft) (home : CoreNum) (parts : List (Nat × Nat)) : Loft :=
  let l := l.takeIncoming
  match l.pick parts with
  | none => l.countBlocked none
  | some (p, r) =>
    let l := l.countBlocked (some p)
    { l.grant home r with
      fifos := updAt l.fifos p List.tail
      lastGranted := p
      grants := updAt l.grants p (· + 1) }

/-- Requests that meet a test are withdrawn (06 R105). -/
def Loft.withdraw (l : Loft) (p : Requester → Bool) : Loft :=
  { l with
    incoming := l.incoming.filter fun r => !p r.who
    fifos := l.fifos.map fun f => f.filter fun r => !p r.who }

/-- Grants that requesters which are no more have not taken up are forgotten; their tiles stay until the group's reclamation
or the task's discard. -/
def Loft.forget (l : Loft) (p : Requester → Bool) : Loft := { l with granted := l.granted.filter fun g => !p g.1 }

/-- The sequencer's own requests. -/
def Requester.isSequencer : Requester → Bool | .sequencer => true | _ => false
/-- The requests of MTALLOC elements. -/
def Requester.isElement : Requester → Bool | .element _ => true | _ => false

/-- A grant that a requester takes up. -/
def Loft.takeGrant (l : Loft) (who : Requester) : Option (BitVec 32 × Loft) :=
  (assocGet l.granted who).map fun h => (h, { l with granted := assocDel l.granted who })

/-- Tiles that meet a test are released, in ascending slot order. -/
def Loft.releaseWhere (l : Loft) (p : Tile → Bool) : Loft :=
  (l.tiles.filter fun e => p e.2).foldl (fun l e => l.release e.1) l

/-! ## Lofts of the device -/

/-- A core's Loft. -/
def State.loftAt (s : State) (c : CoreNum) : Loft := (s.coreAt c).loft

/-- The device with a Loft changed. -/
def State.modLoft (s : State) (c : CoreNum) (f : Loft → Loft) : State :=
  s.modCore c fun k => { k with loft := f k.loft }

/-- Whether a message goes from the home core to the reader. -/
def TileMsg.isAnswer (m : TileMsg) : Bool := match m.kind with | .answer _ _ _ => true | _ => false

/-- A tile message sent (06 R110). -/
def State.sendTile (s : State) (kind : TileMsgKind) (reader home : CoreNum) (h : BitVec 32) (cmd operand : Nat) :
    State :=
  { s with
    tileMsgs := s.tileMsgs ++ [{ id := s.nextMsg, kind := kind, reader := reader, home := home, handle := h,
                                 cmd := cmd, operand := operand }]
    nextMsg := s.nextMsg + 1 }

/-- A count or a HELD release on its way to a home core: at once on the reader's own core, else by message. -/
def State.sendCount (s : State) (reader : CoreNum) (h : BitVec 32) : State :=
  if handleCore h = reader then s.modLoft reader (·.count h)
  else s.sendTile .count reader (handleCore h) h 0 0

/-- See `sendCount`. -/
def State.sendUnhold (s : State) (reader : CoreNum) (h : BitVec 32) : State :=
  if handleCore h = reader then s.modLoft reader (·.unhold h)
  else s.sendTile .release reader (handleCore h) h 0 0

/-- Consumes of a core that meet a test are dropped, and those admitted are released (06 R106). -/
def State.dropConsumes (s : State) (c : CoreNum) (p : Consume → Bool) : State :=
  let gone := ((s.coreAt c).consumes).filter p
  let s := gone.foldl (fun s k => if k.admitted then s.sendUnhold c k.handle else s) s
  s.modCore c fun k => { k with consumes := k.consumes.filter fun x => !p x }

/-- Consumes of a core that meet a test are counted and removed (06 R106). -/
def State.commitConsumes (s : State) (c : CoreNum) (p : Consume → Bool) : State :=
  let done := ((s.coreAt c).consumes).filter p
  let s := done.foldl (fun s k => s.sendCount c k.handle) s
  s.modCore c fun k => { k with consumes := k.consumes.filter fun x => !p x }

/-- Whether a handle's home core may be named by a Paddock (06 R108). -/
def State.homeOk (s : State) (p : Paddock) (h : BitVec 32) : Bool :=
  p.desc.ownsCore (handleCore h) && s.enabledCore (handleCore h)

end Sys2Proof.Machine
end

