-- ==== Sys2Proof/Machine/Report.lean ====
section
/-!
DEFINITION. What the device reports to the host and to the fault log (02 R24 to R29, R43 to R45).
-/
namespace Sys2Proof.Machine

/-- The source of a report that no core raised (02 R26). -/
def hubSource : CoreNum := 0x3FF

/-- A fault record with its event-specific fields zero (02 Table HST-4). -/
def FaultRecord.blank (s : State) : FaultRecord :=
  { code := 0, status := 0, paddock := 0xFF, lost := false, mirror := false, machine := false,
    source := hubSource, pc := 0, val0 := 0, val1 := 0, time := s.clk, tag := 0, lostcnt := 0 }

/-- Byte of a Paddock number in a record, 0xFF for none. -/
def pdkByte (p : Option PdkNum) : Byte := match p with | some n => n.setWidth 8 | none => 0xFF

/-- The 48 bytes of a fault record (02 Table HST-4). -/
def FaultRecord.bytes (r : FaultRecord) : List Byte :=
  let flags := (if r.lost then 1 else 0) + (if r.mirror then 2 else 0) + (if r.machine then 4 else 0)
  [r.code, r.status, r.paddock, BitVec.ofNat 8 flags] ++ bytesOf r.source.toNat 2 ++ [0, 0]
    ++ bytesOf r.pc.toNat 8 ++ bytesOf r.val0.toNat 8 ++ bytesOf r.val1.toNat 8 ++ bytesOf r.time 8
    ++ bytesOf r.tag.toNat 4 ++ bytesOf (min r.lostcnt (2 ^ 32 - 1)) 4

/-- A control lane. -/
def Hub.lane (h : Hub) : Lane → LaneState | .lane0 => h.lane0 | .lane1 => h.lane1
/-- The hub with a lane changed. -/
def Hub.modLane (h : Hub) (l : Lane) (f : LaneState → LaneState) : Hub :=
  match l with | .lane0 => { h with lane0 := f h.lane0 } | .lane1 => { h with lane1 := f h.lane1 }

/-- The other lane. -/
def otherLane : Lane → Lane | .lane0 => .lane1 | .lane1 => .lane0

/-- The lane on which the events of a Paddock travel (02 R29). -/
def laneOf (p : Option PdkNum) : Lane :=
  match p with
  | some n => if n.toNat % 2 = 1 then .lane1 else .lane0
  | none => .lane0

/-- An event that carries the count of events lost before it, when there are any (02 R45). -/
def HostEvent.withLost (e : HostEvent) (lost : Nat) : HostEvent :=
  if lost = 0 then e else { e with record := e.record.map fun r => { r with lost := true, lostcnt := lost } }

/-! ## Frames (02 R22 Table HST-1) -/

/-- One bit of CRC-32C (the parameters by notes/assumptions/36.md). -/
def crcBit (c : BitVec 32) : BitVec 32 := if bit c 0 then (c >>> 1) ^^^ 0x82F63B78#32 else c >>> 1

/-- One byte of CRC-32C. -/
def crcByte (c : BitVec 32) (b : Byte) : BitVec 32 :=
  crcBit (crcBit (crcBit (crcBit (crcBit (crcBit (crcBit (crcBit (c ^^^ b.setWidth 32))))))))

/-- CRC-32C of a list of bytes. -/
def crc32c (bs : List Byte) : BitVec 32 := ~~~ (bs.foldl crcByte (BitVec.allOnes 32))

/-- The header of a frame with CHECK read as zero. -/
def headerBytes (type : Byte) (f : Frame) : List Byte :=
  bytesOf (type.toNat + f.flags.toNat * 2 ^ 8 + f.seq.toNat * 2 ^ 16 + f.pdk.toNat * 2 ^ 32
    + (field f.reserved 0 12).toNat * 2 ^ 36 + f.len.toNat * 2 ^ 48 + (field f.reserved 12 3).toNat * 2 ^ 61
    + f.tag.toNat * 2 ^ 64) 16

/-- CHECK as the sender should have formed it. -/
def frameCheck (type : Byte) (f : Frame) : BitVec 32 := crc32c (headerBytes type f ++ f.payload)

/-- A number rounded up to a multiple of 16. -/
def round16 (n : Nat) : Nat := (n + 15) / 16 * 16

/-- TYPE of an event (Table HST-2). -/
def EventType.toByte : EventType → Byte
  | .completion => 0x81 | .fault => 0x82 | .tier => 0x83 | .replay => 0x84 | .ready => 0x85 | .response => 0x86
  | .thermal => 0x87

/-- The payload of an event, padded with zeros to a multiple of 16 bytes. -/
def HostEvent.padded (e : HostEvent) : List Byte :=
  let bs := match e.record with | some r => r.bytes | none => e.payload
  bs ++ List.replicate (round16 bs.length - bs.length) 0

/-- The bytes of an event on a lane: header with LEN, SEQ and CHECK, then the padded payload. -/
def HostEvent.frame (e : HostEvent) (l : Lane) (seq : BitVec 16) : List Byte :=
  let f : Frame := { lane := l, check := 0, tag := e.tag, len := BitVec.ofNat 13 e.padded.length, pdk := e.pdk.getD 0, seq := seq,
                     flags := 0, reserved := 0, payload := e.padded }
  (headerBytes e.type.toByte f).take 12 ++ bytesOf (frameCheck e.type.toByte f).toNat 4 ++ e.padded

/-! ## Sending (02 R29, R45) -/

/-- An event sent on a lane: it is not acknowledged yet, and it carries the count of lost events when it has a record. -/
def Hub.send (h : Hub) (l : Lane) (e : HostEvent) : Hub :=
  let x := h.lane l
  let e := e.withLost x.lost
  { (h.modLane l fun x => { x with sendSeq := x.sendSeq + 1, lost := if e.record.isSome then 0 else x.lost
                                   unacked := x.unacked ++ [e] }) with
    sent := h.sent ++ [(l, e)], frames := h.frames ++ [(l, e.frame l x.sendSeq)] }

/-- Whether a lane takes an event now: it is up, not stopped, and no earlier event waits. -/
def LaneState.takes (x : LaneState) : Bool := x.up && !x.blocked && x.buffer.isEmpty

/-- An event kept while its lane takes none: 4,096 on each lane, the rest dropped and counted, but a machine check
displaces the oldest (02 R45). -/
def LaneState.keep (x : LaneState) (machine : Bool) (e : HostEvent) : LaneState :=
  if x.buffer.length < Config.maxEvents then { x with buffer := x.buffer ++ [e] }
  else if machine then { x with buffer := x.buffer.tail ++ [e], lost := x.lost + 1 }
  else { x with lost := x.lost + 1 }

/-- The lane that carries the events of a lane: itself, or the other when it alone is up (02 R29). -/
def Hub.carrier (h : Hub) (l : Lane) : Lane := if !(h.lane l).up && (h.lane (otherLane l)).up then otherLane l else l

/-- An event posted on a lane, or on the one that carries its events (02 R29). -/
def Hub.post (h : Hub) (l : Lane) (machine : Bool) (e : HostEvent) : Hub :=
  let c := h.carrier l
  if (h.lane c).takes then h.send c e else h.modLane c (·.keep machine e)

/-- The events that a lane has kept are sent in order, as soon as it takes events (02 R45). -/
def Hub.deliver (h : Hub) (l : Lane) : Hub :=
  let x := h.lane l
  if x.up && !x.blocked then x.buffer.foldl (fun h e => h.send l e) (h.modLane l fun x => { x with buffer := [] }) else h

/-- A lane fails: its events that are not acknowledged, then those that it has kept, go on the other lane ahead of any newer
one, with the count of those lost (02 R29, R45). -/
def Hub.failLane (h : Hub) (l : Lane) : Hub :=
  let x := h.lane l
  let h := h.modLane l fun x => { x with up := false, unacked := [], buffer := [], lost := 0 }
  let c := h.carrier l
  let old := x.unacked ++ x.buffer ++ (h.lane c).buffer
  let y := old.foldl (fun y e => y.keep (e.record.any (·.machine)) e) { h.lane c with buffer := [], lost := (h.lane c).lost + x.lost }
  (h.modLane c fun _ => y).deliver c

/-- The hub posts an event. -/
def State.post (s : State) (l : Lane) (e : HostEvent) : State :=
  { s with hub := s.hub.post l (e.record.any (·.machine)) e }

/-- A record added to the fault log, which keeps the last 256 (02 R43). -/
def Mgmt.logRecord (m : Mgmt) (r : FaultRecord) : Mgmt :=
  if m.log.length < Config.maxFaultLog then { m with log := m.log ++ [r] }
  else { m with log := m.log.tail ++ [r], logLost := if m.logLost = BitVec.allOnes 16 then m.logLost else m.logLost + 1 }

/-- A record event posted for a Paddock or for none, and written to the fault log where Table HST-12 says so. The log keeps
the record as it was made, without LOST and LOSTCNT (notes/assumptions/82.md). -/
def State.report (s : State) (t : EventType) (p : Option PdkNum) (log : Bool) (r : FaultRecord) : State :=
  let r := { r with paddock := pdkByte p }
  let s := s.post (laneOf p) { type := t, tag := r.tag, pdk := p, payload := [], record := some r }
  if log then { s with mgmt := s.mgmt.logRecord r } else s

/-- MACHINE_CHECK raised to hub firmware and to the host (02 R44). -/
def State.machineCheck (s : State) (p : Option PdkNum) (source : CoreNum) (pc val0 val1 : Word) : State :=
  s.report .fault p true { FaultRecord.blank s with
    code := Code.machineCheck.toByte, machine := true, source := source, pc := pc, val0 := val0, val1 := val1 }

end Sys2Proof.Machine
end

