-- ==== Sys2Proof/Machine/Ops.lean ====
section
/-!
DEFINITION. The named operations over the focused core: scalar registers with their full/empty bits (12
R227 to R229), waiting for issue (13 R254), the end of an instruction with its loop entries (13 R272, R273),
a task that leaves its core (04 R72), and taking a trap and returning from it (13 R284 to R286).
-/
namespace Sys2Proof.Machine

/-! ## Registers -/

/-- The value of a register; s0 reads as zero (12 R227). -/
def Seq.reg (q : Seq) (n : Reg) : Word := if n = 0 then 0 else q.regs[n.toNat]
/-- Whether a register is full; s0 always is. -/
def Seq.isFull (q : Seq) (n : Reg) : Bool := n == 0 || bit q.full n.toNat
/-- `put` and `fill` of 12 R246: a register written and full; s0 discards. -/
def Seq.put (q : Seq) (n : Reg) (v : Word) : Seq :=
  if n = 0 then q
  else { q with regs := q.regs.set n.toNat v, full := q.full ||| (1#64 <<< n.toNat) }
/-- `begin_long` of 12 R246: a register marked empty; s0 stays full. -/
def Seq.setEmpty (q : Seq) (n : Reg) : Seq :=
  if n = 0 then q else { q with full := q.full &&& ~~~ (1#64 <<< n.toNat) }

/-- A register of the focused core. -/
def State.reg (s : State) (n : Reg) : Word := s.me.seq.reg n
/-- A register of the focused core written. -/
def State.put (s : State) (n : Reg) (v : Word) : State := s.mapSeq (·.put n v)
/-- A register of the focused core marked empty. -/
def State.setEmpty (s : State) (n : Reg) : State := s.mapSeq (·.setEmpty n)
/-- The program counter of the focused core. -/
def State.pc (s : State) : Word := s.me.seq.pc

/-! ## The running task -/

/-- The name that stands for a handler with no task. -/
def noTask : RecName := .spawned 0

/-- The Paddock for which the focused core runs, Paddock 0 when it is idle. -/
def State.herePdk (s : State) : PdkNum :=
  match s.me.task with
  | some t => t.owner.pdk
  | none => s.me.detached.getD 0

/-- Whose results the focused core's instructions produce. -/
def State.here (s : State) : Owner :=
  match s.me.task with
  | some t => t.owner
  | none => { pdk := s.me.detached.getD 0, name := noTask, run := 0 }

/-- The group of the running task; 0xFFFF, which no group has, for a handler with no task
(notes/assumptions/22.md). -/
def State.hereGroup (s : State) : GroupNum := match s.me.task with | some t => t.group | none => 0xFFFF

/-- Whether the focused core runs a tile task. -/
def State.isTileTask (s : State) : Bool := s.me.seq.status.tile

/-- Whether a core's task, or a caller that RUNQ saved on it, is a tile task. -/
def Core.holdsTile (c : Core) : Bool := c.seq.status.tile || c.callers.any fun x => x.seq.status.tile

/-- Whether a core is idle (04 R72). -/
def Core.idle (c : Core) : Bool := c.task.isNone && c.detached.isNone && c.stopping.isNone

/-- A tile task passes its replay horizon (04 R84). -/
def State.passHorizon (s : State) : State :=
  if s.isTileTask then s.mapSeq fun q => { q with status := { q.status with horizon := true } } else s

/-! ## Waiting for issue (13 R254, 14 Table SYN-5) -/

/-- Not blocked. -/
def Block.none : Block := { okind := 0, detail := 0, object := 0 }
/-- Blocked on a functional unit or on the ordering of accesses (kind 12). -/
def Block.unit : Block := { okind := 12, detail := 0, object := 0 }

/-- What a wait for a register names: a fence token, a barrier phase, or the register (04 Table SCH-7). -/
def State.regBlock (s : State) (n : Reg) : Block :=
  let me := s.here
  if s.me.pipe.fences.any fun f => f.dst == n && f.owner == me then
    { okind := 4, detail := 0, object := n.setWidth 48 }
  else
    match s.me.pipe.bartoks.find? fun b => b.dst == n && b.owner == me with
    | some b => { okind := 7, detail := 0, object := b.va.setWidth 48 }
    | none => { okind := 9, detail := n.setWidth 8, object := n.setWidth 48 }

/-- A 32-bit counter that saturates. -/
def satAdd32 (a : BitVec 32) (n : Nat) : BitVec 32 := BitVec.ofNat 32 (min (a.toNat + n) (2 ^ 32 - 1))

/-- The core whose instruction waits on an object. -/
def Core.blockOn (c : Core) (now : Nat) (b : Block) : Core :=
  if c.block.okind = 0 then { c with block := b, blockedAt := now } else { c with block := b }

/-- The core whose instruction waits no more: the clk that it waited are counted. -/
def Core.unblock (c : Core) (now : Nat) : Core :=
  if c.block.okind = 0 then c
  else { c with block := Block.none, stall := satAdd32 c.stall (now - c.blockedAt) }

/-- The instruction does not issue in this turn. -/
def State.stall (s : State) (b : Block) : Out := .next (s.mapMe (·.blockOn s.clk b))

/-! ## Completing an instruction -/

/-- The loop entries after the instruction at `pc` completes without a transfer, and the next pc (13 R272). -/
def loopEnd (pc : Word) : List LoopEntry → List LoopEntry × Word
  | [] => ([], pc + 4)
  | e :: rest =>
    if e.last = pc then
      if e.count - 1 = 0 then loopEnd pc rest
      else ({ e with count := e.count - 1 } :: rest, e.start)
    else (e :: rest, pc + 4)

/-- Whether an address lies in a loop body. -/
def LoopEntry.holds (e : LoopEntry) (a : Word) : Bool := decide (e.start ≤ a ∧ a ≤ e.last)

/-- The loop entries after a taken branch, JMP or JR from `pc` to `t` (13 R273). -/
def popLoops (pc t : Word) : List LoopEntry → List LoopEntry
  | [] => []
  | e :: rest => if e.holds pc && !e.holds t then popLoops pc t rest else e :: rest

/-- The sequencer after an instruction that completes without a transfer. -/
def Seq.advance (q : Seq) : Seq :=
  let (loops, pc) := loopEnd q.pc q.loops
  { q with loops := loops, pc := pc }

/-- The focused core's instruction completes and execution continues after it (13 R254, R272). -/
def State.advance (s : State) : State :=
  s.mapMe fun c => { c.unblock s.clk with seq := c.seq.advance }

/-- The focused core's instruction completes with a transfer; `pops` says that it pops loop entries (13 R273). -/
def State.jump (s : State) (t : Word) (pops : Bool) : State :=
  s.mapMe fun c =>
    let q := c.seq
    { c.unblock s.clk with seq := { q with pc := t, loops := if pops then popLoops q.pc t q.loops else q.loops } }

/-- An instruction that completes without a transfer. -/
def State.done (s : State) : Out := .next s.advance

/-! ## Long-latency results -/

/-- A context's copy of a register filled. -/
def SavedContext.fill (x : SavedContext) (n : Reg) (v : Word) : SavedContext := { seq := x.seq.put n v }

/-- A register filled for a task, wherever its registers are: on the core that runs it, with a caller saved
by RUNQ, or in the context that the Ostler saved (04 R82, 15 R342). A task that has ended or has started
anew takes nothing. `inMemory` fills the copy of a task that YIELD saved. -/
def State.fillFor (s : State) (o : Owner) (n : Reg) (v : Word) (inMemory : State → Record → State) : State :=
  if n = 0 then s
  else if s.here = o then s.put n v
  else
    match s.record? o with
    | none => s
    | some r =>
      if r.run ≠ o.run then s
      else
        match r.state with
        | .running c =>
          s.modCore c fun k =>
            if k.task.any fun t => t.owner == o then { k with seq := k.seq.put n v }
            else { k with callers := k.callers.map fun x =>
                     if x.task.owner = o then { x with seq := x.seq.put n v } else x }
        | _ =>
          match r.saved with
          | some x => s.modRecord o fun r => { r with saved := some (x.fill n v) }
          | none => if r.ctx then inMemory s r else s

/-! ## Leaving a core (04 R72, R84, Table SCH-8) -/

/-- Some clk that pass. -/
def State.tick (s : State) (n : Nat) : State := if n = 0 then s else { s with clk := s.clk + n, inClk := ClkMarks.empty }

/-- A join power token released at the station of a core's cluster: it joins the station in the next clk, unless more tokens
exist than JTOK allows (05 R98). -/
def State.releasePower (s : State) (c : CoreNum) : State :=
  match (s.coreAt c).join.power with
  | .holding _ =>
    let s := s.modCore c fun k => { k with join := { k.join with power := .idle } }
    s.modDie (dieOf c) fun d =>
      if d.jtok < d.live then { d with live := d.live - 1 }
      else { d with released := d.released ++ [clusterOf c] }
  | _ => s.modCore c fun k => { k with join := { k.join with power := .idle } }

/-- The inboxes whose commands belong to the tile task's fabric and join engine. -/
def Box.isTileBox : Box → Bool
  | .ingress _ | .egress _ | .control | .join => true
  | .bte | .remote | .ostler => false

/-- A join engine with an EMPTY Corral and a disarmed spill area; its counters keep what they hold until a fresh start zeroes
them (05 R88, 10 R202). -/
def Join.vacate (j : Join) : Join :=
  { Join.reset with probes := j.probes, hits := j.hits, inserts := j.inserts, spills := j.spills, bankwait := j.bankwait,
                    tokwait := j.tokwait }

/-- A fabric with no configuration: the count and the counters with which the last one ended stay (14 R312, R314). -/
def Fabric.ended (f : Fabric) : Fabric :=
  match f.config with
  | none => f
  | some g =>
    { f with config := none, lastCount := g.instant, lastCounters := g.elems.map fun e => (e.desc.index, e.counters) }

/-- The task's configuration, port commands and join commands dropped with their held writes and consumes, no
token written (04 Table SCH-8, 15 R342). The Corral is left empty and the spill area disarmed (05 R88). -/
def State.dropEngines (s : State) (c : CoreNum) : State :=
  let s := s.releasePower c
  let s := s.dropConsumes c fun _ => true
  let s := { s with shadows := s.shadows.filter fun x => !(x.core == c && x.isJoin) }
  s.modCore c fun k =>
    { k with
      fabric := { k.fabric.ended with loading := none, ingress := List.replicate 16 Port.reset,
                                      egress := List.replicate 16 Port.reset, control := [], drain := none }
      join := k.join.vacate
      loft := (k.loft.withdraw Requester.isElement).forget Requester.isElement
      ranges := k.ranges.filter fun r => s.shadows.any fun x => x.core == c && x.cmd == r.cmd
      suspended := k.suspended.filter fun x => !x.box.isTileBox }

/-- Tiles that meet a test released without counting down, on whatever core they stand. -/
def State.releaseTiles (s : State) (p : Tile → Bool) : State :=
  s.liveCores.foldl (fun s e => s.modLoft e.2 fun l => l.releaseWhere p) s

/-- The tiles that a task allocated since its latest start released without counting down (06 Table LFT-2, "allocating task
discarded"). -/
def State.freeTilesOf (s : State) (o : Owner) : State := s.releaseTiles fun t => t.allocBy == o

/-- The focused core without its task: idle, its pending traps and waits gone. Accesses that have issued stay
in flight, and the draw is returned with the task; another task may start here from the next clk on (04 R72, 05 R95). -/
def State.leaveCore (s : State) : State :=
  let gone := (s.cur, s.me.tasks.map fun t => (t.owner.pdk, t.draw))
  let s : State := { s with inClk := { s.inClk with left := gone :: s.inClk.left } }
  s.mapMe fun c =>
    { c.unblock s.clk with
      task := none, detached := none, callers := [], sleeping := none, stopping := none
      pipe := { c.pipe with traps := c.pipe.traps.filter (·.detached), fempties := [], tallocWait := false }
      loft := (c.loft.withdraw Requester.isSequencer).forget Requester.isSequencer }

/-- A record held for its supervisor (04 R84). -/
def Record.hold (r : Record) (hcode : Byte) : Record :=
  { r with state := .held, wkind := .held, hcode := hcode, saved := none, image := none, tied := none }

/-- The focused core's task, and any caller under RUNQ, stopped and held; the core becomes idle (13 R291). -/
def State.holdTask (s : State) (hcode : Byte) : State :=
  let ts := s.me.tasks
  let s := if s.me.holdsTile then s.dropEngines s.cur else s
  let s := ts.foldl (fun s t => s.modRecord t.owner fun r => { r.hold hcode with triggered := t.triggered }) s
  s.leaveCore

/-! ## Traps (13 R284, R285) -/

/-- STATUS.PRIV as a number. -/
def Priv.toNat : Priv → Nat | .user => 0 | .paddock => 1

/-- TRAPCAUSE (13 Table INT-8). -/
def trapCause (code : Code) (async redir : Bool) (priv : Priv) (intrap detached : Bool) : BitVec 14 :=
  BitVec.ofNat 14 (code.toByte.toNat + async.toNat * 2 ^ 8 + redir.toNat * 2 ^ 9 + priv.toNat * 2 ^ 10
    + intrap.toNat * 2 ^ 12 + detached.toNat * 2 ^ 13)

/-- Whether a trap finds the supervisor's handler busy and is a machine check instead (13 R285). -/
def nestedTrap (st : Status) (f : FaultInfo) : Bool :=
  let redir := f.isUser && (!st.ute || st.intrap)
  (!f.isUser || redir) && st.intrap && decide (st.priv = .paddock)

/-- The registers at the entry of a handler (13 R285, the lines after the machine check). -/
def Seq.enterTrap (q : Seq) (f : FaultInfo) (tpc : Word) (async : Bool) : Seq :=
  let st := q.status
  let redir := f.isUser && (!st.ute || st.intrap)
  let toUser := f.isUser && !redir
  { q with
    trapcause := trapCause f.code async redir st.priv st.intrap false
    trappc := tpc, trapval0 := f.val0, trapval1 := f.val1
    status := { st with ppriv := st.priv, intrap := true, priv := if toUser then st.priv else .paddock }
    pc := if toUser then q.utvec else q.stvec }

/-- A copy of a supervisor trap to the host, when MIRROR is set (02 R36). -/
def State.mirror (s : State) (f : FaultInfo) (tpc : Word) : State :=
  match s.paddock? s.herePdk with
  | some p =>
    if p.desc.mirror then
      s.report .fault (some p.num) false { FaultRecord.blank s with
        code := f.code.toByte, mirror := true, source := s.cur, pc := tpc, val0 := f.val0, val1 := f.val1 }
    else s
  | none => s

/-- Taking a trap on the focused core: its handler is entered, or, where the supervisor's handler is busy, the
record is held and a MACHINE_CHECK is raised (13 R285). -/
def State.takeTrap (s : State) (f : FaultInfo) (tpc : Word) (async : Bool) : State :=
  if nestedTrap s.me.seq.status f then
    (s.holdTask f.code.toByte).machineCheck (some s.herePdk) s.cur tpc (f.code.toByte.setWidth 64) 0
  else
    let s := if f.isUser then s else s.mirror f tpc
    s.mapMe fun c => { c.unblock s.clk with seq := c.seq.enterTrap f tpc async, sleeping := none }

/-- A precise trap of the instruction at pc. -/
def State.trap (s : State) (code : Code) (val0 val1 : Word) : Out :=
  .next (s.takeTrap { code := code, val0 := val0, val1 := val1 } s.pc false)

/-- A trap that belongs to no running task, entered on the focused idle core for a Paddock (13 R284). A user-level one
is delivered to STVEC, since no task's UTE is set (13 R281, R285); the entry is no dispatch, and the core's event flag
stays (13 R290). -/
def State.takeDetached (s : State) (p : PdkNum) (f : FaultInfo) : State :=
  let s := ({ s with me := { s.me with detached := some p } } : State)
  let s := s.mirror f 0
  s.mapMe fun c =>
    let q := c.seq
    { c with
      sleeping := none
      seq := { q with
        trapcause := trapCause f.code true f.isUser .paddock false true
        trappc := 0, trapval0 := f.val0, trapval1 := f.val1
        status := { Status.reset with ppriv := .paddock, intrap := true, priv := .paddock, event := q.status.event }
        pc := q.stvec } }

/-- A trap that waits for the next instruction boundary of a core. -/
def State.pend (s : State) (c : CoreNum) (t : PendTrap) : State :=
  s.modCore c fun k => { k with pipe := { k.pipe with traps := k.pipe.traps ++ [t] } }

/-- A trap raised for a Paddock on its supervisor core, with no task (13 R284). -/
def State.raiseDetached (s : State) (p : PdkNum) (f : FaultInfo) : State :=
  match (s.paddock? p).bind s.supervisor with
  | some c => s.pend c { info := f, async := true, tpc := some 0, owner := { pdk := p, name := noTask, run := 0 },
                         detached := true }
  | none => s

/-- Whether a task runs on a core now. -/
def State.runsOn (s : State) (c : CoreNum) (o : Owner) : Bool := (s.coreAt c).task.any fun t => t.owner == o

/-- A trap raised for a task by work of its core: at the next boundary while the task runs there, else on the
Paddock's supervisor core (03 R58, R59; 13 R284). -/
def State.raiseFor (s : State) (c : CoreNum) (o : Owner) (f : FaultInfo) (tpc : Option Word) : State :=
  if s.runsOn c o then s.pend c { info := f, async := true, tpc := tpc, owner := o, detached := false }
  else s.raiseDetached o.pdk f

/-! ## Return from a trap (13 R286) -/

/-- The registers that ERET restores; the target is TRAPPC. -/
def Seq.leaveTrap (q : Seq) : Seq :=
  let st := q.status
  { q with status := { st with priv := st.ppriv, ppriv := .user, intrap := false } }

/-- ERET with its checks made: with TRAPCAUSE.DETACHED the core becomes idle, without it execution continues at
TRAPPC, also in a handler with no task whose bit a nested trap or an MTS has cleared. -/
def State.returnFromTrap (s : State) : Out :=
  if bit s.me.seq.trapcause 13 then
    .next ((s.mapSeq fun q => { q with status := { q.status with intrap := false, priv := .user } }).leaveCore.mapMe
      fun c => { c with ibuf := [] })
  else
    let s := (s.mapSeq Seq.leaveTrap).mapMe fun c => { c with ibuf := [] }
    let t := s.me.seq.trappc
    if t.toNat % 4 ≠ 0 then s.trap .misalign t 4 else .next (s.jump t false)

end Sys2Proof.Machine
end

