-- ==== Sys2Proof/Machine/Translate.lean ====
section
/-!
DEFINITION. Translation of virtual addresses (03 R46 to R57): the Loft aperture, the page-table walk, the
leaf checks of Table ADR-5 in table order, and the two TLBs.
-/
namespace Sys2Proof.Machine

/-- What an access asks of a page. `plain8` marks an aligned 8-byte LD or ST, the only access that a control
page takes (03 R48); `future` a future instruction. -/
structure Acc where
  rd : Bool
  wr : Bool
  fetch : Bool
  engine : Bool
  future : Bool
  plain8 : Bool
  priv : Priv
  deriving DecidableEq, Repr

/-- A read. -/
def Acc.read (p : Priv) : Acc :=
  { rd := true, wr := false, fetch := false, engine := false, future := false, plain8 := false, priv := p }
/-- A write. -/
def Acc.write (p : Priv) : Acc := { Acc.read p with rd := false, wr := true }
/-- A read-modify-write. -/
def Acc.both (p : Priv) : Acc := { Acc.read p with wr := true }
/-- An instruction fetch. -/
def Acc.instr (p : Priv) : Acc := { Acc.read p with rd := false, fetch := true }
/-- The same access made by a command. -/
def Acc.byEngine (a : Acc) : Acc := { a with engine := true }

/-- The detail word (03 Table ADR-8). -/
def detail (level : Nat) (r : XReason) (a : Acc) : Word :=
  BitVec.ofNat 64 (level + a.wr.toNat * 4 + a.fetch.toNat * 8 + a.engine.toNat * 16 + r.toNat * 256)

/-- A translation fault: its code, reason and level. -/
structure XFault where
  code : Code
  reason : XReason
  level : Nat
  deriving DecidableEq, Repr

/-- The trap values of a translation fault (03 R57). -/
def XFault.info (f : XFault) (va : Word) (a : Acc) : FaultInfo :=
  { code := f.code, val0 := va, val1 := detail f.level f.reason a }

/-! ## Leaf entries (03 Table ADR-4) -/

/-- Size of the page of a leaf at a level: 1 GiB, 2 MiB, 64 KiB. -/
def pageSize (level : Nat) : Nat := if level = 1 then 2 ^ 30 else if level = 2 then 2 ^ 21 else 2 ^ 16

/-- The page's physical address. -/
def leafPage (e : Word) : Nat := (field e 36 28).toNat * 2 ^ 16
/-- TIER. -/
def leafTier (e : Word) : Nat := (field e 6 2).toNat
/-- CACHE; the reserved code reads as UC and is refused first. -/
def leafCache (e : Word) : Cache := match (field e 11 2).toNat with | 0 => .wb | 1 => .nc | _ => .uc
/-- DEVICE of a REMOTE leaf. -/
def leafDevice (e : Word) : BitVec 20 := field e 16 20

/-- The device's own identifier, if one has been written. -/
def State.ownDevice (s : State) (d : BitVec 20) : Bool := s.hub.devid == some d

/-- Whether every 2 MiB block of a page lies in a Paddock's HBM ranges. -/
def PdkDesc.coversPage (d : PdkDesc) (a size : Nat) : Bool :=
  if size ≤ 2 ^ 21 then d.inHbm a size
  else (upTo (size / 2 ^ 21)).all fun k => d.inHbm (a + k * 2 ^ 21) (2 ^ 21)

/-- The die whose control page of a Paddock stands at an address. -/
def controlDie (p : PdkNum) (a : Nat) : Option DieNum :=
  ((upTo 4).find? fun d => a == dieMmio + d * dieMmioSize + p.toNat * 2 ^ 16).map (BitVec.ofNat 2)

/-- Whether a leaf into MMIO maps the control page of its own Paddock as 03 R48 asks. -/
def controlLeafOk (p : PdkNum) (e : Word) (level : Nat) : Bool :=
  level == 3 && (controlDie p (leafPage e)).isSome && leafTier e == 0 && bit e 8 && (field e 11 2).toNat == 2
    && !bit e 5 && !bit e 20 && field e 16 4 == p

/-- The checks of Table ADR-5 in table order: the first that fails, or none. `own` says that DEVICE names this device, so
that a REMOTE page is local (03 R47). -/
def leafCheck (d : PdkDesc) (p : PdkNum) (own : Bool) (e : Word) (level : Nat) (a : Acc) : Option XFault :=
  let page := leafPage e
  let tier := leafTier e
  let remote := tier == 2 && !own
  let res := bit e 8
  let x (c : Code) (r : XReason) : Option XFault := some { code := c, reason := r, level := level }
  if tier == 3 || (field e 11 2).toNat == 3 || (bit e 3 && !bit e 2) then x .xlate .reserved
  else if (level == 1 && page % 2 ^ 30 != 0) || (level == 2 && page % 2 ^ 21 != 0) then x .xlate .align
  else if !remote && !(isHbm page || isTier page || isMmio page) then x .xlate .hole
  else if !remote && isMmio page && !(controlLeafOk p e level && a.plain8) then x .perm .mmio
  else if (tier != 1 && !res) || (tier != 1 && isTier page) || (tier == 1 && !isTier page) then x .xlate .tierBits
  else if bit e 9 && (tier != 0 || (field e 11 2).toNat != 0) then x .xlate .futPage
  else if (a.rd && !bit e 2) || (a.wr && !bit e 3) || (a.fetch && !bit e 4) || (a.priv == .user && !bit e 5) then
    x .perm .access
  else if tier != 2 && field e 16 4 != p then x .perm .owner
  else if tier == 0 && isHbm page && !d.coversPage page (pageSize level) then x .perm .range
  else if tier != 2 && bit e 20 && !bit d.keymask (field e 21 6).toNat then x .perm .keySlot
  else if a.future && !bit e 9 then x .perm .futOp
  else if tier == 1 && !res then x .tierMiss .nonRes
  else none

/-- The bits that a TLB entry is checked against at a later access (03 R54). -/
def tlbCheck (e : Word) (a : Acc) : Option XFault :=
  let x (c : Code) (r : XReason) : Option XFault := some { code := c, reason := r, level := 0 }
  if leafTier e != 2 && isMmio (leafPage e) && !a.plain8 then x .perm .mmio
  else if (a.rd && !bit e 2) || (a.wr && !bit e 3) || (a.fetch && !bit e 4) || (a.priv == .user && !bit e 5) then
    x .perm .access
  else if a.future && !bit e 9 then x .perm .futOp
  else none

/-- Whether a tier address lies behind a CXL port that is down (01 R12). -/
def State.tierDown (s : State) (a : Nat) : Bool := isTier a && bit s.hub.cxlDown (Config.cxlPort s.hub.tierMap a).toNat

/-- The indices below `n` of the entries of a table that hold anything at all. -/
def State.tableEntries (s : State) (base n : Nat) : List Nat :=
  (s.mem.map (·.1) ++ s.encBy.map (·.1)).foldl
    (fun acc a => if base ≤ a ∧ a < base + 8 * n then insertNat acc ((a - base) / 8) else acc) []

/-- The leaves under a table, with their levels; `fuel` counts the levels left. -/
def State.leavesFrom (s : State) (base : Nat) : Nat → List (Word × Nat)
  | 0 => []
  | fuel + 1 =>
    let level := 3 - fuel
    (s.tableEntries base (if level = 1 then 2 ^ 18 else if level = 2 then 512 else 32)).flatMap fun i =>
      let e := s.read8 (base + 8 * i)
      if !bit e 0 then []
      else if bit e 1 then [(e, level)]
      else s.leavesFrom ((field e 8 36).toNat * 256) fuel

/-- Whether this device performs an access of another to `n` bytes of its HBM for a Paddock: they lie in a range of the
Paddock, whose own leaves hold them with no cacheability but WB (03 R53; notes/assumptions/92.md). -/
def State.homeAllows (s : State) (d : PdkDesc) (pa n : Nat) : Bool :=
  d.inHbm pa n && (s.leavesFrom d.ptroot.toNat 3).all fun l =>
    leafTier l.1 != 0 || (field l.1 11 2).toNat == 0
      || decide (pa + n ≤ leafPage l.1 ∨ leafPage l.1 + pageSize l.2 ≤ pa)

/-- Where an access through a leaf performs, under the key that its slot holds now (02 R34). A REMOTE page of the device
itself meets the checks that the home device makes (03 R47, R53). The reasons of the two faults are the model's choice
(notes/assumptions/17.md). -/
def State.leafTarget (s : State) (d : PdkDesc) (p : PdkNum) (e : Word) (level : Nat) (va : Word) :
    Except XFault Target :=
  let off := va.toNat % pageSize level
  let page := leafPage e
  let slot := if bit e 20 then some (field e 21 6) else none
  if leafTier e = 2 then
    if s.ownDevice (leafDevice e) then
      if s.homeAllows d (page + off) 1 then .ok (.mem (page + off) none (leafCache e) false)
      else .error { code := .perm, reason := .range, level := level }
    else .ok (.remote (leafDevice e) (page + off) (leafCache e))
  else if isMmio page then .ok (.ctrl p ((controlDie p page).getD 0) off)
  else if s.tierDown (page + off) then .error { code := .xlate, reason := .hole, level := level }
  else .ok (.mem (page + off) (s.keyOf slot) (leafCache e) (bit e 9))

/-! ## Routes (01 R8, R9; 05 R94) and errors on the way (01 R11) -/

/-- The route of flits between two of the five dies, the hub being 4 (01 R8, Table PKG-1): the dies after the first.
Diagonal traffic goes column first, then row. -/
def dieRoute (a b : Nat) : List Nat :=
  if a = b then []
  else
    match a, b with
    | 0, 3 => [1, 3] | 3, 0 => [2, 0] | 1, 2 => [0, 2] | 2, 1 => [3, 1]
    | _, b => [b]

/-- Whether a route from a die on crosses a failed UCIe link (01 R9). -/
def State.routeCut (s : State) (a : Nat) : List Nat → Bool
  | [] => false
  | b :: rest =>
    (s.hub.linksDown.any fun l =>
      (l.1.toNat == a && l.2.toNat == b) || (l.1.toNat == b && l.2.toNat == a)) || s.routeCut b rest

/-- The die of the home slice of a block of HBM or of the tier (05 R94, 01 R10). -/
def homeDie (pa : Nat) : Nat := if isHbm pa then pa / hbmDie else pa / 256 % 4

/-- The 24-bit hash of a 256-byte block (03 R396). -/
def blockHash (pa : Nat) : Nat := pa / 256 * 0x9E3779B97F4A7C15 % 2 ^ 64 / 2 ^ 40

/-- The stack of its die and the pseudo-channel in which a block of HBM lies (03 R396). -/
def hbmPlace (pa : Nat) : Nat × Nat := (blockHash pa % 3, blockHash pa / 3 % 64)

/-- The home slice of a block: the core whose L2 slice it is, by rank among the enabled cores of the home die. It
settles where an access is ordered and what it costs, and no value (03 R396, 05 R94, 11 R213). -/
def State.homeSlice (s : State) (pa : Nat) : Option CoreNum :=
  let cores := (dieCores (BitVec.ofNat 2 (homeDie pa))).filter s.enabledCore
  cores[blockHash pa * cores.length / 2 ^ 24]?

/-- The set of its slice that a line occupies (03 R396). -/
def lineSet (pa : Nat) : Nat := pa / 256 % 256

/-- The dies that an access from a die passes after it, to where it performs and back. An access to the tier passes the
home slice of its line, and the tier and other devices lie behind the hub (05 R94). -/
def Target.tour (a : Nat) (t : Target) : List Nat :=
  let via (d : Nat) : List Nat := dieRoute a d ++ dieRoute d a
  match t with
  | .mem pa _ _ _ =>
    let h := homeDie pa
    if isHbm pa then via h else dieRoute a h ++ [4, h] ++ dieRoute h a
  | .loft c _ _ => via (dieOf c).toNat
  | .ctrl _ d _ => via d.toNat
  | .remote _ _ _ => via 4

/-- Whether an access of a core, or of the hub, crosses a failed link on the way to its home or back (01 R8, R9). -/
def State.linkCut (s : State) (c : Option CoreNum) (t : Target) : Bool :=
  let a := match c with | some c => (dieOf c).toNat | none => 4
  s.routeCut a (t.tour a)

/-- Whether remote messages can travel: the device identifier has been written and some port is up (01 R13, R14). -/
def State.linked (s : State) : Bool := s.hub.devid.isSome && s.hub.portsDown != BitVec.allOnes 16

/-- What ends an access of `n` bytes made by a core, or by the hub, at a target: its code and the byte at which it
stands. A link on the way has failed (01 R9), a word that it reads, or writes in part, has an uncorrectable error (01
R11, 13 R278), the home device refuses it (03 R53), or its tile is gone (06 R102). -/
def State.accessError (s : State) (c : Option CoreNum) (t : Target) (n : Nat) (wr : Bool) : Option (Code × Nat) :=
  if s.linkCut c t then some (.eccUncorr, 0)
  else
    match t with
    | .mem pa _ _ _ => (s.badByte pa n fun w => !wr || !coversWord pa n w).map fun i => (.eccUncorr, i)
    | .remote _ _ _ => if Config.remoteRefused s.freeIx then some (.perm, 0) else none
    | .loft c slot off =>
      match (s.loftAt c).tile? slot.toNat with
      | none => some (.tileStale, 0)
      | some t => if (off + n - 1) / 4096 < t.granules.length then none else some (.tileSize, 4096 * t.granules.length - off)
    | .ctrl _ _ _ => none

/-! ## The walk (03 R49, R50) -/

/-- The index of a level. -/
def walkIndex (va : Word) (level : Nat) : Nat :=
  if level = 1 then (field va 30 18).toNat else if level = 2 then (field va 21 9).toNat
  else (field va 16 5).toNat

/-- The walk from a table on, for a core or for the hub: the address, word and level of the leaf, or the fault. `fuel`
counts the levels left. An entry that cannot be read is an ECC_UNCORR (01 R9, R11). -/
def State.walkFrom (s : State) (c : Option CoreNum) (d : PdkDesc) (va : Word) (base : Nat) :
    Nat → Except XFault (Nat × Word × Nat)
  | 0 => .error { code := .xlate, reason := .reserved, level := 3 }
  | fuel + 1 =>
    let level := 3 - fuel
    let at_ := base + walkIndex va level * 8
    let e := s.read8 at_
    if (s.accessError c (.mem at_ none .wb false) 8 false).isSome then
      .error { code := .eccUncorr, reason := .notValid, level := level }
    else if !bit e 0 then .error { code := .xlate, reason := .notValid, level := level }
    else if bit e 1 then .ok (at_, e, level)
    else if level = 3 then .error { code := .xlate, reason := .reserved, level := 3 }
    else
      let next := (field e 8 36).toNat * 256
      if level = 1 && (next / 256) % 16 != 0 then .error { code := .xlate, reason := .align, level := 1 }
      else if !d.inHbm next (if level = 1 then 4096 else 256) then
        .error { code := .xlate, reason := .range, level := level }
      else s.walkFrom c d va next fuel

/-- The walk of a Paddock's tables: the address, word and level of the leaf that ends it. -/
def State.walk (s : State) (c : Option CoreNum) (p : Paddock) (va : Word) : Except XFault (Nat × Word × Nat) :=
  s.walkFrom c p.desc va p.desc.ptroot.toNat 3

/-! ## The Loft aperture (03 R46) -/

/-- Whether an address lies in the aperture. -/
def inAperture (va : Word) : Bool := field va 40 24 == 0xF0

/-- The access at an aperture address. -/
def State.aperture (s : State) (p : Paddock) (va : Word) (a : Acc) : Except FaultInfo Target :=
  let core : CoreNum := field va 30 10
  let slot : BitVec 9 := field va 21 9
  let off := (field va 0 21).toNat
  let bad (r : XReason) : Except FaultInfo Target :=
    .error { code := .perm, val0 := va, val1 := detail 0 r a }
  if !(p.desc.ownsCore core && s.enabledCore core) then bad .owner
  else if a.fetch then bad .access
  else if a.future then bad .futOp
  else
    match (s.loftAt core).tile? slot.toNat with
    | none => .error { code := .tileStale, val0 := va, val1 := 0 }
    | some t =>
      if off / 4096 < t.granules.length then .ok (.loft core slot off)
      else .error { code := .tileSize, val0 := va, val1 := 0 }

/-! ## TLBs (03 R54) -/

/-- Whether an entry translates an address of a Paddock. -/
def TlbEntry.hits (e : TlbEntry) (p : PdkNum) (va : Word) : Bool :=
  e.pdk == p && decide (e.base.toNat ≤ va.toNat ∧ va.toNat < e.base.toNat + pageSize e.level)

/-- An entry found, with the list in which it is the most recently used. -/
def tlbFind (l : List TlbEntry) (p : PdkNum) (va : Word) : Option (TlbEntry × List TlbEntry) :=
  (takeFirst (fun e => e.hits p va) l).map fun (e, rest) => (e, e :: rest)

/-- An entry put in, the least recently used one replaced. -/
def tlbInsert (l : List TlbEntry) (cap : Nat) (e : TlbEntry) : List TlbEntry := (e :: l).take cap

/-- The TLB entry of a leaf. -/
def tlbOf (p : PdkNum) (va : Word) (e : Word) (level : Nat) : TlbEntry :=
  { pdk := p, base := BitVec.ofNat 48 (va.toNat / pageSize level * pageSize level), level := level, leaf := e }

/-- A core's L1 TLB with an entry. -/
def State.fillL1 (s : State) (c : CoreNum) (e : TlbEntry) : State :=
  s.modCore c fun k => { k with tlb := tlbInsert k.tlb Config.l1TlbEntries e }

/-! ## Translating -/

/-- Translation of an address with a good [63:48] for a Paddock through a core's TLBs; without a core (the
hub) through the tables alone. The state changes only in its TLBs. -/
def State.translate (s : State) (c : Option CoreNum) (pdk : PdkNum) (va : Word) (a : Acc) :
    State × Except FaultInfo Target :=
  if field va 48 16 ≠ 0 then (s, .error { code := .xlate, val0 := va, val1 := detail 0 .nonCanon a })
  else
    match s.paddock? pdk with
    | none => (s, .error { code := .xlate, val0 := va, val1 := detail 1 .notValid a })
    | some p =>
      if inAperture va then (s, s.aperture p va a)
      else
        let finish (s : State) (e : Word) (level : Nat) : State × Except FaultInfo Target :=
          match s.leafTarget p.desc pdk e level va with
          | .ok t => (s, .ok t)
          | .error f => (s, .error (f.info va a))
        let miss (s : State) : State × Except FaultInfo Target :=
          match s.walk c p va with
          | .error f =>
            -- no rule states TRAPVAL1 of an error met in the walk (notes/assumptions/24.md)
            if f.code = .eccUncorr then (s.drew, .error { code := .eccUncorr, val0 := va, val1 := Config.freeWord s.freeIx })
            else (s, .error (f.info va a))
          | .ok (_, e, level) =>
            match leafCheck p.desc pdk (s.ownDevice (leafDevice e)) e level a with
            | some f => (s, .error (f.info va a))
            | none =>
              match c with
              | none => finish s e level
              | some c =>
                let t := tlbOf pdk va e level
                let s := s.modDie (dieOf c) fun d => { d with tlb := tlbInsert d.tlb Config.dieTlbEntries t }
                finish (s.fillL1 c t) e level
        let hit (s : State) (e : TlbEntry) : State × Except FaultInfo Target :=
          match tlbCheck e.leaf a with
          | some f => (s, .error (f.info va a))
          | none => finish s e.leaf e.level
        match c with
        | none => miss s
        | some c =>
          match tlbFind (s.coreAt c).tlb pdk va with
          | some (e, l) => hit (s.modCore c fun k => { k with tlb := l }) e
          | none =>
            match tlbFind (s.die (dieOf c)).tlb pdk va with
            | some (e, l) =>
              hit ((s.modDie (dieOf c) fun d => { d with tlb := l }).fillL1 c e) e
            | none => miss s

/-- Every TLB entry of a Paddock that overlaps a range dropped on a die (03 R56). -/
def State.dropTlb (s : State) (p : PdkNum) (d : DieNum) (lo size : Nat) : State :=
  let keep (e : TlbEntry) : Bool :=
    e.pdk != p || decide (e.base.toNat + pageSize e.level ≤ lo ∨ lo + size ≤ e.base.toNat)
  let s := s.modDie d fun x => { x with tlb := x.tlb.filter keep }
  s.liveCores.foldl (fun s e =>
    if dieOf e.2 = d then s.modCore e.2 fun k => { k with tlb := k.tlb.filter keep } else s) s

/-! ## Bytes behind a target -/

/-- Bytes read where an access performs. A remote page's bytes are a free value (notes/assumptions/8.md); a
control page has none of its own here. -/
def State.readTarget (s : State) (t : Target) (n : Nat) : List Byte :=
  match t with
  | .mem pa key _ _ => s.readPhysBytes key pa n
  | .loft c slot off => (s.loftAt c).readBytes slot.toNat off n
  | .ctrl _ _ _ => List.replicate n 0
  | .remote _ _ _ => (upTo n).map (Config.remoteByte s.freeIx)

/-- The state after a read: a read of a remote page is counted. -/
def State.afterRead (s : State) (t : Target) : State := match t with | .remote _ _ _ => s.drew | _ => s

/-- Bytes written where an access performs; what leaves the device is kept as sent (notes/assumptions/3.md). -/
def State.writeTarget (s : State) (t : Target) (bs : List Byte) : State :=
  match t with
  | .mem pa key _ _ => (s.writePhysBytes key pa bs).repair pa bs.length
  | .loft c slot off => s.modLoft c fun l => l.writeBytes slot.toNat off bs
  | .ctrl _ _ _ => s
  | .remote d _ _ =>
    { s.drew with hub := { s.hub with remoteWrites := s.hub.remoteWrites ++ [(d, { tgt := t, bytes := bs })] } }

/-- The target `n` bytes further on. -/
def Target.plus (t : Target) (n : Nat) : Target :=
  match t with
  | .mem pa key c f => .mem (pa + n) key c f
  | .loft c slot off => .loft c slot (off + n)
  | .ctrl p d off => .ctrl p d (off + n)
  | .remote d pa c => .remote d (pa + n) c

/-- Whether a page is UC (11 R208 rule 4). -/
def Target.isUc : Target → Bool
  | .mem _ _ .uc _ => true
  | .remote _ _ .uc => true
  | .ctrl _ _ _ => true
  | _ => false

/-- Whether the page counts as WB where a rule tests it (03 R46). -/
def Target.isWb : Target → Bool
  | .mem _ _ .wb _ => true
  | .remote _ _ .wb => true
  | .loft _ _ _ => true
  | _ => false

/-- Whether two accesses touch a common byte. -/
def Target.overlaps (a : Target) (n : Nat) (b : Target) (m : Nat) : Bool :=
  match a, b with
  | .mem x _ _ _, .mem y _ _ _ => decide (x < y + m ∧ y < x + n)
  | .loft c k x, .loft d j y => c == d && k == j && decide (x < y + m ∧ y < x + n)
  | .ctrl p d x, .ctrl q e y => p == q && d == e && decide (x < y + m ∧ y < x + n)
  | .remote d x _, .remote e y _ => d == e && decide (x < y + m ∧ y < x + n)
  | _, _ => false

/-- Where the bytes of an access stand within another that covers them all. -/
def Target.within (a : Target) (n : Nat) (b : Target) (m : Nat) : Option Nat :=
  let inside (x y : Nat) : Option Nat := if y ≤ x ∧ x + n ≤ y + m then some (x - y) else none
  match a, b with
  | .mem x _ _ _, .mem y _ _ _ => inside x y
  | .loft c k x, .loft d j y => if c = d ∧ k = j then inside x y else none
  | .ctrl p d x, .ctrl q e y => if p = q ∧ d = e then inside x y else none
  | .remote d x _, .remote e y _ => if d = e then inside x y else none
  | _, _ => none

end Sys2Proof.Machine
end

