-- ==== Sys2Proof/Machine/Operands.lean ====
section
/-!
DEFINITION. The operand forms: examining sources (12 R228), claiming destinations (12 R229), effective
addresses and the checks on them (13 R274), and the conditions under which a memory access may issue
(13 R277, 14 R295).
-/
namespace Sys2Proof.Machine

/-! ## Sources and destinations -/

/-- What the examination of operands finds. -/
inductive Ready where
  | ok
  | wait (b : Block)
  | empty (n : Reg)
  deriving DecidableEq, Repr

/-- Whether an interlocked unit has still to write a register of the running task (13 R266, 14 R316). -/
def State.unitPending (s : State) (n : Reg) : Bool :=
  let hit (u : Option PendResult) : Bool := u.any fun r => n != 0 && r.dst == n && r.owner == s.here
  hit s.me.pipe.divUnit || hit s.me.pipe.fpUnit

/-- Sources in their order, each with its block-or-trap bit (12 R228). -/
def State.examine (s : State) : List (Reg × Bool) → Ready
  | [] => .ok
  | (n, e) :: rest =>
    if !s.me.seq.isFull n then
      if e || rest.any fun x => x.1 == n && x.2 then .empty n else .wait (s.regBlock n)
    else if s.unitPending n then .wait Block.unit
    else s.examine rest

/-- Destinations: an empty one waits until it fills, one of an unfinished unit until it is written (12 R229). -/
def State.claim (s : State) : List Reg → Ready
  | [] => .ok
  | n :: rest =>
    if !s.me.seq.isFull n then .wait (s.regBlock n)
    else if s.unitPending n then .wait Block.unit
    else s.claim rest

/-- Step 3 of R233: sources, then destinations, then the effect. -/
def State.withOps (s : State) (srcs : List (Reg × Bool)) (dsts : List Reg) (k : Out) : Out :=
  match s.examine srcs with
  | .empty n => s.trap .emptySrc (n.setWidth 64) 0
  | .wait b => s.stall b
  | .ok =>
    match s.claim dsts with
    | .wait b => s.stall b
    | .empty n => s.trap .emptySrc (n.setWidth 64) 0
    | .ok => k

/-! ## Result shapes -/

/-- An R form of two sources with an interlocked result (13 R257). -/
def State.rForm (s : State) (o : ROps) (f : Word → Word → Word) : Out :=
  s.withOps [(o.sa, o.ea), (o.sb, o.eb)] [o.sd] (s.put o.sd (f (s.reg o.sa) (s.reg o.sb))).done

/-- A form of one source with an interlocked result (13 R259). -/
def State.uForm (s : State) (sd sa : Reg) (ea : Bool) (f : Word → Word) : Out :=
  s.withOps [(sa, ea)] [sd] (s.put sd (f (s.reg sa))).done

/-- A form that replaces part of its old destination, which it reads without a bit of its own (12 R228). -/
def State.insertForm (s : State) (sd : Reg) (srcs : List (Reg × Bool)) (f : Word → Word) : Out :=
  s.withOps (srcs ++ [(sd, false)]) [sd] (s.put sd (f (s.reg sd))).done

/-! ## Effective addresses -/

/-- sext(off9) × k (12 R231). -/
def scaledOff (off : BitVec 9) (k : Nat) : Word := sextTo64 off * BitVec.ofNat 64 k

/-- The address of an M form (13 R274). -/
def State.mAddr (s : State) (sa : Reg) (off : BitVec 9) (k : Nat) : Word := s.reg sa + scaledOff off k

/-- The checks on an address in the order of 13 R274: NONCANON, alignment, translation. -/
def State.checked (s : State) (va : Word) (k : Nat) (a : Acc) : State × Except FaultInfo Target :=
  if field va 48 16 ≠ 0 then (s, .error { code := .xlate, val0 := va, val1 := detail 0 .nonCanon a })
  else if va.toNat % k ≠ 0 then (s, .error { code := .misalign, val0 := va, val1 := BitVec.ofNat 64 k })
  else s.translate (some s.cur) s.herePdk va a

/-- An access whose checks pass goes on; one that fails traps precisely (03 R57). -/
def State.withTarget (s : State) (va : Word) (k : Nat) (a : Acc) (go : State → Target → Out) : Out :=
  match s.checked va k a with
  | (s', .ok t) => go s' t
  | (s', .error f) => .next (s'.takeTrap f s.pc false)

/-- Privilege of the focused core. -/
def State.priv (s : State) : Priv := s.me.seq.status.priv

/-- A privileged instruction at USER raises PRIVILEGE (13 R255). -/
def State.privileged (s : State) (word : IWord) (val1 : Word) (k : Out) : Out :=
  match s.priv with
  | .paddock => k
  | .user => s.trap .privilege (word.setWidth 64) val1

/-- ILLEGAL raised by an instruction's effect. -/
def State.illegal (s : State) (val0 val1 : Word) : Out := s.trap .illegal val0 val1

/-! ## Errors where an access performs (01 R9, R11; 03 R53; 06 R102) -/

/-- The error that ends an access of the focused core: the environment's, or the one that it meets. -/
def State.endError (s : State) (ecc : Bool) (t : Target) (n : Nat) (wr : Bool) : Option Code :=
  if ecc then some .eccUncorr else (s.accessError (some s.cur) t n wr).map (·.1)

/-- The trap of an access that ends with an error. TRAPVAL1 is the access's own address for an uncorrectable error (13
R278), the reason of a tile fault (03 R46), and free for a refusal of the home device, for which no rule states it
(notes/assumptions/92.md). -/
def State.errorInfo (s : State) (va addr : Word) (c : Code) : FaultInfo × State :=
  match c with
  | .eccUncorr => ({ code := c, val0 := va, val1 := addr }, s)
  | .perm => ({ code := c, val0 := va, val1 := Config.freeWord s.freeIx }, s.drew)
  | _ => ({ code := c, val0 := va, val1 := 0 }, s)

/-! ## Reads that overtake earlier ones (11 R219) -/

/-- Whether a read of a task that was issued before number `id` is still out. -/
def Pipe.readBefore (p : Pipe) (o : Owner) (id : Nat) : Bool :=
  (p.loads.any fun l => l.owner == o && decide (l.id < id)) || p.atomics.any fun a => a.owner == o && decide (a.id < id)

/-- A read that has returned, kept while an earlier one of its task is out. -/
def Pipe.noteRead (p : Pipe) (o : Owner) (id : Nat) (t : Target) (n : Nat) : Pipe :=
  if p.readBefore o id then
    { p with past := (p.past.filter fun y => p.readBefore y.owner y.id) ++ [{ id := id, owner := o, target := t, bytes := n }] }
  else p

/-- Whether a load's value is known before it returns. -/
def PendLoad.known (l : PendLoad) : Bool := match l.kind with | .value _ => true | .plain _ | .fullBit => false

/-- Whether writes published now would come between two reads of a task, of which the later has returned a byte that
they write and the earlier, still out, would return the new one. -/
def Pipe.splitBy (p : Pipe) (rs : List Run) : Bool :=
  let hits (t : Target) (n : Nat) : Bool := rs.any fun r => r.tgt.overlaps r.bytes.length t n
  let overtaken (o : Owner) (id : Nat) : Bool :=
    (p.past.any fun y => y.owner == o && decide (id < y.id) && hits y.target y.bytes)
      || p.loads.any fun l => l.known && l.owner == o && decide (id < l.id) && hits l.target l.bytes
  (p.loads.any fun l => !l.known && hits l.target l.bytes && overtaken l.owner l.id)
    || p.atomics.any fun a => hits a.target 8 && overtaken a.owner a.id

/-- Whether writes must wait for reads that are out before they publish: once a read has returned a byte of a publish, every
later read of its agent does, and so one that returned an old byte binds the earlier ones (11 R219, R224 test 10). -/
def State.splits (s : State) (rs : List Run) : Bool := s.cores.any fun c => c.pipe.splitBy rs

/-- A read made in one step goes on unless it ends with an error, which traps precisely (01 R11). -/
def State.withRead (s : State) (va : Word) (t : Target) (n : Nat) (go : State → Out) : Out :=
  match s.endError false t n false with
  | some c => let (f, s) := s.errorInfo va s.pc c; .next (s.takeTrap f s.pc false)
  | none => go (s.mapPipe fun p => p.noteRead s.here p.nextId t n)

/-! ## Outstanding accesses -/

/-- Whether an acquire of the task holds later memory, synchronisation, tile, task and command instructions
(14 R295). -/
def State.acquireHolds (s : State) : Bool :=
  (s.me.pipe.loads.any fun l => l.acq && l.owner == s.here)
    || s.me.pipe.atomics.any fun x => x.acq && x.owner == s.here

/-- An instruction of a class that an acquire holds. -/
def State.afterAcquire (s : State) (k : Out) : Out := if s.acquireHolds then s.stall Block.unit else k

/-- Places taken of the 16 outstanding loads (13 R277, 14 R295). -/
def State.loadsOut (s : State) : Nat := s.me.pipe.loads.length + s.me.pipe.atomics.length

/-- An instruction that needs `n` of the 16 outstanding loads. -/
def State.needLoads (s : State) (n : Nat) (k : Out) : Out :=
  if s.loadsOut + n ≤ Config.maxLoads then k else s.stall Block.unit

/-- An instruction that needs `n` of the 16 store-queue entries. -/
def State.needStores (s : State) (n : Nat) (k : Out) : Out :=
  if s.me.pipe.stores.length + n ≤ Config.maxStores then k else s.stall Block.unit

/-- The youngest queued store of the task that touches a byte of an access. -/
def State.overlapStore (s : State) (t : Target) (n : Nat) : Option PendStore :=
  s.me.pipe.stores.reverse.find? fun x => x.owner == s.here && x.target.overlaps x.bytes t n

/-- Whether an outstanding atomic of the task touches a byte of an access. -/
def State.overlapAtomic (s : State) (t : Target) (n : Nat) : Bool :=
  s.me.pipe.atomics.any fun x => x.owner == s.here && x.target.overlaps 8 t n

/-- Whether an outstanding load of the task reads a byte of an access. -/
def State.overlapLoad (s : State) (t : Target) (n : Nat) : Bool :=
  s.me.pipe.loads.any fun l => l.owner == s.here && l.target.overlaps l.bytes t n

/-- Whether the task has an access under way to a byte of an access that is made in one step, which then waits (11 R208
rule 1). -/
def State.ownPending (s : State) (t : Target) (n : Nat) : Bool :=
  (s.overlapStore t n).isSome || s.overlapAtomic t n || s.overlapLoad t n

/-- How a load meets the store queue: it reads memory, takes its bytes from a store, or waits (13 R277). -/
inductive Forward where
  | memory
  | value (v : Nat)
  | wait

/-- What a load of `n` bytes finds in the store queue (13 R277, 14 R295). UC accesses perform alone and in
order, so they take nothing from the queue (03 R52; notes/assumptions/18.md). -/
def State.forward (s : State) (t : Target) (n : Nat) : Forward :=
  if t.isUc then .memory
  else if s.overlapAtomic t n then .wait
  else
    match s.overlapStore t n with
    | none => .memory
    | some x =>
      match x.kind, t.within n x.target x.bytes with
      | .plain, some k => .value (x.value.toNat / 2 ^ (8 * k) % 2 ^ (8 * n))
      | _, _ => .wait

/-- A value of `n` bytes extended to a register. -/
def extend (v n : Nat) (signed : Bool) : Word :=
  if signed && decide (2 ^ (8 * n - 1) ≤ v) then BitVec.ofNat 64 v - BitVec.ofNat 64 (2 ^ (8 * n)) else BitVec.ofNat 64 v

/-- The focused core with an outstanding load added and its destination empty. -/
def State.addLoad (s : State) (va : Word) (t : Target) (n : Nat) (dst : Reg) (kind : LoadKind) (acq : Bool) : State :=
  let l : PendLoad := { id := s.me.pipe.nextId, addr := s.pc, va := va, target := t, bytes := n, dst := dst,
                        kind := kind, acq := acq, owner := s.here }
  (s.mapPipe fun p => { p with nextId := p.nextId + 1, loads := p.loads ++ [l] }).setEmpty dst

/-- The focused core with a store-queue entry added. -/
def State.addStore (s : State) (va : Word) (t : Target) (n : Nat) (v : Word) (kind : StoreKind) (rel : Bool) : State :=
  let x : PendStore := { id := s.me.pipe.nextId, addr := s.pc, va := va, target := t, bytes := n, value := v,
                         kind := kind, rel := rel, owner := s.here }
  s.mapPipe fun p => { p with nextId := p.nextId + 1, stores := p.stores ++ [x] }

/-- A load of `n` bytes added, from memory or from the store queue; `none` when it must wait. -/
def State.startLoad (s : State) (va : Word) (t : Target) (n : Nat) (dst : Reg) (signed : Bool) : Option State :=
  match s.forward t n with
  | .memory => some (s.addLoad va t n dst (.plain signed) false)
  | .value v => some (s.addLoad va t n dst (.value (extend v n signed)) false)
  | .wait => none

/-- Whether a release of the task may be sent: its earlier loads have returned and its earlier stores and
atomics are acknowledged (14 R295). `id` is the release's own number. -/
def Pipe.allBefore (p : Pipe) (o : Owner) (id : Nat) : Bool :=
  (p.loads.all fun l => l.owner != o || decide (id ≤ l.id))
    && (p.stores.all fun x => x.owner != o || decide (id ≤ x.id))
    && (p.atomics.all fun x => x.owner != o || decide (id ≤ x.id))

/-- Whether every access of the running task has been acknowledged or has returned. -/
def State.quiet (s : State) : Bool := s.me.pipe.allBefore s.here s.me.pipe.nextId

/-- Whether, besides, no PRD of the running task is outstanding: a save waits for it as for a load (04 R82). -/
def State.allIn (s : State) : Bool := s.quiet && s.me.pipe.prds.all fun x => x.owner != s.here

end Sys2Proof.Machine
end

