-- ==== Sys2Proof/Machine/Tasks.lean ====
section
/-!
DEFINITION. Records and their queues (04 R66 to R72, R77, R78): ageing, becoming ready with the draw word
read, JOIN, waking the records and tokens that wait on a future or a barrier.
-/
namespace Sys2Proof.Machine

/-! ## Effective priority (04 R71) -/

/-- The ageing exponent of a die's control page. -/
def Paddock.agingExp (p : Paddock) (d : DieNum) : Nat := match p.ctrlOf d with | some c => c.agingA.toNat | none => 20

/-- The die whose Ostler settings a queue follows: its own, or die 0 for the package queue (04 Table SCH-5). -/
def QueueId.dieNum : QueueId → DieNum
  | .package => 0
  | .die d => d
  | .cluster k => BitVec.ofNat 2 (k / 20)
  | .deque c => dieOf c

/-- Steps by which a record has aged. -/
def Record.agedBy (r : Record) (now a : Nat) : Nat := min ((now - r.readyAt) / 2 ^ a) r.base

/-- Effective priority: max(0, P − ⌊age / 2^A⌋). -/
def Record.eff (r : Record) (now a : Nat) : Nat := r.base - r.agedBy now a

/-- Effective priority of a record in its queue. -/
def State.effOf (s : State) (p : Paddock) (r : Record) : Nat := r.eff s.clk (p.agingExp r.queue.dieNum)

/-- Place of a ready record in its sublist: those put in front first (the latest foremost), then by the clk at
which each entered the sublist's tail, then by order. -/
def Record.place (r : Record) (now a : Nat) : Nat × Nat × Nat :=
  let k := r.agedBy now a
  if r.front && k == 0 then (0, now + 1 - r.readyAt, 0) else (1, r.readyAt + k * 2 ^ a, r.order)

/-- Whether one place stands before another. -/
def placeBefore (a b : Nat × Nat × Nat) : Bool :=
  decide (a.1 < b.1) || (a.1 == b.1 && (decide (a.2.1 < b.2.1) || (a.2.1 == b.2.1 && decide (a.2.2 < b.2.2))))

/-- The ready records of a queue. -/
def Paddock.ready (p : Paddock) (q : QueueId) : List Record := p.records.filter fun r => r.state == .queued && r.queue == q

/-- The foremost of some records by effective priority and then by place; `last` takes the hindmost of the
foremost sublist instead. -/
def foremost (now a : Nat) (last : Bool) : List Record → Option Record
  | [] => none
  | r :: rest =>
    match foremost now a last rest with
    | none => some r
    | some x =>
      let pr := r.eff now a
      let px := x.eff now a
      let before := placeBefore (r.place now a) (x.place now a)
      if pr < px || (pr == px && (before != last)) then some r else some x

/-- Head of a queue (the bottom of a deque). -/
def Paddock.head (p : Paddock) (now : Nat) (q : QueueId) : Option Record :=
  foremost now (p.agingExp q.dieNum) false (p.ready q)

/-- Records that count against a queue's bound: those never dispatched (04 R67). -/
def Paddock.bounded (p : Paddock) (q : QueueId) : Nat :=
  (p.records.filter fun r => r.queue == q && r.run == 0 && (r.state == .queued || r.state == .joining)).length

/-- Default bound of a queue (02 Table HST-6 QBOUND). -/
def Paddock.queueBound (p : Paddock) (q : QueueId) : Nat :=
  getAt p.desc.qbound (match q with | .package => 0 | .die _ => 1 | .cluster _ => 2 | .deque _ => 3) 65536

/-- The descriptor of a record's level in its group. -/
def Paddock.levelOf (p : Paddock) (g : GroupNum) (level : Nat) : Option LevelDesc :=
  (p.group? g).bind fun x => x.levels[level]?

/-- The default scope of a level (04 Table SCH-2), CORE where the group is gone. -/
def Paddock.levelScope (p : Paddock) (g : GroupNum) (level : Nat) : Scope :=
  match p.levelOf g level with | some d => d.scope | none => .core

/-- The queue to which a started record returns: that of its level's domain, where CORE and SEQUENCE mean the
deque of the core on which it last ran (04 R77, R82). -/
def Paddock.homeQueue (p : Paddock) (r : Record) : QueueId :=
  match p.levelOf r.group r.level with
  | some d =>
    match d.domain with
    | .package => .package
    | .die => .die (dieOf r.lastCore)
    | .cluster => .cluster (clusterIx r.lastCore)
    | .core | .sequence => .deque r.lastCore
  | none => r.queue

/-! ## Becoming ready -/

/-- The dies that hold a core of a queue's domain unit. -/
def State.diesReached (s : State) (p : Paddock) (q : QueueId) : List DieNum :=
  match q with
  | .package => ((upTo 4).map (BitVec.ofNat 2)).filter fun d => (s.coresOf p).any fun c => dieOf c == d
  | _ => [q.dieNum]

/-- What the saved image of a record holds given up: its admitted reads are released and its join writes are dropped (06
R106). -/
def State.dropImage (s : State) (pdk : PdkNum) (r : Record) : State :=
  match r.image with
  | none => s
  | some i =>
    let mine (x : Shadow) : Bool := x.isJoin && x.owner.pdk == pdk && x.owner.name == r.name
    let s := i.consumes.foldl (fun s k => if k.admitted then s.sendUnhold r.lastCore k.handle else s) s
    { s with shadows := s.shadows.filter fun x => !mine x }

/-- A record held by the Ostler, without the image that it may have, and the code raised to its supervisor (04 R66). -/
def State.holdRecord (s : State) (o : Owner) (f : FaultInfo) : State :=
  let s := match s.record? o with | some r => s.dropImage o.pdk r | none => s
  (s.modRecord o (·.hold f.code.toByte)).raiseDetached o.pdk f

/-- The draw word before CODE read as an instruction fetch at USER privilege (05 R95). -/
def State.readDraw (s : State) (pdk : PdkNum) (r : Record) : Except FaultInfo (BitVec 32) :=
  let va : Word := r.code.setWidth 64 - 4
  match (s.translate none pdk va (Acc.instr .user)).2 with
  | .error f => .error { f with val0 := r.name.toWord }
  | .ok t =>
    match s.accessError none t 4 false with
    | some (c, _) => .error { code := c, val0 := r.name.toWord, val1 := Config.freeWord s.freeIx }
    | none => .ok (BitVec.ofNat 32 (natOf (s.readTarget t 4)))

/-- A ready record placed in its queue's sublists. -/
def State.enqueue (s : State) (o : Owner) (front : Bool) (base : Nat) : State :=
  s.modPaddock o.pdk fun p =>
    { p with
      order := p.order + 1
      records := p.records.map fun r =>
        if r.name = o.name then
          { r with state := .queued, readyAt := s.clk, waitFrom := s.clk, order := p.order, front := front, base := base }
        else r }

/-- A record becomes ready: a tile task's draw word is read once and checked (05 R95), and the record enters
its sublist. -/
def State.makeReady (s : State) (o : Owner) (front : Bool) : State :=
  match s.paddock? o.pdk, s.record? o with
  | some p, some r =>
    if r.tile && r.draw.isNone then
      match s.readDraw o.pdk r with
      | .error f => s.drew.holdRecord o f
      | .ok w =>
        let draw := (field w 0 16).toNat
        let fits := (s.diesReached p r.queue).any fun d => decide (draw ≤ getAt p.desc.draw d.toNat 0)
        if field w 16 16 ≠ 0 ∨ fits = false then
          s.holdRecord o { code := .illegal, val0 := r.name.toWord, val1 := w.setWidth 64 }
        else (s.modRecord o fun r => { r with draw := some draw }).enqueue o front r.prio
    else s.enqueue o front r.prio
  | _, _ => s

/-- An owner that names a record, for the functions that look only at its name. -/
def ownerOf (p : PdkNum) (n : RecName) : Owner := { pdk := p, name := n, run := 0 }

/-- JOIN of the record at an address decremented; a record whose JOIN reaches zero becomes ready. `none` when
the address holds no record known to the Ostler or its JOIN is zero (04 R67). -/
def State.decJoin (s : State) (pdk : PdkNum) (addr : BitVec 48) : Option State :=
  let o := ownerOf pdk (.spawned addr)
  match s.record? o with
  | none => none
  | some r =>
    if r.join = 0 then none
    else
      let s := s.modRecord o fun r => { r with join := r.join - 1 }
      some (if r.join = 1 && r.state == .joining then s.makeReady o false else s)

/-- A parked record woken: it goes to the tail of its sublist in the queue of its level's domain (04 R77). -/
def State.wake (s : State) (o : Owner) : State :=
  match s.paddock? o.pdk, s.record? o with
  | some p, some r =>
    (s.modRecord o fun x => { x with queue := p.homeQueue r, wkind := .none, waddr := 0, waitTarget := none }).makeReady
      o false
  | _, _ => s

/-! ## Futures and barriers: who waits -/

/-- The parked records of every Paddock that meet a test, in the order in which they were parked. -/
def State.parkedWhere (s : State) (p : Record → Bool) : List Owner :=
  let all := (s.paddocks.map fun k =>
    (k.records.filter fun r => r.state == .parked && p r).map fun r => (r.order, ownerOf k.num r.name)).flatten
  (all.foldl (fun (acc : List (Nat × Owner)) e =>
    let (before, after) := acc.span fun x => x.1 ≤ e.1
    before ++ [e] ++ after) []).map (·.2)

/-- FPUT wakes every record parked on the future (04 R77). -/
def State.wakeFuture (s : State) (t : Target) : State :=
  (s.parkedWhere fun r => r.wkind == .future && r.waitTarget.any fun w => w.overlaps 8 t 8).foldl State.wake s

/-- A 32-bit field at a target. -/
def State.word32 (s : State) (t : Target) : BitVec 32 := BitVec.ofNat 32 (natOf (s.readTarget t 4))

/-- A copy of a register in the save area of a task that YIELD saved: the value and the full bit, at PADDOCK
privilege (04 R77; notes/assumptions/19.md). -/
def fillSaveArea (n : Reg) (v : Word) (pdk : PdkNum) (s : State) (r : Record) : State :=
  let base : Word := r.frame.setWidth 64
  let at_ (off : Nat) : Option Target :=
    match (s.translate none pdk (base + BitVec.ofNat 64 off) (Acc.write .paddock)).2 with
    | .ok t => some t
    | .error _ => none
  match at_ (8 * n.toNat), at_ 512 with
  | some t, some m =>
    let mask := natOf (s.readTarget m 8)
    let s := s.writeTarget t (bytesOf v.toNat 8)
    s.writeTarget m (bytesOf (BitVec.ofNat 64 mask ||| (1#64 <<< n.toNat)).toNat 8)
  | _, _ => s

/-- `fill` for a task of a core, wherever its registers are. -/
def State.fillTask (s : State) (c : CoreNum) (o : Owner) (n : Reg) (v : Word) : State :=
  s.onCore c fun s => s.fillFor o n v (fillSaveArea n v o.pdk)

/-- The BARTOK tokens of a core whose barrier has left the phase they read, filled with the new PHASE (14 R302). -/
def State.fillBartoks (s : State) (c : CoreNum) : State :=
  let due := (s.coreAt c).pipe.bartoks.filter fun b => s.word32 b.target != b.phase
  if due.isEmpty then s
  else
    let s := s.modCore c fun k => { k with pipe := { k.pipe with bartoks := k.pipe.bartoks.filter fun b => !due.contains b } }
    due.foldl (fun s b => s.fillTask c b.owner b.dst ((s.word32 b.target).setWidth 64)) s

/-- After a write: every token and every parked record that watches a barrier phase is looked at (14 R303). -/
def State.watchPhases (s : State) : State :=
  let s := s.liveCores.foldl (fun s e => s.fillBartoks e.2) s
  (s.parkedWhere fun r => r.wkind == .barrier && r.waitTarget.any fun w => s.word32 w != r.phase).foldl State.wake s

/-- A write that performs, with the waiters that it may release. -/
def State.perform (s : State) (t : Target) (bs : List Byte) : State := (s.writeTarget t bs).watchPhases

/-- The full bit of a future set with its value, and its waiters woken (04 R77). -/
def State.fillFuture (s : State) (t : Target) (v : Word) : State :=
  match t with
  | .mem pa _ _ _ => ((s.perform t (bytesOf v.toNat 8)).setFullBit pa true).wakeFuture t
  | _ => s.perform t (bytesOf v.toNat 8)

/-! ## Barriers (04 R78) -/

/-- A barrier object (04 Table SCH-6). -/
structure Barrier where
  phase : BitVec 32
  pending : BitVec 32
  reload : BitVec 32
  carry : BitVec 32
  deriving DecidableEq, Repr

/-- An addition to PENDING or CARRY: the sum, saturated, and whether it passed 2^32 − 1. -/
def satSum (a b : BitVec 32) : BitVec 32 × Bool :=
  if a.toNat + b.toNat < 2 ^ 32 then (a + b, false) else (BitVec.allOnes 32, true)

/-- BARARR: an arrival, which may complete the phase. The reload's sum saturates as every addition does, and
the flag says so. -/
def Barrier.arrive (b : Barrier) : Barrier × Bool :=
  if b.pending.toNat ≤ 1 then
    let (p, sat) := satSum b.reload b.carry
    ({ b with phase := b.phase + 1, pending := p, carry := 0 }, sat)
  else ({ b with pending := b.pending - 1 }, false)

/-- BAREXP n. -/
def Barrier.expect (b : Barrier) (n : BitVec 32) : Barrier × Bool :=
  let (p, sat) := satSum b.pending n
  ({ b with pending := p }, sat)

/-- The object at a target. -/
def State.barrierAt (s : State) (t : Target) : Barrier :=
  { phase := s.word32 t, pending := s.word32 (t.plus 4), reload := s.word32 (t.plus 8), carry := s.word32 (t.plus 12) }

/-- The bytes of an object. -/
def Barrier.bytes (b : Barrier) : List Byte :=
  bytesOf b.phase.toNat 4 ++ bytesOf b.pending.toNat 4 ++ bytesOf b.reload.toNat 4 ++ bytesOf b.carry.toNat 4

end Sys2Proof.Machine
end

