-- ==== Sys2Proof/Machine/Registers.lean ====
section
/-!
DEFINITION. The registers of a Paddock's control pages (03 Tables ADR-6, ADR-7; 04 Table SCH-5; 05 Tables
COR-4, COR-5; 06 Table LFT-4; 08 Table FAB-4; 04 R81): what a plain 8-byte load reads and what a plain 8-byte store does. An
offset that no table names reads as zero and ignores writes (00 R3).
-/
namespace Sys2Proof.Machine

/-- OSTCFG as a word. -/
def CtrlPage.ostcfg (k : CtrlPage) : Word :=
  BitVec.ofNat 64 (k.agingA.toNat + k.devD.toNat * 2 ^ 5 + k.droopK.toNat * 2 ^ 8 + k.pwait.toNat * 2 ^ 12
    + k.preen.toNat * 2 ^ 28)

/-- WRRW as a word. -/
def CtrlPage.wrrw (k : CtrlPage) : Word :=
  BitVec.ofNat 64 (k.pkgw.toNat + k.diew.toNat * 2 ^ 8 + k.clw.toNat * 2 ^ 16)

/-- HOLDCTL as a word. -/
def CtrlPage.holdctl (k : CtrlPage) : Word :=
  BitVec.ofNat 64 (k.holdAction.toNat + k.holdL0.toNat * 4 + k.holdAddr.toNat / 32 * 32 + k.holdResult.toNat * 2 ^ 48
    + k.holdBusy.toNat * 2 ^ 63)

/-- DRAWSTAT as a word (05 Table COR-4). -/
def State.drawstat (s : State) (p : Paddock) (d : DieNum) : Word :=
  let free := (s.die d).pool - 7 * (s.die d).jtok - s.admitted d none
  BitVec.ofNat 64 (getAt p.desc.draw d.toNat 0 + s.admitted d (some p.num) * 2 ^ 16 + free * 2 ^ 32)

/-- INGLIM of a core as a word: the value last written (05 Table COR-5). -/
def Fabric.inglim (f : Fabric) : Word :=
  let (t, w) := f.limNext.getD (f.limT, f.limW)
  BitVec.ofNat 64 (t.toNat + w.toNat * 2 ^ 16)

/-- PARTSTAT of a partition as a word. -/
def Loft.partstat (l : Loft) (parts : List (Nat × Nat)) (p : Nat) : Word :=
  let (lo, hi) := getAt parts p (0, 0)
  BitVec.ofNat 64 (l.used p + lo * 2 ^ 16 + hi * 2 ^ 32 + min (getAt l.fifos p []).length 255 * 2 ^ 48)

/-- PARTCNT of a partition as a word. -/
def Loft.partcnt (l : Loft) (p : Nat) : Word :=
  BitVec.ofNat 64 ((getAt l.blockClk p 0).toNat + (getAt l.grants p 0).toNat * 2 ^ 32)

/-- LOFTSTAT as a word. -/
def Loft.loftstat (l : Loft) : Word := BitVec.ofNat 64 (l.free + l.tiles.length * 2 ^ 16 + l.abandon.toNat * 2 ^ 32)

/-- A fabric fault register (08 Table FAB-4). -/
def Fabric.faultReg (f : Fabric) (k : Nat) : Word :=
  match k with | 0 => f.ffword | 1 => f.ffval0 | 2 => f.ffval1 | _ => f.ffcmd.setWidth 64

/-- The sensor register as a word (01 Table PKG-5). -/
def Sensor.word (x : Sensor) : Word :=
  BitVec.ofNat 64 (x.temp.toNat + x.droop.toNat * 2 ^ 16 + x.seq.toNat * 2 ^ 32)

/-- What a register of the control page is. -/
inductive CtrlReg where
  | tlbinva | tlbinvc | ostcfg | wrrw | drainwin | holdctl | drawstat | thrcnt | holdname
  | report (i : Nat)
  | inglim (c : CoreNum)
  | partstat (c : CoreNum) (p : Nat)
  | partcnt (c : CoreNum) (p : Nat)
  | loftstat (c : CoreNum)
  | fabricFault (c : CoreNum) (k : Nat)
  | sensor (c : CoreNum)
  | none
  deriving DecidableEq, Repr

/-- The core whose sensor register stands at an offset of the unnamed part of a die's control pages (01 R20;
notes/assumptions/93.md). -/
def sensorAt (d : DieNum) (off : Nat) : CtrlReg :=
  if 0xA400 ≤ off then
    match (upTo 160).find? fun k => Config.sensorOffset k == off with
    | some k => .sensor (coreOnDie d k)
    | Option.none => .none
  else .none

/-- The register at an offset of the control page on a die. -/
def ctrlReg (d : DieNum) (off : Nat) : CtrlReg :=
  match off with
  | 0x000 => .tlbinva | 0x008 => .tlbinvc | 0x010 => .ostcfg | 0x018 => .wrrw | 0x020 => .drainwin
  | 0x028 => .holdctl | 0x030 => .drawstat | 0x038 => .thrcnt | 0x040 => .holdname
  | _ =>
    if 0x1000 ≤ off ∧ off < 0x2000 then .report ((off - 0x1000) / 8)
    else if 0x2000 ≤ off ∧ off < 0x2000 + 8 * 160 then .inglim (coreOnDie d ((off - 0x2000) / 8))
    else if 0x3000 ≤ off ∧ off < 0x3000 + 64 * 160 then
      .partstat (coreOnDie d ((off - 0x3000) / 64)) ((off - 0x3000) / 8 % 8)
    else if 0x5800 ≤ off ∧ off < 0x5800 + 64 * 160 then
      .partcnt (coreOnDie d ((off - 0x5800) / 64)) ((off - 0x5800) / 8 % 8)
    else if 0x8000 ≤ off ∧ off < 0x8000 + 8 * 160 then .loftstat (coreOnDie d ((off - 0x8000) / 8))
    else if 0x9000 ≤ off ∧ off < 0x9000 + 32 * 160 then .fabricFault (coreOnDie d ((off - 0x9000) / 32)) ((off - 0x9000) / 8 % 4)
    else sensorAt d off

/-- Whether a per-core register is the Paddock's: for any other core it reads zero and ignores writes. -/
def State.coreRegOk (s : State) (p : Paddock) (c : CoreNum) : Bool := p.desc.ownsCore c && s.enabledCore c

/-- The value of a control-page register. -/
def State.ctrlValue (s : State) (p : Paddock) (d : DieNum) (off : Nat) : Word :=
  match p.ctrlOf d with
  | Option.none => 0
  | some k =>
    let own (c : CoreNum) (v : Word) : Word := if s.coreRegOk p c then v else 0
    match ctrlReg d off with
    | .tlbinva => k.tlbinva
    | .tlbinvc => BitVec.ofNat 64 (k.busy.toNat + k.doneCount.toNat * 2 ^ 32)
    | .ostcfg => k.ostcfg
    | .wrrw => k.wrrw
    | .drainwin => k.drainwin.setWidth 64
    | .holdctl => k.holdctl
    | .drawstat => s.drawstat p d
    | .thrcnt => k.throttle.setWidth 64
    | .holdname => k.holdName.setWidth 64
    | .report i => getAt k.report i 0
    | .inglim c => own c (s.coreAt c).fabric.inglim
    | .partstat c q => own c ((s.loftAt c).partstat p.desc.parts q)
    | .partcnt c q => own c ((s.loftAt c).partcnt q)
    | .loftstat c => own c (s.loftAt c).loftstat
    | .fabricFault c n => own c ((s.coreAt c).fabric.faultReg n)
    | .sensor c => own c (s.coreAt c).sensor.word
    | .none => 0

/-- The counters that a read clears (access RC). -/
def State.clearByRead (s : State) (p : Paddock) (d : DieNum) (off : Nat) : State :=
  match ctrlReg d off with
  | .thrcnt => s.modCtrl p.num d fun k => { k with throttle := 0 }
  | .partcnt c q => if s.coreRegOk p c then s.modLoft c fun l => { l with blockClk := updAt l.blockClk q fun _ => 0 } else s
  | .loftstat c => if s.coreRegOk p c then s.modLoft c fun l => { l with abandon := 0 } else s
  | _ => s

/-- A load of a control-page register: its value, and the state in which RC fields are cleared. -/
def State.ctrlRead (s : State) (pdk : PdkNum) (d : DieNum) (off : Nat) : Word × State :=
  match s.paddock? pdk with
  | Option.none => (0, s)
  | some p => (s.ctrlValue p d off, s.clearByRead p d off)

/-- A control page after a store to one of its own registers. -/
def CtrlPage.store (k : CtrlPage) (r : CtrlReg) (v : Word) : CtrlPage :=
  match r with
  | .tlbinva => if k.busy then k else { k with tlbinva := (field v 0 2).setWidth 64 ||| ((field v 16 32).setWidth 64 <<< 16) }
  | .tlbinvc => if bit v 0 then { k with busy := true } else k
  | .ostcfg =>
    let a : BitVec 5 := field v 0 5
    let w : BitVec 16 := field v 12 16
    { k with agingA := if a.toNat < 8 then 8 else a, devD := field v 5 3, droopK := field v 8 4,
             pwait := if w = 0 then 1 else w, preen := bit v 28 }
  | .wrrw =>
    let one (x : BitVec 8) : BitVec 8 := if x = 0 then 1 else x
    { k with pkgw := one (field v 0 8), diew := one (field v 8 8), clw := one (field v 16 8) }
  | .drainwin =>
    let w : BitVec 6 := field v 0 6
    if 8 ≤ w.toNat ∧ w.toNat ≤ 32 then { k with drainwin := w } else k
  | .holdctl =>
    if k.holdBusy then k
    else
      { k with holdAction := field v 0 2, holdL0 := bit v 2, holdAddr := ((field v 5 43).setWidth 48) <<< 5,
               holdBusy := field v 0 2 != 0, holdDone := false }
  | .holdname => { k with holdName := field v 0 48 }
  | _ => k

/-- INGLIM after a store: W of 0 stores 1; it takes effect at the start of the next window (05 R97). -/
def Fabric.storeInglim (f : Fabric) (v : Word) : Fabric :=
  let t : BitVec 16 := field v 0 16
  let w : BitVec 16 := field v 16 16
  let w := if w = 0 then 1 else w
  if f.config.isSome then { f with limNext := some (t, w) } else { f with limT := t, limW := w, limNext := none }

/-- A store to a control-page register; read-only registers ignore it. -/
def State.ctrlWrite (s : State) (pdk : PdkNum) (d : DieNum) (off : Nat) (v : Word) : State :=
  match s.paddock? pdk with
  | Option.none => s
  | some p =>
    match ctrlReg d off with
    | .inglim c =>
      if s.coreRegOk p c then s.modCore c fun k => { k with fabric := k.fabric.storeInglim v } else s
    | r => s.modCtrl pdk d (·.store r v)

/-! ## Invalidation (03 R56) -/

/-- First address and size of the range that TLBINVA names. -/
def invRange (v : Word) : Nat × Nat :=
  let va := (field v 16 32).toNat * 2 ^ 16
  match (field v 0 2).toNat with
  | 0 => (va, 2 ^ 16)
  | 1 => (va / 2 ^ 21 * 2 ^ 21, 2 ^ 21)
  | 2 => (va / 2 ^ 30 * 2 ^ 30, 2 ^ 30)
  | _ => (0, 2 ^ 48)

/-- Whether an entry's page overlaps a range of a Paddock. -/
def TlbEntry.overlapsRange (e : TlbEntry) (p : PdkNum) (lo size : Nat) : Bool :=
  e.pdk == p && decide (lo < e.base.toNat + pageSize e.level ∧ e.base.toNat < lo + size)

/-- Whether a target lies in the page of an entry. -/
def TlbEntry.reaches (e : TlbEntry) (t : Target) : Bool :=
  let page := leafPage e.leaf
  let inside (a : Nat) : Bool := decide (page ≤ a ∧ a < page + pageSize e.level)
  match t with
  | .mem pa _ _ _ => inside pa
  | .remote d pa _ => leafTier e.leaf == 2 && d == leafDevice e.leaf && inside pa
  | .loft _ _ _ | .ctrl _ _ _ => false

/-- The entries of a Paddock that an invalidation of a range drops on a die. -/
def State.droppedBy (s : State) (p : PdkNum) (d : DieNum) (lo size : Nat) : List TlbEntry :=
  ((s.die d).tlb ++ (s.liveCores.filter fun e => dieOf e.2 == d).flatMap fun e => (s.coreAt e.2).tlb).filter
    fun e => e.overlapsRange p lo size

/-- The accesses that a core has in flight for a Paddock: virtual address, where one is known, and place. Those of commands
are the writes that they hold: before their publish, in a configuration, or while they are suspended. -/
def Core.inFlight (c : Core) (p : PdkNum) : List (Option Word × Target) :=
  let mine (o : Owner) : Bool := o.pdk == p
  let pieces (k : Cmd) : List (Option Word × Target) :=
    if mine k.owner then (k.trail.filter (·.wr)).map fun x => (some (BitVec.ofNat 64 x.va), x.tgt) else []
  ((c.pipe.loads.filter fun x => mine x.owner).map fun x => (some x.va, x.target))
    ++ ((c.pipe.stores.filter fun x => mine x.owner).map fun x => (some x.va, x.target))
    ++ ((c.pipe.atomics.filter fun x => mine x.owner).map fun x => (some x.va, x.target))
    ++ (c.fabric.config.toList.filter fun g => mine g.owner).flatMap (fun g => g.held.map fun h => (none, h.run.tgt))
    ++ (c.suspended.map (·.cmd) ++ c.bte ++ c.join.inbox ++ c.remote ++ c.ostler).flatMap pieces

/-- Whether an access of a Paddock on a die that used a dropped entry, or lies in the range, has still to perform (03
R56). -/
def State.usesDropped (s : State) (p : PdkNum) (d : DieNum) (lo size : Nat) : Bool :=
  let es := s.droppedBy p d lo size
  let here (c : CoreNum) : Bool := dieOf c == d
  let inRange (va : Word) : Bool := decide (lo ≤ va.toNat ∧ va.toNat < lo + size)
  let due (va : Option Word) (t : Target) : Bool := va.any inRange || es.any fun e => e.reaches t
  (s.liveCores.any fun e => here e.2 && ((s.coreAt e.2).inFlight p).any fun x => due x.1 x.2)
    || (s.shadows.any fun x => here x.core && x.owner.pdk == p
        && ((x.len != 0 && decide (lo < x.start + x.len ∧ x.start < lo + size)) || x.runs.any fun r => due none r.tgt))
    || s.hub.remoteWaits.any fun w => here w.core && w.completion.owner.pdk == p && w.dest.any fun r => due none r.tgt

/-- INVALIDATION_DONE: once every access that used a dropped entry has performed, the entries are gone, BUSY
clears and DONE advances (03 R56). -/
def execInvalidationDone (pdk : PdkNum) (die : DieNum) (s : State) : Out :=
  .next
    (match (s.paddock? pdk).bind (·.ctrlOf die) with
     | Option.none => s
     | some k =>
       let (lo, size) := invRange k.tlbinva
       if !k.busy || s.usesDropped pdk die lo size then s
       else (s.dropTlb pdk die lo size).modCtrl pdk die fun k => { k with busy := false, doneCount := k.doneCount + 1 })

end Sys2Proof.Machine
end

