-- ==== Sys2Proof/Machine/LoadStore.lean ====
section
/-!
DEFINITION. Scalar loads and stores (13 R274 to R278): issue, the return of a load's data, the performance of
a store-queue entry, and the loads and stores that reach control-page registers (03, 04, 05, 06).
-/
namespace Sys2Proof.Machine

/-! ## Issue -/

/-- The access that a load of `k` bytes makes. -/
def State.loadAcc (s : State) (k : Nat) : Acc := { Acc.read s.priv with plain8 := k == 8 }
/-- The access that a store of `k` bytes makes. -/
def State.storeAcc (s : State) (k : Nat) : Acc := { Acc.write s.priv with plain8 := k == 8 }

/-- LD and LDS (13 R275). -/
def State.loadForm (s : State) (o : MOps) (signed : Bool) : Out :=
  let k := o.size.bytes
  s.withOps [(o.sa, o.ea)] [o.sd] <| s.afterAcquire <| s.needLoads 1 <|
    s.withTarget (s.mAddr o.sa o.off k) k (s.loadAcc k) fun s' t =>
      match s'.startLoad (s.mAddr o.sa o.off k) t k o.sd signed with
      | some s'' => s''.done
      | none => s'.stall Block.unit

/-- LD. -/
def execLd (o : MOps) (s : State) : Out := s.loadForm o false
/-- LDS. -/
def execLds (o : MOps) (s : State) : Out := s.loadForm o true

/-- ST: the store data is read through sd, after sa and without a bit of its own (12 R228). -/
def execSt (o : MOps) (s : State) : Out :=
  let k := o.size.bytes
  s.withOps [(o.sa, o.ea), (o.sd, false)] [] <| s.afterAcquire <| s.needStores 1 <|
    s.withTarget (s.mAddr o.sa o.off k) k (s.storeAcc k) fun s' t =>
      (s'.passHorizon.addStore (s.mAddr o.sa o.off k) t k (s.reg o.sd) .plain false).done

/-- LDQ: two independent 8-byte loads into sd and sd + 1 (13 R276). -/
def execLdq (o : QOps) (s : State) : Out :=
  let va := s.mAddr o.sa o.off 16
  s.withOps [(o.sa, o.ea)] [o.sd, o.sd + 1] <| s.afterAcquire <| s.needLoads 2 <|
    s.withTarget va 16 (s.loadAcc 16) fun s' t =>
      match (s'.startLoad va t 8 o.sd false).bind fun x => x.startLoad (va + 8) (t.plus 8) 8 (o.sd + 1) false with
      | some s'' => s''.done
      | none => s'.stall Block.unit

/-- STQ: two independent 8-byte stores of sd and sd + 1 (13 R276). -/
def execStq (o : QOps) (s : State) : Out :=
  let va := s.mAddr o.sa o.off 16
  s.withOps [(o.sa, o.ea), (o.sd, false), (o.sd + 1, false)] [] <| s.afterAcquire <| s.needStores 2 <|
    s.withTarget va 16 (s.storeAcc 16) fun s' t =>
      ((s'.passHorizon.addStore va t 8 (s.reg o.sd) .plain false).addStore (va + 8) (t.plus 8) 8
        (s.reg (o.sd + 1)) .plain false).done

/-! ## The order in which accesses perform -/

/-- Whether an earlier access of the same task stands in the way of one to a target: it touches a common byte,
or both go to UC pages (11 R208 rules 1 and 4). -/
def inTheWay (t : Target) (n : Nat) (x : Target) (m : Nat) : Bool := x.overlaps m t n || (x.isUc && t.isUc)

/-- Whether an access numbered `id` may perform: no earlier access of its task stands in the way. -/
def Pipe.mayPerform (p : Pipe) (o : Owner) (id : Nat) (t : Target) (n : Nat) : Bool :=
  (p.loads.all fun l => l.owner != o || decide (id ≤ l.id) || !inTheWay t n l.target l.bytes)
    && (p.stores.all fun x => x.owner != o || decide (id ≤ x.id) || !inTheWay t n x.target x.bytes)
    && (p.atomics.all fun x => x.owner != o || decide (id ≤ x.id) || !inTheWay t n x.target 8)

/-! ## The return of a load (13 R277, R278) -/

/-- The value that a load brings back, and the state after its read. -/
def State.loadValue (s : State) (l : PendLoad) : Word × State :=
  match l.kind with
  | .value v => (v, s)
  | .fullBit =>
    match l.target with
    | .mem pa _ _ _ => (ofBool (s.fullBit pa), s)
    | _ => (0, s)
  | .plain signed =>
    match l.target with
    | .ctrl p d off => s.ctrlRead p d off
    | t => (extend (natOf (s.readTarget t l.bytes)) l.bytes signed, s.afterRead t)

/-- The focused core without an outstanding load. -/
def State.dropLoad (s : State) (id : Nat) : State :=
  s.mapPipe fun p => { p with loads := p.loads.filter fun l => l.id != id }

/-- An access that has issued and ends with an error where it performs: the trap comes at the next boundary, as that of an
uncorrectable error does (13 R278). -/
def State.errorTrap (s : State) (o : Owner) (va addr : Word) (c : Code) : State :=
  let (f, s) := s.errorInfo va addr c
  s.raiseFor s.cur o f none

/-- Whether a load may return now. -/
def State.loadReady (s : State) (l : PendLoad) : Bool :=
  match l.kind with
  | .value _ => true
  | _ => s.me.pipe.mayPerform l.owner l.id l.target l.bytes

/-- The error that ends a load; a value that is already known meets none of its own. -/
def PendLoad.endError (l : PendLoad) (s : State) (ecc : Bool) : Option Code :=
  match l.kind with
  | .value _ => if ecc then some .eccUncorr else none
  | .plain _ | .fullBit => s.endError ecc l.target l.bytes false

/-- The result of a PRD reaches its register. -/
def State.returnPort (s : State) (id : Nat) : State :=
  match s.me.pipe.prds.find? fun x => x.id == id with
  | some x =>
    (s.mapPipe fun p => { p with prds := p.prds.filter fun y => y.id != id }).fillTask s.cur x.owner x.dst x.value
  | none => s

/-- The return of the load numbered `id` on the focused core, if it is outstanding and may perform, or of the PRD of that
number, a long-latency result as well (12 R229, 14 R312). -/
def State.returnLoad (s : State) (id : Nat) (ecc : Bool) : State :=
  match s.me.pipe.loads.find? fun l => l.id == id with
  | none => s.returnPort id
  | some l =>
    if !s.loadReady l then s
    else
      match l.endError s ecc with
      | some c => (s.dropLoad id).errorTrap l.owner l.va l.addr c
      | none =>
        let (v, s) := s.loadValue l
        ((s.dropLoad id).mapPipe fun p => p.noteRead l.owner id l.target l.bytes).fillTask s.cur l.owner l.dst v

/-- LOAD_RETURN. -/
def execLoadReturn (core : CoreNum) (id : Nat) (ecc : Bool) (s : State) : Out :=
  .next (s.onCore core fun s => s.returnLoad id ecc)

/-! ## The performance of a store-queue entry -/

/-- The focused core without a store-queue entry. -/
def State.dropStore (s : State) (id : Nat) : State :=
  s.mapPipe fun p => { p with stores := p.stores.filter fun x => x.id != id }

/-- A barrier object written back; an addition that saturated raises ILLEGAL at the issuer (04 R78, 14 R302). -/
def State.putBarrier (s : State) (x : PendStore) (b : Barrier × Bool) : State :=
  let s := s.perform x.target b.1.bytes
  if b.2 then s.raiseFor s.cur x.owner { code := .illegal, val0 := x.va, val1 := 0x22 } none else s

/-- What a store-queue entry does at its home (13 R277, 14 R298, R302). -/
def State.performStore (s : State) (x : PendStore) : State :=
  match x.kind with
  | .plain | .stl =>
    match x.target with
    | .ctrl p d off => s.ctrlWrite p d off x.value
    | t => s.perform t (bytesOf x.value.toNat x.bytes)
  | .fput => s.fillFuture x.target x.value
  | .fclr =>
    match x.target with
    | .mem pa _ _ _ => s.setFullBit pa false
    | _ => s
  | .bararr => s.putBarrier x (s.barrierAt x.target).arrive
  | .barexp n => s.putBarrier x ((s.barrierAt x.target).expect n)

/-- Whether a store-queue entry may perform: nothing earlier is in the way, and a release waits for every
earlier access of its task (14 R295). -/
def State.storeReady (s : State) (x : PendStore) : Bool :=
  s.me.pipe.mayPerform x.owner x.id x.target x.bytes && (!x.rel || s.me.pipe.allBefore x.owner x.id)

/-- The acknowledgement of the store-queue entry numbered `id` on the focused core. -/
def State.ackStore (s : State) (id : Nat) (ecc : Bool) : State :=
  match s.me.pipe.stores.find? fun x => x.id == id with
  | none => s
  | some x =>
    if !s.storeReady x then s
    else
      match s.endError ecc x.target x.bytes true with
      | some c => (s.dropStore id).errorTrap x.owner x.va x.addr c
      | none => (s.dropStore id).performStore x

/-- STORE_ACKNOWLEDGE. -/
def execStoreAcknowledge (core : CoreNum) (id : Nat) (ecc : Bool) (s : State) : Out :=
  .next (s.onCore core fun s => s.ackStore id ecc)

/-! ## Control-page registers reached by loads and stores -/

/-- The register that a target names. -/
def Target.register : Target → CtrlReg
  | .ctrl _ d off => ctrlReg d off
  | _ => .none

/-- A store-queue entry acknowledged only when its register meets a test. -/
def State.ackRegister (s : State) (core : CoreNum) (id : Nat) (p : CtrlReg → PendStore → Bool) : Out :=
  .next (s.onCore core fun s =>
    match s.me.pipe.stores.find? fun x => x.id == id with
    | some x => if p x.target.register x then s.ackStore id false else s
    | none => s)

/-- A load returned only when its register meets a test. -/
def State.returnRegister (s : State) (core : CoreNum) (id : Nat) (p : CtrlReg → Bool) : Out :=
  .next (s.onCore core fun s =>
    match s.me.pipe.loads.find? fun l => l.id == id with
    | some l => if p l.target.register then s.returnLoad id false else s
    | none => s)

/-- INGLIM: a store to a core's ingress limiter performs (05 R97). -/
def execIngLim (core : CoreNum) (id : Nat) (s : State) : Out :=
  s.ackRegister core id fun r _ => match r with | .inglim _ => true | _ => false

/-- GO: a store to TLBINVC starts an invalidation (03 R56). -/
def execGo (core : CoreNum) (id : Nat) (s : State) : Out :=
  s.ackRegister core id fun r x => r == .tlbinvc && bit x.value 0

/-- THRCNT_READ: a load of THRCNT returns and clears it (05 R96). -/
def execThrcntRead (core : CoreNum) (id : Nat) (s : State) : Out := s.returnRegister core id (· == .thrcnt)

/-- PARTCNT_READ: a load of PARTCNT returns and clears BLOCKCLK (06 R113). -/
def execPartcntRead (core : CoreNum) (id : Nat) (s : State) : Out :=
  s.returnRegister core id fun r => match r with | .partcnt _ _ => true | _ => false

/-- LOFTSTAT_READ: a load of LOFTSTAT returns and clears ABANDON (06 R113). -/
def execLoftstatRead (core : CoreNum) (id : Nat) (s : State) : Out :=
  s.returnRegister core id fun r => match r with | .loftstat _ => true | _ => false

/-- A store to any other register of the Paddock's control page performs (03, 04, 05). -/
def State.storeRegister (s : State) (core : CoreNum) (id : Nat) : Out :=
  s.ackRegister core id fun r x =>
    match r with
    | .none | .inglim _ => false
    | .tlbinvc => !bit x.value 0
    | _ => true

end Sys2Proof.Machine
end

