-- ==== Sys2Proof/Machine/Atomics.lean ====
section
/-!
DEFINITION. Atomics, LDA and STL (14 R292 to R296), their performance at the home (11 R213), and fences (11
R216, R217; 14 R297).
-/
namespace Sys2Proof.Machine

/-! ## Atomics -/

/-- The new value that an operation computes from the old one (14 Table SYN-1); `none` for a CAS that fails. -/
def AmoOp.apply (op : AmoOp) (old b expect : Word) : Option Word :=
  match op with
  | .add => some (old + b)
  | .and => some (old &&& b)
  | .or => some (old ||| b)
  | .xor => some (old ^^^ b)
  | .min => some (if old.slt b then old else b)
  | .max => some (if old.slt b then b else old)
  | .minu => some (if old.ult b then old else b)
  | .maxu => some (if old.ult b then b else old)
  | .swp => some b
  | .cas => if old = expect then some b else none

/-- Whether an order has an acquire half (14 R295). -/
def hasAcquire : MemOrder → Bool
  | .acquire | .acqRel => true
  | .relaxed | .release => false

/-- Whether an order has a release half. -/
def hasRelease : MemOrder → Bool
  | .release | .acqRel => true
  | .relaxed | .acquire => false

/-- The focused core with an outstanding atomic added and its destination empty. -/
def State.addAtomic (s : State) (va : Word) (t : Target) (o : AOps) (op : AmoOp) (operand expect : Word) : State :=
  let a : PendAtomic := { id := s.me.pipe.nextId, addr := s.pc, va := va, target := t, dst := o.sd, op := op,
                          operand := operand, expect := expect, acq := hasAcquire o.order,
                          rel := hasRelease o.order, owner := s.here }
  (s.mapPipe fun p => { p with nextId := p.nextId + 1, atomics := p.atomics ++ [a] }).setEmpty o.sd

/-- The issue of a read-modify-write atomic (14 R292): CAS reads its expected value through sd. -/
def State.amoForm (s : State) (o : AOps) (op : AmoOp) : Out :=
  let srcs := [(o.sa, o.ea), (o.sb, o.eb)] ++ (if op = .cas then [(o.sd, false)] else [])
  s.withOps srcs [o.sd] <| s.afterAcquire <| s.needLoads 1 <|
    s.withTarget (s.reg o.sa) 8 (Acc.both s.priv) fun s' t =>
      (s'.passHorizon.addAtomic (s.reg o.sa) t o op (s.reg o.sb) (s.reg o.sd)).done

/-- AMOADD. -/
def execAmoadd (o : AOps) (s : State) : Out := s.amoForm o .add
/-- AMOAND. -/
def execAmoand (o : AOps) (s : State) : Out := s.amoForm o .and
/-- AMOOR. -/
def execAmoor (o : AOps) (s : State) : Out := s.amoForm o .or
/-- AMOXOR. -/
def execAmoxor (o : AOps) (s : State) : Out := s.amoForm o .xor
/-- AMOMIN. -/
def execAmomin (o : AOps) (s : State) : Out := s.amoForm o .min
/-- AMOMAX. -/
def execAmomax (o : AOps) (s : State) : Out := s.amoForm o .max
/-- AMOMINU. -/
def execAmominu (o : AOps) (s : State) : Out := s.amoForm o .minu
/-- AMOMAXU. -/
def execAmomaxu (o : AOps) (s : State) : Out := s.amoForm o .maxu
/-- AMOSWP. -/
def execAmoswp (o : AOps) (s : State) : Out := s.amoForm o .swp
/-- CAS. -/
def execCas (o : AOps) (s : State) : Out := s.amoForm o .cas

/-- LDA: a load of one doubleword with an acquire half when its order has one (14 R293). It returns as a load
does, and not before an overlapping store of its task has performed (14 R295). -/
def execLda (o : UOps) (acq : Bool) (_scope : AScope) (s : State) : Out :=
  s.withOps [(o.sa, o.ea)] [o.sd] <| s.afterAcquire <| s.needLoads 1 <|
    s.withTarget (s.reg o.sa) 8 (Acc.read s.priv) fun s' t =>
      (s'.addLoad (s.reg o.sa) t 8 o.sd (.plain false) acq).done

/-- STL: a store of one doubleword with a release half when its order has one (14 R293). -/
def execStl (o : PairOps) (rel : Bool) (_scope : AScope) (s : State) : Out :=
  s.withOps [(o.sa, o.ea), (o.sb, o.eb)] [] <| s.afterAcquire <| s.needStores 1 <|
    s.withTarget (s.reg o.sa) 8 (Acc.write s.priv) fun s' t =>
      (s'.passHorizon.addStore (s.reg o.sa) t 8 (s.reg o.sb) .stl rel).done

/-- Whether an outstanding atomic may perform now: nothing earlier of its task is in the way, and one with a
release half waits for every earlier access (14 R295). -/
def State.atomicReady (s : State) (a : PendAtomic) : Bool :=
  s.me.pipe.mayPerform a.owner a.id a.target 8 && (!a.rel || s.me.pipe.allBefore a.owner a.id)

/-- The focused core without an outstanding atomic. -/
def State.dropAtomic (s : State) (id : Nat) : State :=
  s.mapPipe fun p => { p with atomics := p.atomics.filter fun a => a.id != id }

/-- The step at the home: the old word is read and the new one written, and the old value returns (11 R213). A
future's full bit is unchanged (14 R294). -/
def State.performAtomic (s : State) (a : PendAtomic) : State :=
  match s.endError false a.target 8 false with
  | some c => (s.dropAtomic a.id).errorTrap a.owner a.va a.addr c
  | none =>
  let old := wordOf (s.readTarget a.target 8)
  let s := ((s.afterRead a.target).dropAtomic a.id).mapPipe fun p => p.noteRead a.owner a.id a.target 8
  let s := match a.op.apply old a.operand a.expect with
    | some v => s.perform a.target (bytesOf v.toNat 8)
    | none => s
  s.fillTask s.cur a.owner a.dst old

/-- ATOMIC_AT_HOME. -/
def execAtomicAtHome (core : CoreNum) (id : Nat) (s : State) : Out :=
  .next (s.onCore core fun s =>
    match s.me.pipe.atomics.find? fun a => a.id == id with
    | some a => if s.atomicReady a then s.performAtomic a else s
    | none => s)

/-! ## Fences -/

/-- A command of a task that was issued before number `id`. -/
def Cmd.before (k : Cmd) (o : Owner) (id : Nat) : Bool := k.owner == o && decide (k.id < id)

/-- A shadow of a core written by a task's command that was issued before number `id`. -/
def State.shadowBefore (s : State) (c : CoreNum) (o : Owner) (id : Nat) (join : Bool) : Bool :=
  s.shadows.any fun x => x.core == c && x.isJoin == join && x.owner == o && decide (x.cmd < id)

/-- Whether a BTE command of a task that was issued before number `id` waits or runs on a core. -/
def State.bteBusy (s : State) (c : CoreNum) (o : Owner) (id : Nat) : Bool :=
  ((s.coreAt c).bte.any fun k => k.before o id)
    || ((s.coreAt c).suspended.any fun x => x.box == .bte && x.cmd.before o id)
    || s.mcasts.any fun m => m.core == c && m.cmd.before o id

/-- Whether a join command of a task that was issued before number `id` waits in a core. -/
def Core.joinBusy (c : Core) (o : Owner) (id : Nat) : Bool :=
  (c.join.inbox.any fun k => k.before o id)
    || c.suspended.any fun x => x.box == .join && x.cmd.before o id

/-- Whether every access of a task that it issued on one core before number `id` is complete, in the classes of a mask
but for fm (11 Table MEM-4). -/
def State.fenceClear (s : State) (o : Owner) (mask : BitVec 8) (c : CoreNum) (id : Nat) : Bool :=
  let p := (s.coreAt c).pipe
  let bte := s.bteBusy c o id
  let join := (s.coreAt c).joinBusy o id
  let open_ (i : Nat) (waits : Bool) : Bool := bit mask i && waits
  !(open_ 0 (p.loads.any fun l => l.owner == o && decide (l.id < id))
    || open_ 1 (p.stores.any fun x => x.owner == o && decide (x.id < id))
    || open_ 2 (p.atomics.any fun a => a.owner == o && decide (a.id < id))
    || open_ 4 bte
    || open_ 5 (bte || s.shadowBefore c o id false)
    || open_ 6 join
    || open_ 7 (join || s.shadowBefore c o id true))

/-- Whether every access that a fence covers is complete (11 Table MEM-4): those of the mask's classes that the task
issued on each core before the number which the marks give, since a task may have run on other cores before, and for
class fm the configuration when `cfg` says that one was covered. -/
def State.fenceDone (s : State) (o : Owner) (marks : List (CoreNum × Nat)) (mask : BitVec 8) (cfg : Bool) : Bool :=
  (marks.all fun m => s.fenceClear o mask m.1 m.2) && !(bit mask 3 && cfg)

/-- For every core the number that its next access takes: what a fence that issues now covers lies below. -/
def State.fenceMarks (s : State) : List (CoreNum × Nat) :=
  (s.cur, s.me.pipe.nextId) :: s.others.map fun e => (e.1, e.2.pipe.nextId)

/-- Whether a configuration of the running task loads or runs on the focused core. -/
def State.configHere (s : State) : Bool :=
  (s.me.fabric.loading.any fun l => l.owner == s.here) || s.me.fabric.config.any fun c => c.owner == s.here

/-- FENCE: its token is empty until the covered accesses are complete; with s0 it has no effect (14 R297). -/
def execFence (o : FenceOps) (s : State) : Out :=
  if o.sd = 0 then s.done
  else
    s.withOps [] [o.sd]
      (let f : PendFence :=
         { id := s.me.pipe.nextId, dst := o.sd, mask := o.mask, marks := s.fenceMarks, cfg := s.configHere, owner := s.here }
       ((s.mapPipe fun p => { p with nextId := p.nextId + 1, fences := p.fences ++ [f] }).setEmpty o.sd).done)

/-- FENCEC: later issue is held until the covered accesses are complete (14 R297). -/
def execFencec (o : FenceOps) (s : State) : Out :=
  s.withOps [] [o.sd]
    (if s.fenceDone s.here s.fenceMarks o.mask s.configHere then (s.put o.sd 0).done
     else s.stall { okind := 4, detail := 0, object := o.sd.setWidth 48 })

/-- FENCE_TOKEN_FILL: the token fills with 0 once the last covered access is complete (11 R217). -/
def execFenceTokenFill (core : CoreNum) (id : Nat) (s : State) : Out :=
  .next (s.onCore core fun s =>
    match s.me.pipe.fences.find? fun f => f.id == id with
    | some f =>
      if s.fenceDone f.owner f.marks f.mask f.cfg then
        (s.mapPipe fun p => { p with fences := p.fences.filter fun f => f.id != id }).fillTask s.cur f.owner f.dst 0
      else s
    | none => s)

end Sys2Proof.Machine
end

