-- ==== Sys2Proof/Machine/Flags.lean ====
section
/-!
DEFINITION. The sticky flags of scalar floating point (13 Table INT-6, 14 Table SYN-6): the only flags of the
Solan. Integer instructions set none (13 R257).
-/
namespace Sys2Proof.Machine

/-- Flags that one operation raises. -/
structure FpFlags where
  nx : Bool
  uf : Bool
  of : Bool
  dz : Bool
  nv : Bool
  deriving DecidableEq, Repr

/-- No flag. -/
def FpFlags.none : FpFlags := { nx := false, uf := false, of := false, dz := false, nv := false }
/-- An invalid operation. -/
def FpFlags.invalid : FpFlags := { FpFlags.none with nv := true }
/-- A division of a finite nonzero value by zero. -/
def FpFlags.divZero : FpFlags := { FpFlags.none with dz := true }

/-- FFLAGS bits: [0] NX, [1] UF, [2] OF, [3] DZ, [4] NV. -/
def FpFlags.bits (f : FpFlags) : BitVec 5 :=
  BitVec.ofBool f.nv ++ BitVec.ofBool f.dz ++ BitVec.ofBool f.of ++ BitVec.ofBool f.uf ++ BitVec.ofBool f.nx

/-- The flags that an operation raises stay set until an MTS clears them (14 R315). -/
def State.raise (s : State) (f : FpFlags) : State := s.mapSeq fun q => { q with fflags := q.fflags ||| f.bits }

end Sys2Proof.Machine
end

