-- ==== Sys2Proof/Machine/Formats.lean ====
section
/-!
DEFINITION. Number formats (07): the IEEE formats and the binary8 family as one kind of descriptor, integer
types, NB16 blocks, exact values, rounding and conversion (07 R115 to R127).
-/
namespace Sys2Proof.Machine

/-! ## Exact values -/

/-- An exact value: NaN, an infinity, or (−1)^neg × m × 2^e. A zero keeps its sign. -/
inductive Num where
  | nan
  | inf (neg : Bool)
  | fin (neg : Bool) (m : Nat) (e : Int)
  deriving DecidableEq, Repr

/-- +0. -/
def Num.zero : Num := .fin false 0 0
/-- 1. -/
def Num.one : Num := .fin false 1 0

/-- The negated value. -/
def Num.neg : Num → Num
  | .nan => .nan
  | .inf n => .inf (!n)
  | .fin n m e => .fin (!n) m e

/-- The magnitude. -/
def Num.abs : Num → Num
  | .nan => .nan
  | .inf _ => .inf false
  | .fin _ m e => .fin false m e

/-- Whether a value is NaN. -/
def Num.isNan : Num → Bool | .nan => true | _ => false
/-- Whether a value is an infinity. -/
def Num.isInf : Num → Bool | .inf _ => true | _ => false
/-- Whether a value is finite. -/
def Num.isFin : Num → Bool | .fin _ _ _ => true | _ => false
/-- Whether a value is a zero. -/
def Num.isZero : Num → Bool | .fin _ m _ => m == 0 | _ => false
/-- The sign. -/
def Num.isNeg : Num → Bool | .nan => false | .inf n => n | .fin n _ _ => n

/-- An integer as an exact value. -/
def Num.ofInt (v : Int) : Num := .fin (decide (v < 0)) v.natAbs 0
/-- The value scaled by 2^k. -/
def Num.scale (x : Num) (k : Int) : Num := match x with | .fin n m e => .fin n m (e + k) | y => y

/-- ⌊log2⌋ of a finite nonzero magnitude. -/
def Num.log (m : Nat) (e : Int) : Int := (m.log2 : Int) + e

/-- A value as a multiple of 2^e, for an e not above its own. -/
def scaled (neg : Bool) (m : Nat) (e e0 : Int) : Int :=
  let v : Int := (m * 2 ^ (e - e0).toNat : Nat)
  if neg then -v else v

/-- The exact sum of two values; the sign of an exact zero sum follows the rounding mode, and zeros of one
sign keep it (14 R316). Infinities of opposite signs give NaN. -/
def Num.add (x y : Num) (rm : Rounding) : Num :=
  match x, y with
  | .nan, _ | _, .nan => .nan
  | .inf a, .inf b => if a = b then .inf a else .nan
  | .inf a, _ | _, .inf a => .inf a
  | .fin a m e, .fin b n f =>
    let e0 := min e f
    let v := scaled a m e e0 + scaled b n f e0
    if v = 0 then .fin (if m = 0 ∧ n = 0 ∧ a = b then a else decide (rm = .rdn)) 0 0
    else .fin (decide (v < 0)) v.natAbs e0

/-- The exact product; 0 × inf gives NaN. -/
def Num.mul (x y : Num) : Num :=
  match x, y with
  | .nan, _ | _, .nan => .nan
  | .inf a, .inf b => .inf (a != b)
  | .inf a, .fin b n _ => if n = 0 then .nan else .inf (a != b)
  | .fin a m _, .inf b => if m = 0 then .nan else .inf (a != b)
  | .fin a m e, .fin b n f => .fin (a != b) (m * n) (e + f)

/-- Whether x < y for values that are not NaN; −0 = +0. -/
def Num.lt (x y : Num) : Bool :=
  match x, y with
  | .inf a, .inf b => a && !b
  | .inf a, .fin _ _ _ => a
  | .fin _ _ _, .inf b => !b
  | .fin a m e, .fin b n f =>
    let e0 := min e f
    decide (scaled a m e e0 < scaled b n f e0)
  | _, _ => false

/-- Whether x = y for values that are not NaN. -/
def Num.eq (x y : Num) : Bool := !x.isNan && !y.isNan && !x.lt y && !y.lt x

/-- An exact quotient m / n × 2^e cut to at least `bits` bits, with every bit below them joined into the last
one, so that rounding to fewer bits is exact. -/
def Num.quot (neg : Bool) (m n : Nat) (e : Int) (bits : Nat) : Num :=
  let k := bits + n.log2 + 1
  let q := m * 2 ^ k / n
  let r := m * 2 ^ k % n
  .fin neg (2 * q + (if r = 0 then 0 else 1)) (e - k - 1)

/-- ⌊√n⌋ from bit `k` downwards, given the root `r` found so far. -/
def sqrtFrom (n : Nat) : Nat → Nat → Nat
  | 0, r => r
  | k + 1, r => let t := r + 2 ^ k; sqrtFrom n k (if t * t ≤ n then t else r)

/-- ⌊√n⌋. -/
def isqrt (n : Nat) : Nat := sqrtFrom n (n.log2 / 2 + 1) 0

/-- The square root of m × 2^e cut to at least `bits` bits, with a last bit that joins the rest. -/
def Num.root (m : Nat) (e : Int) (bits : Nat) : Num :=
  let (m, e) := if e % 2 = 0 then (m, e) else (2 * m, e - 1)
  let n := m * 2 ^ (2 * bits)
  let r := isqrt n
  .fin false (2 * r + (if r * r = n then 0 else 1)) (e / 2 - bits - 1)

/-! ## Rounding to a multiple of a power of two (07 R121) -/

/-- Whether the magnitude rounds up, from its sign, the parity of the lower neighbour, and the remainder as a
comparison with one half: `half` says at least half, `more` more than half, `rest` more than nothing. -/
def roundsUp (rm : Rounding) (neg odd rest half more : Bool) : Bool :=
  match rm with
  | .rne => more || (half && odd)
  | .rtz => false
  | .rdn => neg && rest
  | .rup => !neg && rest

/-- m × 2^e as a multiple of 2^q, rounded, and whether the rounding was inexact. -/
def roundTo (rm : Rounding) (neg : Bool) (m : Nat) (e q : Int) : Nat × Bool :=
  if q ≤ e then (m * 2 ^ (e - q).toNat, false)
  else
    let n := (q - e).toNat
    let k := m / 2 ^ n
    let r := m % 2 ^ n
    let up := roundsUp rm neg (k % 2 == 1) (r != 0) (decide (2 ^ n ≤ 2 * r)) (decide (2 ^ n < 2 * r))
    (if up then k + 1 else k, r != 0)

/-! ## Floating-point formats (07 R117 to R120) -/

/-- A floating-point format: trailing significand bits, exponent of the smallest subnormal, bits of a code,
whether it is signed, the largest finite code and the infinity's code without sign, the NaN code, and whether
it is a binary8 variant. -/
structure Fmt where
  t : Nat
  qmin : Int
  width : Nat
  signed : Bool
  maxCode : Nat
  infCode : Option Nat
  nanCode : Nat
  b8 : Bool
  deriving DecidableEq, Repr

/-- FP64. -/
def Fmt.fp64 : Fmt :=
  { t := 52, qmin := -1074, width := 64, signed := true, maxCode := 0x7FEFFFFFFFFFFFFF,
    infCode := some 0x7FF0000000000000, nanCode := 0x7FF8000000000000, b8 := false }
/-- FP32. -/
def Fmt.fp32 : Fmt :=
  { t := 23, qmin := -149, width := 32, signed := true, maxCode := 0x7F7FFFFF, infCode := some 0x7F800000,
    nanCode := 0x7FC00000, b8 := false }
/-- BF16. -/
def Fmt.bf16 : Fmt :=
  { t := 7, qmin := -133, width := 16, signed := true, maxCode := 0x7F7F, infCode := some 0x7F80,
    nanCode := 0x7FC0, b8 := false }
/-- FP16. -/
def Fmt.fp16 : Fmt :=
  { t := 10, qmin := -24, width := 16, signed := true, maxCode := 0x7BFF, infCode := some 0x7C00,
    nanCode := 0x7E00, b8 := false }

/-- The binary8 variant of a number with a precision of at least 1 (07 R116, R118, R119). -/
def Fmt.binary8 (v : BitVec 5) : Fmt :=
  let p := (field v 2 3).toNat
  let nonneg := bit v 1
  let finite := bit v 0
  let w := if nonneg then 9 - p else 8 - p
  let t := p - 1
  let top := if nonneg then 0xFE else 0x7F
  { t := t, qmin := 1 - (2 ^ (w - 1) : Nat) - t, width := 8, signed := !nonneg
    maxCode := if finite then top else top - 1
    infCode := if finite then none else some top
    nanCode := if nonneg then 0xFF else 0x80, b8 := true }

/-- The exponent of the smallest normal value. -/
def Fmt.emin (f : Fmt) : Int := f.qmin + f.t

/-- The value of a code's magnitude part. -/
def Fmt.magnitude (f : Fmt) (neg : Bool) (c : Nat) : Num :=
  let e := c / 2 ^ f.t
  let m := c % 2 ^ f.t
  if e = 0 then .fin neg m f.qmin else .fin neg (2 ^ f.t + m) (f.qmin + (e - 1 : Nat))

/-- The value of a code (07 R117 to R119). -/
def Fmt.decode (f : Fmt) (c : Nat) : Num :=
  let c := c % 2 ^ f.width
  let neg := f.signed && decide (2 ^ (f.width - 1) ≤ c)
  let mag := if f.signed then c % 2 ^ (f.width - 1) else c
  if f.b8 && c == f.nanCode then .nan
  else
    match f.infCode with
    | some i => if mag = i then .inf neg else if i < mag then .nan else f.magnitude neg mag
    | none => f.magnitude neg mag

/-- A signed code. -/
def Fmt.withSign (f : Fmt) (neg : Bool) (mag : Nat) : Nat :=
  if neg && f.signed && !(f.b8 && mag == 0) then 2 ^ (f.width - 1) + mag else mag

/-- The largest finite value. -/
def Fmt.maxNum (f : Fmt) (neg : Bool) : Num := f.magnitude neg f.maxCode

/-- The code whose magnitude is m × 2^e rounded with the exponent unbounded above, and whether it is inexact:
codes of rising magnitudes are consecutive numbers. -/
def Fmt.roundCode (f : Fmt) (rm : Rounding) (neg : Bool) (m : Nat) (e : Int) : Nat × Bool :=
  let q := max (Num.log m e - f.t) f.qmin
  let (k, inexact) := roundTo rm neg m e q
  ((q - f.qmin).toNat * 2 ^ f.t + k, inexact)

/-- Whether a nonzero magnitude is tiny after rounding with an unbounded exponent (14 Table SYN-6). -/
def Fmt.tiny (f : Fmt) (rm : Rounding) (neg : Bool) (m : Nat) (e : Int) : Bool :=
  let q := Num.log m e - f.t
  let (k, _) := roundTo rm neg m e q
  decide (q < f.qmin) && decide (k < 2 ^ (f.emin - q).toNat)

/-- Whether a result beyond the largest finite value becomes an infinity (07 R122). -/
def overflowsToInf (rm : Rounding) (neg : Bool) : Bool :=
  match rm with | .rne => true | .rup => !neg | .rdn => neg | .rtz => false

/-- `round_to_format` (07 R122), with the flags that Table SYN-6 gives. -/
def Fmt.round (f : Fmt) (x : Num) (rm : Rounding) (sat : Bool) : Nat × FpFlags :=
  let beyond : FpFlags := { FpFlags.none with of := true, nx := true }
  match x with
  | .nan => (f.nanCode, FpFlags.none)
  | .inf neg =>
    if neg && !f.signed then (if sat then 0 else f.nanCode, FpFlags.invalid)
    else
      match f.infCode with
      | some i => if sat then (f.withSign neg f.maxCode, beyond) else (f.withSign neg i, FpFlags.none)
      | none => (f.withSign neg f.maxCode, beyond)
  | .fin neg 0 _ => (f.withSign neg 0, FpFlags.none)
  | .fin neg m e =>
    if neg && !f.signed then (if sat then 0 else f.nanCode, FpFlags.invalid)
    else
      let (c, inexact) := f.roundCode rm neg m e
      if f.maxCode < c then
        match f.infCode with
        | some i => if !sat && overflowsToInf rm neg then (f.withSign neg i, beyond) else (f.withSign neg f.maxCode, beyond)
        | none => (f.withSign neg f.maxCode, beyond)
      else (f.withSign neg c, { FpFlags.none with nx := inexact, uf := inexact && f.tiny rm neg m e })

/-- The code of a rounded value alone. -/
def Fmt.code (f : Fmt) (x : Num) (rm : Rounding) (sat : Bool) : Nat := (f.round x rm sat).1

/-! ## Integer types (07 R123) -/

/-- An integer type. -/
structure IntType where
  width : Nat
  signed : Bool
  deriving DecidableEq, Repr

/-- Smallest value. -/
def IntType.lo (t : IntType) : Int := if t.signed then -(2 ^ (t.width - 1) : Nat) else 0
/-- Largest value. -/
def IntType.hi (t : IntType) : Int := if t.signed then (2 ^ (t.width - 1) : Nat) - 1 else (2 ^ t.width : Nat) - 1

/-- The value of a code. -/
def IntType.decode (t : IntType) (c : Nat) : Int :=
  let c := c % 2 ^ t.width
  if t.signed && decide (2 ^ (t.width - 1) ≤ c) then (c : Int) - (2 ^ t.width : Nat) else c

/-- The low bits of an integer. -/
def lowBits (v : Int) (w : Nat) : Nat := (v % (2 ^ w : Nat)).toNat

/-- A value kept within the type's range. -/
def IntType.clamp (t : IntType) (v : Int) : Int := max t.lo (min t.hi v)

/-- A finite value rounded to an integer, and whether that was inexact. -/
def roundInt (rm : Rounding) (neg : Bool) (m : Nat) (e : Int) : Int × Bool :=
  let (k, inexact) := roundTo rm neg m e 0
  (if neg then -(k : Int) else k, inexact)

/-- A floating-point value to an integer type (07 R123): the value, and the flags. -/
def IntType.ofNum (t : IntType) (x : Num) (rm : Rounding) : Int × FpFlags :=
  match x with
  | .nan => (0, FpFlags.invalid)
  | .inf neg => (if neg then t.lo else t.hi, FpFlags.invalid)
  | .fin neg m e =>
    let (v, inexact) := roundInt rm neg m e
    if v < t.lo ∨ t.hi < v then (t.clamp v, FpFlags.invalid) else (v, { FpFlags.none with nx := inexact })

/-- An integer to an integer type (07 R123). -/
def IntType.ofInt (t : IntType) (v : Int) (sat : Bool) : Int :=
  if sat then t.clamp v else t.decode (lowBits v t.width)

/-! ## Format codes (07 Table FMT-1) -/

/-- A format that a word can hold. -/
inductive AnyFmt where
  | fp (f : Fmt)
  | int (t : IntType)
  deriving DecidableEq, Repr

/-- Bytes of a value. -/
def AnyFmt.bytes : AnyFmt → Nat | .fp f => f.width / 8 | .int t => t.width / 8

/-- The exact value of a code. -/
def AnyFmt.decode (f : AnyFmt) (c : Nat) : Num :=
  match f with | .fp f => f.decode c | .int t => Num.ofInt (t.decode c)

/-- The format of a code where commands and elements name one, with its variant field; NB16 and codes that are
not allowed there give none. -/
def wordFmt (code : Nat) (variant : BitVec 5) : Option AnyFmt :=
  match code with
  | 0x0 => some (.fp Fmt.fp32)
  | 0x1 => some (.fp Fmt.fp16)
  | 0x2 => some (.fp Fmt.bf16)
  | 0x4 => some (.fp (Fmt.binary8 variant))
  | 0x8 => some (.int { width := 8, signed := true })
  | 0x9 => some (.int { width := 16, signed := true })
  | 0xA => some (.int { width := 32, signed := true })
  | 0xC => some (.int { width := 8, signed := false })
  | 0xD => some (.int { width := 16, signed := false })
  | 0xE => some (.int { width := 32, signed := false })
  | _ => none

/-- A conversion between two formats of words (07 R122, R123): the code of the result, and the flags. -/
def AnyFmt.convert (src dst : AnyFmt) (c : Nat) (rm : Rounding) (sat : Bool) : Nat × FpFlags :=
  match src, dst with
  | s, .fp f => f.round (s.decode c) rm sat
  | .fp s, .int t => let (v, fl) := t.ofNum (s.decode c) rm; (lowBits v t.width, fl)
  | .int s, .int t =>
    let v := s.decode c
    let out := decide (v < t.lo) || decide (t.hi < v)
    (lowBits (t.ofInt v sat) t.width, { FpFlags.none with nv := out })

/-! ## NB16 blocks (07 R125 to R127) -/

/-- Element `i` of a block of 18 bytes in a variant (07 R126). -/
def nb16Decode (v : BitVec 5) (block : List Byte) (i : Nat) : Num :=
  let e := natAt block 0 1
  let sub := natAt block 1 1
  let sh := if i < 8 then sub % 16 else sub / 16
  ((Fmt.binary8 v).decode (natAt block (2 + i) 1)).scale ((e : Int) - 127 - sh)

/-- The largest ⌊log2⌋ of the finite nonzero values of a list. -/
def maxLog (xs : List Num) : Option Int :=
  xs.foldl (fun acc x =>
    match x with
    | .fin _ m e =>
      if m = 0 then acc
      else match acc with | none => some (Num.log m e) | some l => some (max l (Num.log m e))
    | _ => acc) none

/-- The block made of sixteen values (07 R127). -/
def nb16Encode (v : BitVec 5) (xs : List Num) (rm : Rounding) : List Byte :=
  let f := Fmt.binary8 v
  let emax : Int := match f.maxNum false with | .fin _ m e => Num.log m e | _ => 0
  let all := maxLog xs
  let e : Int := match all with | none => 127 | some l => min 255 (max 0 (l - emax + 127))
  let shift (h : Nat) : Nat :=
    match all, maxLog ((xs.drop (8 * h)).take 8) with
    | some l, some k => min 15 (l - k).toNat
    | _, _ => 0
  let elem (i : Nat) : Byte :=
    BitVec.ofNat 8 (f.code ((getAt xs i Num.zero).scale (127 - e + shift (i / 8))) rm true)
  BitVec.ofNat 8 e.toNat :: BitVec.ofNat 8 (shift 0 + 16 * shift 1) :: (upTo 16).map elem

end Sys2Proof.Machine
end

