-- ==== Sys2Proof/Machine/Engine.lean ====
section
/-!
DEFINITION. What every engine does with a command (15 R319 to R321, 12 R238 to R242, 03 R58, R59): inboxes, the
reading of memory and of descriptors, operand references, pending ranges (11 R220), fault words and completions.
-/
namespace Sys2Proof.Machine

/-! ## Inboxes (15 Table CMD-1) -/

/-- A port of a list of sixteen. -/
def portAt (l : List Port) (p : BitVec 4) : Port := getAt l p.toNat Port.reset

/-- The commands that wait in an inbox, the next to start first. -/
def Core.inbox (c : Core) : Box → List Cmd
  | .ingress p => (portAt c.fabric.ingress p).queue
  | .egress p => (portAt c.fabric.egress p).queue
  | .control => c.fabric.control
  | .join => c.join.inbox
  | .bte => c.bte
  | .remote => c.remote
  | .ostler => c.ostler

/-- The core with the commands of an inbox changed. -/
def Core.mapInbox (c : Core) (b : Box) (f : List Cmd → List Cmd) : Core :=
  let onPort (p : Port) : Port := { p with queue := f p.queue }
  match b with
  | .ingress p => { c with fabric := { c.fabric with ingress := updAt c.fabric.ingress p.toNat onPort } }
  | .egress p => { c with fabric := { c.fabric with egress := updAt c.fabric.egress p.toNat onPort } }
  | .control => { c with fabric := { c.fabric with control := f c.fabric.control } }
  | .join => { c with join := { c.join with inbox := f c.join.inbox } }
  | .bte => { c with bte := f c.bte }
  | .remote => { c with remote := f c.remote }
  | .ostler => { c with ostler := f c.ostler }

/-- How many commands an inbox holds. -/
def boxCapacity : Box → Nat
  | .ingress _ | .egress _ | .control | .ostler => 4
  | .join => 8
  | .bte | .remote => 16

/-- The number of an inbox as a deadlock report names it (04 R81). -/
def boxUnit : Box → Nat
  | .join => 0x00 | .bte => 0x01 | .remote => 0x02 | .ostler => 0x03
  | .ingress p => 0x10 + p.toNat | .egress p => 0x20 + p.toNat | .control => 0x30

/-- The inbox that a packet's opcode and target select (12 Table ENC-7); none for an opcode outside the table. -/
def packetBox (p : Packet) : Option Box :=
  let port : BitVec 4 := field p 114 4
  match pktOp p with
  | 0x01 | 0x02 | 0x03 | 0x06 => some (.ingress port)
  | 0x04 | 0x05 => some (.egress port)
  | 0x07 | 0x08 | 0x09 | 0x0A => some .control
  | 0x20 | 0x21 | 0x22 | 0x23 | 0x24 | 0x25 | 0x26 | 0x27 => some .join
  | 0x40 | 0x41 | 0x42 | 0x43 | 0x44 => some .bte
  | 0x60 | 0x61 | 0x62 | 0x63 => some .remote
  | 0x70 => some .ostler
  | _ => none

/-- The command that an engine's meaning acts for: the head of its inbox, or one that the running task would
have issued when the inbox is empty. -/
def State.headCmd (s : State) (b : Box) (tok : Reg) : Cmd :=
  match (s.me.inbox b).head? with
  | some k => k
  | none => { id := s.me.pipe.nextId, addr := s.pc, packet := 0, owner := s.here, priv := s.me.seq.status.priv, tok := tok }

/-- The focused core with the head of an inbox taken. -/
def State.popBox (s : State) (b : Box) : State := s.mapMe fun c => c.mapInbox b List.tail

/-! ## Completions (15 R320, 03 Table ADR-9) -/

/-- The word of a token (15 Table CMD-2, 03 Table ADR-9): code, DETAIL or OPERAND, COUNT or OFFSET. -/
def tokenWord (code : Code) (mid n : Nat) : Word :=
  BitVec.ofNat 64 (code.toByte.toNat + mid % 256 * 2 ^ 8 + n % 2 ^ 48 * 2 ^ 16)

/-- A word that no rule states, drawn free (notes/assumptions/24.md). -/
def State.anyWord (s : State) : Word × State := (Config.freeWord s.freeIx, s.drew)

/-- A code that no rule states, drawn free among those of 12 Table ENC-14: no other is ever produced (12 R226). -/
def State.anyCode (s : State) : Code × State :=
  let (w, s) := s.anyWord
  (getAt Code.all (w.toNat % Code.all.length) .none, s)

/-- The completion of a command. -/
def Cmd.ends (k : Cmd) (code : Code) (w : Word) : Completion :=
  { id := k.id, tok := k.tok, word := w, code := code, addr := k.addr, owner := k.owner }

/-- A completion kept until COMMAND_COMPLETION delivers it; one that nobody would see is dropped. -/
def State.finish (s : State) (c : CoreNum) (x : Completion) : State :=
  if x.tok = 0 ∧ x.code = .none then s else s.modCore c fun k => { k with done := k.done ++ [x] }

/-- A command of the focused core that succeeds with a DETAIL and a COUNT. -/
def State.succeed (s : State) (k : Cmd) (det count : Nat) : State :=
  s.finish s.cur (k.ends .none (tokenWord .none det count))

/-- The token register of the follow-on join that a COPY carries, when it has one (15 R332). -/
def Cmd.followTok (k : Cmd) : Option Reg :=
  let ftok : Reg := field k.packet 96 6
  if pktOp k.packet = 0x40 ∧ field k.packet 48 48 ≠ 0 ∧ ftok ≠ 0 then some ftok else none

/-- A command of the focused core that ends with a fault word, which the token of its follow-on gets as well
(10 R204). -/
def State.failWith (s : State) (k : Cmd) (code : Code) (w : Word) : State :=
  let s := s.finish s.cur (k.ends code w)
  match k.followTok with
  | some t => s.finish s.cur { k.ends code w with tok := t }
  | none => s

/-- A command of the focused core that ends with a fault word; an OFFSET that no rule states is free. -/
def State.refuse (s : State) (k : Cmd) (code : Code) (operand : Nat) (off : Option Nat) : State :=
  match off with
  | some n => s.failWith k code (tokenWord code operand n)
  | none => let (w, s) := s.anyWord; s.failWith k code (tokenWord code operand w.toNat)

/-! ## How a command goes on or stops -/

/-- Why a command does not go on: it is held, it has sent a message whose answer it awaits, it meets a non-resident
tier page, or it faults. -/
inductive Stop where
  | wait
  | pause (s : State)
  | tier (s : State) (f : FaultInfo)
  | fault (s : State) (code : Code) (operand : Nat) (off : Option Nat)

/-- What a part of a command answers: the state after it and a value, or why the command stops. -/
abbrev Eng (α : Type) := Except Stop (State × α)

/-- A check of a command. -/
def require (s : State) (ok : Bool) (code : Code) (operand : Nat) (off : Option Nat) : Except Stop Unit :=
  if ok then .ok () else .error (.fault s code operand off)

/-- The tier physical address of the page that holds a virtual address. -/
def State.tierPage (s : State) (p : PdkNum) (va : Word) : Word :=
  match s.paddock? p with
  | some k => match s.walk none k va with | .ok (_, e, _) => BitVec.ofNat 64 (leafPage e) | .error _ => 0
  | none => 0

/-- A TIER event (02 R27): the virtual address, the page's tier address and the suspended command's address. -/
def State.tierEvent (s : State) (p : PdkNum) (va pc : Word) : State :=
  s.report .tier (some p) false
    { FaultRecord.blank s with
      code := Code.tierMiss.toByte, source := s.cur, pc := pc, val0 := va, val1 := s.tierPage p va }

/-- The device ready to perform a command, with what the command has done so far. -/
def State.resume (s : State) (k : Cmd) : State := { s with journal := { Journal.empty with left := k.trail } }

/-- The device with no command in hand. -/
def State.putDown (s : State) : State := { s with journal := Journal.empty }

/-- The command at the head of an inbox of the focused core with the accesses that it has made, which stand, and with what
holds it. -/
def State.keepTrail (s : State) (b : Box) : State :=
  let keep (q : List Cmd) : List Cmd :=
    match q with | k :: rest => { k with trail := s.journal.made ++ s.journal.left, hold := s.journal.hold } :: rest | [] => []
  s.mapMe fun c => c.mapInbox b keep

/-- A command suspended on a tier page (03 R59): it leaves its inbox with what it has done, a TIER event is posted, and its
task takes TIER_MISS at its next boundary. -/
def State.suspend (s : State) (b : Box) (k : Cmd) (f : FaultInfo) : State :=
  let s := s.mapMe fun c => { c with suspended := c.suspended ++ [{ box := b, cmd := k, va := f.val0.setWidth 48 }] }
  (s.tierEvent k.owner.pdk f.val0 k.addr).raiseFor s.cur k.owner f none

/-- What a command of the focused core that ends in a fault had begun: its pending range and its consumes. -/
def State.dropWork (s : State) (id : Nat) : State :=
  (s.dropConsumes s.cur fun k => k.cmd == id).mapMe fun c => { c with ranges := c.ranges.filter fun r => r.cmd != id }

/-- The state after a command that stood at the head of an inbox has started or stopped. -/
def State.settle (s : State) (b : Box) (k : Cmd) (r : Except Stop State) : State :=
  match r with
  | .ok s' => s'.putDown
  | .error .wait => s.putDown
  | .error (.pause s') => (s'.keepTrail b).putDown
  | .error (.tier s' f) =>
    let s' := s'.keepTrail b
    ((s'.popBox b).suspend b (s'.headCmd b k.tok) f).putDown
  | .error (.fault s' code operand off) => (((s'.popBox b).dropWork k.id).refuse k code operand off).putDown

/-! ## Memory as engines see it -/

/-- Who makes an engine access: core (none for the hub and for a remote command), Paddock and privilege, and whether the
access stands in the journal of the command that is being performed. -/
structure Agent where
  core : Option CoreNum
  pdk : PdkNum
  priv : Priv
  kept : Bool := false
  deriving DecidableEq, Repr

/-- The agent of a command of the focused core. -/
def State.agentOf (s : State) (k : Cmd) : Agent := { core := some s.cur, pdk := k.owner.pdk, priv := k.priv }

/-- The agent of a command of the focused core that goes on after a suspension from where it stood (03 R59). -/
def State.keeperOf (s : State) (k : Cmd) : Agent := { s.agentOf k with kept := true }

/-- Whether a target lies on another device. -/
def Target.isRemote : Target → Bool | .remote _ _ _ => true | _ => false

/-- The target of an engine access of `n` bytes, or the fault at the first byte that cannot be reached: no scale-out port
carries it (10 R190; notes/assumptions/92.md), or it meets an error where it performs (01 R9, R11). -/
def State.engTarget (s : State) (a : Agent) (va n : Nat) (wr : Bool) : State × Except FaultInfo Target :=
  match s.translate a.core a.pdk (BitVec.ofNat 64 va) ((if wr then Acc.write a.priv else Acc.read a.priv).byEngine) with
  | (s, .ok t) =>
    if t.isRemote && !s.linked then (s, .error { code := .linkDown, val0 := BitVec.ofNat 64 va, val1 := 0 })
    else
      match s.accessError a.core t n wr with
      | some (c, i) => (s.afterRead t, .error { code := c, val0 := BitVec.ofNat 64 (va + i), val1 := 0 })
      | none => (s, .ok t)
  | r => r

/-- The fault of an engine access as the stop of its command; `off` is the offset of the access's first byte, `va`. -/
def stopOf (s : State) (f : FaultInfo) (operand off va : Nat) : Stop :=
  match f.code with
  | .tierMiss => .tier s f
  | c => .fault s c operand (some (off + (f.val0.toNat - va)))

/-- The piece that a command made before it was suspended, if it comes to the same access again. -/
def Journal.next (j : Journal) (va n : Nat) (wr : Bool) : Option (Piece × Journal) :=
  match j.left with
  | p :: rest => if p.va = va ∧ p.len = n ∧ p.wr = wr then some (p, { j with made := j.made ++ [p], left := rest }) else none
  | [] => none

/-- A piece of an engine access: one that the command has made already stands, with the bytes that it read and the place
that it found (03 R61, R62); any other is made now. -/
def State.piece (s : State) (a : Agent) (va n : Nat) (wr : Bool) : State × Except FaultInfo Piece :=
  match if a.kept then s.journal.next va n wr else none with
  | some (p, j) => ({ s with journal := j }, .ok p)
  | none =>
    match s.engTarget a va n wr with
    | (s, .error f) => (s, .error f)
    | (s, .ok t) =>
      let p : Piece := { va := va, len := n, wr := wr, tgt := t, bytes := if wr then [] else s.readTarget t n }
      let s := if wr then s else s.afterRead t
      (if a.kept then { s with journal := { s.journal with made := s.journal.made ++ [p], left := [] } } else s, .ok p)

/-- Pieces of 4 KiB that a range of `n` bytes from an address touches. -/
def pieces (va n : Nat) : Nat := (va % 4096 + n + 4095) / 4096

/-- Bytes read by an engine, piece by piece; the lowest faulting offset stops it. `off` is the offset of `va` from
the operand's base. -/
def State.readPieces (s : State) (a : Agent) (operand : Nat) (off va n : Nat) : Nat → Eng (List Byte)
  | 0 => .ok (s, [])
  | c + 1 =>
    if n = 0 then .ok (s, [])
    else
      let m := min n (4096 - va % 4096)
      match s.piece a va m false with
      | (s, .error f) => .error (stopOf s f operand off va)
      | (s, .ok p) =>
        match s.readPieces a operand (off + m) (va + m) (n - m) c with
        | .error e => .error e
        | .ok (s', bs) => .ok (s', p.bytes ++ bs)

/-- `n` bytes at a virtual address, as operand bytes from `off` on. -/
def State.readMem (s : State) (a : Agent) (operand off va n : Nat) : Eng (List Byte) :=
  s.readPieces a operand off va n (pieces va n)

/-- Where bytes that an engine writes go, piece by piece. -/
def State.spanPieces (s : State) (a : Agent) (operand : Nat) (off va : Nat) (bs : List Byte) : Nat → Eng (List Run)
  | 0 => .ok (s, [])
  | c + 1 =>
    if bs.isEmpty then .ok (s, [])
    else
      let m := min bs.length (4096 - va % 4096)
      match s.piece a va m true with
      | (s, .error f) => .error (stopOf s f operand off va)
      | (s, .ok p) =>
        match s.spanPieces a operand (off + m) (va + m) (bs.drop m) c with
        | .error e => .error e
        | .ok (s', rs) => .ok (s', { tgt := p.tgt, bytes := bs.take m } :: rs)

/-- The shadow writes of some bytes at a virtual address. -/
def State.spanMem (s : State) (a : Agent) (operand off va : Nat) (bs : List Byte) : Eng (List Run) :=
  s.spanPieces a operand off va bs (pieces va bs.length)

/-! ## Operand references (12 R241) -/

/-- An operand reference. -/
inductive Ref where
  | mem (va : Nat)
  | tile (h : BitVec 32)
  | port (p : BitVec 4)
  deriving DecidableEq, Repr

/-- The kinds that an operand allows. -/
structure Kinds where
  mem : Bool
  tile : Bool
  port : Bool

/-- MEM only. -/
def Kinds.memOnly : Kinds := { mem := true, tile := false, port := false }
/-- MEM or TILE. -/
def Kinds.memTile : Kinds := { mem := true, tile := true, port := false }
/-- Any kind. -/
def Kinds.all : Kinds := { mem := true, tile := true, port := true }

/-- Whether a reference's KIND is allowed. -/
def Kinds.allows (k : Kinds) (r : Word) : Bool :=
  match (field r 62 2).toNat with | 0 => k.mem | 1 => k.tile | 2 => k.port | _ => false

/-- The reference in a word whose checks have passed. -/
def refOf (r : Word) : Ref :=
  match (field r 62 2).toNat with
  | 1 => .tile (field r 0 32)
  | 2 => .port (field r 0 4)
  | _ => .mem (field r 0 48).toNat

/-! ## Descriptors (12 R242) -/

/-- The 64-bit word at a byte of a descriptor. -/
def descWord (d : List Byte) (off : Nat) : Word := BitVec.ofNat 64 (natAt d off 8)

/-- Whether bytes of a descriptor are zero. -/
def descZero (d : List Byte) (off n : Nat) : Bool := natAt d off n == 0

/-- The OFFSET of a descriptor field: 128 plus its lowest bit number (15 R321). -/
def descOff (byte bit : Nat) : Nat := 128 + 8 * byte + bit

/-- The address of a command's extended descriptor. -/
def extAddr : Instr → Option Nat
  | .jdense _ _ _ _ _ ext | .jsparse _ _ ext | .jgath _ _ _ ext => some ext.toNat
  | .jdrain _ _ (.dense ext) => some ext.toNat
  | .copy _ ext _ _ | .mcast _ ext | .pagein _ ext => some ext.toNat
  | .fill _ (.desc ext) => some ext.toNat
  | .rput _ ext | .rget _ ext | .ramo _ ext _ | .rsend _ ext => some ext.toNat
  | _ => none

/-- The references of a command's descriptor: byte and allowed kinds. -/
def descRefs : Instr → List (Nat × Kinds)
  | .jdense _ _ _ _ _ _ | .jsparse _ _ _ => [(0, Kinds.memTile), (8, Kinds.memTile)]
  | .jgath _ _ _ _ => [(0, Kinds.all), (8, Kinds.all)]
  | .copy _ _ _ _ => [(0, Kinds.memOnly), (8, Kinds.memOnly)]
  | _ => []

/-- The first reference of a descriptor whose KIND is not allowed. -/
def badKind (d : List Byte) : List (Nat × Kinds) → Option Nat
  | [] => none
  | (off, k) :: rest => if k.allows (descWord d off) then badKind d rest else some (descOff off 62)

/-- The first bad zero field among a descriptor's references. -/
def badRef (d : List Byte) : List (Nat × Kinds) → Option Nat
  | [] => none
  | (off, _) :: rest =>
    match firstBad (refChecks (descWord d off) (descOff off 0)) with
    | some n => some n
    | none => badRef d rest

/-! ## Extents (11 R220) -/

/-- A range of virtual addresses: first byte and length. -/
abbrev Extent := Nat × Nat

/-- Whether two ranges share a byte. -/
def Extent.meets (a b : Extent) : Bool := decide (a.2 ≠ 0 ∧ b.2 ≠ 0 ∧ a.1 < b.1 + b.2 ∧ b.1 < a.1 + a.2)

/-- A signed 32-bit field. -/
def signed32 (n : Nat) : Int := (BitVec.ofNat 32 n).toInt

/-- Lowest and highest shift of a set of dimensions (counts and strides). -/
def strideSpan : List (Nat × Int) → Int × Int
  | [] => (0, 0)
  | (n, st) :: rest =>
    let (lo, hi) := strideSpan rest
    let far : Int := (n - 1 : Nat) * st
    (lo + min 0 far, hi + max 0 far)

/-- The four outer dimensions of a COPY on one side: counts and strides at a byte of the descriptor. -/
def copyDims (d : List Byte) (strides : Nat) : List (Nat × Int) :=
  (upTo 4).map fun k => (natAt d (20 + 2 * k) 2 + 1, signed32 (natAt d (strides + 4 * k) 4))

/-- The range that one side of a COPY touches. -/
def copyExtent (d : List Byte) (base strides : Nat) : Extent :=
  let (lo, hi) := strideSpan (copyDims d strides)
  let len := natAt d 16 4
  let start : Int := (field (descWord d base) 0 48).toNat + lo
  if len = 0 then (start.toNat, 0) else (start.toNat, (hi - lo).toNat + len)

/-- The size in bytes that a PAGEIN names. -/
def pageinSize (code : Nat) : Nat := match code with | 0 => 2 ^ 16 | 1 => 2 ^ 21 | _ => 2 ^ 30

/-- Where the accumulating commands of a core may write spill records: the unused part of the armed area. -/
def Join.spillExtent (j : Join) : Extent :=
  (j.spillBase.toNat + 16 * j.spillCount.toNat, 16 * (j.spillCap.toNat - j.spillCount.toNat))

/-- The destination range of a BTE or join command, with its descriptor's bytes. -/
def destExtents (i : Instr) (d : List Byte) (j : Join) : List Extent :=
  match i with
  | .copy _ _ _ _ => [copyExtent d 8 44]
  | .mcast _ _ => [((field (descWord d 16) 0 48).toNat, 32)]
  | .pagein _ _ => [((field (descWord d 0) 0 48).toNat, pageinSize (natAt d 24 1))]
  | .fill _ (.direct dst len _) => [(dst.toNat, len.toNat)]
  | .fill _ (.desc _) => [((field (descWord d 0) 0 48).toNat, (field (descWord d 8) 0 48).toNat)]
  | .jdrain _ _ (.records a) | .jpeek _ a => [(a.toNat, 16 * 32768)]
  | .jdrain _ _ (.dense _) =>
    let ld := natAt d 16 4
    let size := match wordFmt (natAt d 28 2 % 16) 0 with | some f => f.bytes | none => 4
    [((field (descWord d 0) 0 48).toNat, ((natAt d 8 4 - 1) * ld + natAt d 12 4) * size)]
  | .jdense _ _ _ _ _ _ | .jsparse _ _ _ | .jgath _ _ _ _ | .jfeed _ _ _ _ _ => [j.spillExtent]
  | _ => []

/-- The instruction of a waiting command, if its packet decodes. -/
def Cmd.instr? (k : Cmd) : Option Instr := match decodePacket k.packet with | .ok i => some i | .error _ => none

/-- The bytes of a waiting command's descriptor as they stand now; zeros where it cannot be read. -/
def State.peekDesc (s : State) (k : Cmd) (i : Instr) : List Byte :=
  match extAddr i, k.desc with
  | none, _ => []
  | some _, some d => d
  | some va, none =>
    match s.readMem (s.agentOf k) 3 0 va 64 with
    | .ok (_, d) => d
    | .error _ => []

/-- The destination ranges of the commands of the focused core that were issued before number `id` and have not
started, with the numbers of the commands. -/
def State.unstarted (s : State) (id : Nat) : List (Nat × Extent) :=
  let ks := s.me.bte ++ s.me.join.inbox ++ s.me.suspended.map (·.cmd)
  (ks.filter fun k => decide (k.id < id)).flatMap fun k =>
    match k.instr? with
    | some i => (destExtents i (s.peekDesc k i) s.me.join).map fun x => (k.id, x)
    | none => []

/-- The numbers of the commands whose unpublished ranges meet some source ranges of a command (11 R220). -/
def State.holders (s : State) (k : Cmd) (sources : List Extent) : List Nat :=
  let pending : List (Nat × Extent) :=
    (s.me.ranges.filter fun r => r.cmd != k.id).map (fun r => (r.cmd, (r.start, r.len))) ++ s.unstarted k.id
  (pending.filter fun y => sources.any fun x => Extent.meets x y.2).map (·.1)

/-- Whether a command is held: a source range overlaps a range that is not yet published (11 R220). -/
def State.held (s : State) (k : Cmd) (sources : List Extent) : Bool := !(s.holders k sources).isEmpty

/-- The device with the command now performed held. -/
def State.heldBy (s : State) (h : Hold) : State := { s with journal := { s.journal with hold := h } }

/-- A command goes on unless a source range is pending. -/
def State.notHeld (s : State) (k : Cmd) (sources : List Extent) : Except Stop Unit :=
  if s.held k sources then .error (.pause (s.heldBy (.ranges sources))) else .ok ()

/-- A pending range recorded for a command, once; a seventeenth holds it (11 R220). -/
def State.track (s : State) (k : Cmd) (x : Extent) : Except Stop State :=
  if x.2 = 0 || s.me.ranges.any (fun r => r.cmd == k.id) then .ok s
  else if Config.maxPendingRanges ≤ s.me.ranges.length then .error (.pause (s.heldBy .full))
  else .ok (s.mapMe fun c => { c with ranges := c.ranges ++ [{ cmd := k.id, start := x.1, len := x.2 }] })

/-! ## Starting a command (15 R321) -/

/-- The focused core with the descriptor of a command kept, so that it is read once. -/
def State.keepDesc (s : State) (k : Cmd) (d : List Byte) : State :=
  match packetBox k.packet with
  | some b => s.mapMe fun c => c.mapInbox b fun q => q.map fun x => if x.id = k.id then { x with desc := some d } else x
  | none => s

/-- Steps 3 and 4: the descriptor is read once and its references' kinds are checked. A command without a
descriptor gets no bytes. -/
def State.readDesc (s : State) (k : Cmd) (i : Instr) : Except Stop (State × List Byte) :=
  match extAddr i, k.desc with
  | none, _ => .ok (s, [])
  | some _, some d => .ok (s, d)
  | some va, none => do
    require s (va % 64 == 0) .illegalCmd 3 (some 0)
    s.notHeld k [(va, 64)]
    let (s, d) ← s.readMem (s.agentOf k) 3 0 va 64
    match badKind d (descRefs i) with
    | some off => .error (.fault s .illegalCmd 3 (some off))
    | none => .ok (s.keepDesc k d, d)

/-- Step 5 for fields given as conditions with their OFFSETs. -/
def checkFields (s : State) (checks : List (Bool × Nat)) : Except Stop Unit :=
  match firstBad checks with
  | some off => .error (.fault s .illegalCmd 3 (some off))
  | none => .ok ()

/-- The zero fields of a descriptor's references, then other fields. -/
def checkDesc (s : State) (i : Instr) (d : List Byte) (checks : List (Bool × Nat)) : Except Stop Unit :=
  match badRef d (descRefs i) with
  | some off => .error (.fault s .illegalCmd 3 (some off))
  | none => checkFields s checks

/-! ## Shadow writes (11 R218) -/

/-- A set of shadow writes of the focused core kept until its publish. -/
def State.addShadow (s : State) (x : Shadow) : State :=
  { s with shadows := s.shadows ++ [{ x with id := s.nextShadow }], nextShadow := s.nextShadow + 1 }

/-- A shadow of a command with nothing after its publish but a completion. -/
def State.shadowOf (s : State) (k : Cmd) (scope : Scope) (runs : List Run) (x : Extent) (done : Option Completion) : Shadow :=
  { id := 0, core := s.cur, owner := k.owner, cmd := k.id, isJoin := false, scope := scope, runs := runs, start := x.1,
    len := x.2, completion := done, followOn := none, leaf := none }

/-- The error that ends a set of writes of a core, or of the hub: its code and the offset of its first byte (01 R9, R11). -/
def State.runsError (s : State) (c : Option CoreNum) (off : Nat) : List Run → Option (Code × Nat)
  | [] => none
  | r :: rest =>
    match s.accessError c r.tgt r.bytes.length true with
    | some (e, i) => some (e, off + i)
    | none => s.runsError c (off + r.bytes.length) rest

/-- The writes of a shadow made visible in one step. -/
def State.applyRuns (s : State) (rs : List Run) : State :=
  (rs.foldl (fun s r => s.writeTarget r.tgt r.bytes) s).watchPhases

end Sys2Proof.Machine
end

