-- ==== Sys2Proof/Machine/Sha256.lean ====
section
/-!
DEFINITION. SHA-256 (08 R157, R158; 02 R41, R42), after FIPS 180-4, which the manual names by its title only
(notes/assumptions/25.md). The constants are computed from their definition there, the first bits of the fractions of roots of
primes, and a hash is held as two sequences of words, each with its last four members.
-/
namespace Sys2Proof.Machine

/-- A 32-bit word of the hash. -/
abbrev HWord := BitVec 32

/-! ## Constants -/

/-- The primes up to 311, the sixty-fourth. -/
def hashPrimes : List Nat :=
  (upTo 312).filter fun n => decide (2 ≤ n) && (upTo 18).all fun d => decide (d < 2) || decide (n < d * d) || n % d != 0

/-- The greatest number above `r` by less than 2 ^ bits whose power is at most `n`. -/
def rootFrom (power n r : Nat) : Nat → Nat
  | 0 => r
  | bits + 1 => rootFrom power n (if (r + 2 ^ bits) ^ power ≤ n then r + 2 ^ bits else r) bits

/-- The first 32 bits of the fraction of the square or cube root of a number below 512. -/
def rootFraction (power p : Nat) : HWord := BitVec.ofNat 32 (rootFrom power (p * 2 ^ (32 * power)) 0 37)

/-! ## One block -/

/-- A hash, or the working variables of its computation: the last four words of each of the two sequences, newest first. -/
structure HashState where
  upper : List HWord
  lower : List HWord
  deriving DecidableEq, Repr

/-- Three rotations of a word added without carry. -/
def spin (x : HWord) (i j k : Nat) : HWord := x.rotateRight i ^^^ (x.rotateRight j ^^^ x.rotateRight k)

/-- Two rotations and a shift of a word added without carry. -/
def slide (x : HWord) (i j k : Nat) : HWord := x.rotateRight i ^^^ (x.rotateRight j ^^^ x >>> k)

/-- The word that enters the window of the sixteen latest words of a block's schedule, oldest first. -/
def windowNext (w : List HWord) : HWord :=
  let at_ (k : Nat) : HWord := getAt w k 0
  slide (at_ 14) 17 19 10 + slide (at_ 1) 7 18 3 + (at_ 9 + at_ 0)

/-- What a round adds to both sequences, from the variables and the sum of its constant and its schedule word. -/
def HashState.feedIn (h : HashState) (kw : HWord) : HashState :=
  let u (k : Nat) : HWord := getAt h.upper k 0
  let l (k : Nat) : HWord := getAt h.lower k 0
  let chosen := l 2 ^^^ (l 0 &&& (l 1 ^^^ l 2))
  let common := (u 0 &&& (u 1 ||| u 2)) ||| (u 1 &&& u 2)
  let sum := kw + l 3 + chosen + spin (l 0) 6 11 25
  { upper := (sum + common + spin (u 0) 2 13 22) :: h.upper.take 3, lower := (sum + u 3) :: h.lower.take 3 }

/-- The word of four bytes, the first the most significant. -/
def beWord (bs : List Byte) : HWord := BitVec.ofNat 32 (natOf bs.reverse)

/-- A block of 64 bytes taken into a hash: one round for each prime, the window moving on by a word. -/
def HashState.block (h : HashState) (bs : List Byte) : HashState :=
  let start := (upTo 16).map fun k => beWord ((bs.drop (4 * k)).take 4)
  let last := (hashPrimes.foldl (fun (x : HashState × List HWord) p =>
    (x.1.feedIn (rootFraction 3 p + getAt x.2 0 0), x.2.drop 1 ++ [windowNext x.2])) (h, start)).1
  { upper := List.zipWith (· + ·) h.upper last.upper, lower := List.zipWith (· + ·) h.lower last.lower }

/-! ## A message -/

/-- The hash of no block, from the square roots of the first eight primes. -/
def HashState.initial : HashState :=
  let ws := (hashPrimes.take 8).map (rootFraction 2)
  { upper := ws.take 4, lower := ws.drop 4 }

/-- A message with its padding: a one bit, zeros, and its length in bits as eight bytes, to whole blocks. -/
def padded (m : List Byte) : List Byte :=
  m ++ 0x80 :: (List.replicate ((119 - m.length % 64) % 64) 0 ++ (bytesOf (8 * m.length) 8).reverse)

/-- The 32 bytes of the hash of a message. -/
def sha256 (m : List Byte) : List Byte :=
  let p := padded m
  let h := (upTo (p.length / 64)).foldl (fun h k => HashState.block h ((p.drop (64 * k)).take 64)) HashState.initial
  (h.upper ++ h.lower).flatMap fun w => (bytesOf w.toNat 4).reverse

end Sys2Proof.Machine
end

