-- ==== Sys2Proof/Machine/Boot.lean ====
section
/-!
DEFINITION. Module reset (01 R21), the boot ROM (02 R41), the device information (02 R40), and what a module is with its
main side down.
-/
namespace Sys2Proof.Machine

/-! ## Device information (02 R40) -/

/-- The device identifier, or 0xFFFF_FFFF. -/
def State.devidBytes (s : State) : List Byte :=
  bytesOf (match s.hub.devid with | some d => d.toNat | none => 0xFFFFFFFF) 4

/-- The down-link mask: scale-out ports, which stay down until an identifier is written (01 R14), CXL ports, lanes. -/
def State.downMask (s : State) : Nat :=
  (if s.hub.devid.isSome then s.hub.portsDown.toNat else 0xFFFF) + s.hub.cxlDown.toNat * 2 ^ 16
    + (!s.hub.lane0.up).toNat * 2 ^ 20 + (!s.hub.lane1.up).toNat * 2 ^ 21

/-- Clusters that the part has. -/
def Chip.clusters (c : Chip) : BitVec 80 := ~~~ c.fused

/-- The 32 bytes of device information. -/
def State.deviceInfo (s : State) : List Byte :=
  [BitVec.ofNat 8 s.chip.gradeB.toNat, 0]
    ++ bytesOf (8 * ((upTo 80).filter fun k => bit s.chip.clusters k).length) 2 ++ s.devidBytes
    ++ bytesOf (Config.firmwareVersion s.mgmt.running).toNat 4 ++ bytesOf s.downMask 3 ++ [0]
    ++ bytesOf s.chip.clusters.toNat 10 ++ List.replicate 6 0

/-! ## The main side down -/

/-- A control lane that is not trained. -/
def LaneState.dark : LaneState := { LaneState.reset with up := false }

/-- The module with everything but its management domain in reset, at a step of the sequence: HBM is lost, the tier's
devices keep their contents, and what has left the device has left it (notes/assumptions/35.md). The count of clk begins
anew (13 Table INT-6 CYCLE). -/
def State.dark (s : State) (step : BitVec 4) : State :=
  let old := s.hub
  { State.reset with
    chip := s.chip, sched := s.sched, freeIx := s.freeIx
    mem := s.mem.filter fun c => isTier c.1
    encBy := s.encBy.filter fun e => isTier e.1
    hub := { Hub.reset with
      ready := false, lane0 := LaneState.dark, lane1 := LaneState.dark, sent := old.sent, frames := old.frames
      slowStops := old.slowStops, queueMemory := old.queueMemory, tierMap := old.tierMap + 1, remoteOut := old.remoteOut
      remoteWrites := old.remoteWrites, nextSerial := old.nextSerial }
    mgmt := { s.mgmt with ready := false, fwok := false, trip := 0, step := step } }

/-! ## The boot ROM (02 R41, R43) -/

/-- A flash slot; `true` is B. -/
def Mgmt.slot (m : Mgmt) (b : Bool) : List Byte := if b then m.flashB else m.flashA
/-- A flash slot written. -/
def Mgmt.setSlot (m : Mgmt) (b : Bool) (i : List Byte) : Mgmt := if b then { m with flashB := i } else { m with flashA := i }

/-- The staged image: as far as the last byte stored. -/
def Mgmt.stagedImage (m : Mgmt) : List Byte :=
  match m.staging.getLast? with
  | none => []
  | some c => (upTo (c.1 + 1)).map fun k => (assocGet m.staging k).getD (Config.unstagedByte k)

/-- Whether the boot ROM accepts an image (02 R41): the key that its header names hashes to one of the four fused
hashes, that key's fuse is intact, the signature verifies over the digest of header and body, and the rollback number
is no less than the fused counter. -/
def imageAccepted (i : List Byte) : Bool :=
  ((List.range 4).any fun k => sha256 (Config.imageKey i) == Config.fusedKeyHash k && Config.keyIntact k)
    && Config.rsaPssVerifies (Config.imageKey i) (sha256 (Config.imageSigned i)) (Config.imageSignature i)
    && decide (Config.rollbackCounter.toNat ≤ Config.imageRollback i)

/-- The images that the accepted hub image verifies before step 4, in load order (02 R41; the order by
notes/assumptions/9.md). -/
def otherImages : List (List Byte) := [Config.dieFirmware, Config.mapperImage]

/-- Measurement M1 (02 R41). -/
def measurementM1 : List Byte := sha256 otherImages.flatten

/-- The management domain after a staging is consumed: the staged image stands in the slot that is not primary, and the
order record names it when the ROM accepts it. -/
def Mgmt.consumeSwap (m : Mgmt) : Mgmt :=
  if !m.fwswap then m
  else
    let i := m.stagedImage
    let n := !m.primaryB
    { m.setSlot n i with fwswap := false, primaryB := if imageAccepted i then n else m.primaryB }

/-- Step 3: the slots tried in order, primary first; the flag says whether one was accepted. -/
def Mgmt.boot (m : Mgmt) : Mgmt × Bool :=
  let m := m.consumeSwap
  match [m.primaryB, !m.primaryB].find? fun b => imageAccepted (m.slot b) with
  | some b => ({ m with fwok := true, fwslot := b, running := m.slot b }, true)
  | none => (m, false)

/-! ## The sequence of Table PKG-6 -/

/-- A step now running. -/
def State.atStep (s : State) (n : BitVec 4) : State := { s with mgmt := { s.mgmt with step := n } }

/-- A fault record whose fields no rule states. -/
def State.openRecord (s : State) : FaultRecord × State :=
  let (a, s) := s.anyCode
  let (b, s) := s.anyWord
  let (c, s) := s.anyWord
  ({ FaultRecord.blank s with code := a.toByte, val0 := b, val1 := c }, s)

/-- Whether some control lane is up. -/
def Hub.anyLane (h : Hub) : Bool := h.lane0.up || h.lane1.up

/-- A step that fails: the sequence stops, the fault log records it, and the host hears of it when a lane is up. -/
def State.failReset (s : State) (n : BitVec 4) : State :=
  let s : State := { s with mgmt := { s.mgmt with step := n, failstep := n } }
  let (r, s) := s.openRecord
  if s.hub.anyLane then s.report .fault none true r else { s with mgmt := s.mgmt.logRecord r }

/-- Steps 6 to 8 of the sequence: links trained, clusters idle, READY sent. -/
def State.finishReset (s : State) (r : ResetOutcome) : State :=
  let s : State := { s with
    hub := { s.hub with cxlDown := r.cxlDown, portsDown := r.portsDown
                        lane0 := { LaneState.reset with up := !bit r.lanesDown 0 }
                        lane1 := { LaneState.reset with up := !bit r.lanesDown 1 } } }
  if r.failStep = some 6 ∨ r.lanesDown = 3 then s.failReset 6
  else if r.failStep = some 7 then s.failReset 7
  else if r.failStep = some 8 then s.failReset 8
  else
    let s : State := { s with
      hub := { s.hub with ready := true }, mgmt := { s.mgmt with step := 8, ready := true } }
    s.post (laneOf none) { type := .ready, tag := 0, pdk := none, payload := s.deviceInfo, record := none }

/-- The whole sequence from step 1, as far as the environment lets it run. The images that the hub image verifies
before step 4 count as part of step 3 (notes/assumptions/9.md). -/
def State.runReset (s : State) (r : ResetOutcome) : State :=
  let s := s.dark 1
  if s.mgmt.hold || !s.mgmt.standby then s
  else if r.failStep = some 1 then s.failReset 1
  else if !s.mgmt.main then s.atStep 2
  else if r.failStep = some 2 then s.failReset 2
  else
    let (m, ok) := s.mgmt.boot
    let s : State := { s with mgmt := m }
    if !ok ∨ !otherImages.all imageAccepted ∨ r.failStep = some 3 then s.failReset 3
    else if r.failStep = some 4 then s.failReset 4
    else if r.failStep = some 5 then s.failReset 5
    else s.finishReset r

/-- MODULE_RESET. -/
def execModuleReset (r : ResetOutcome) (s : State) : Out := .next (s.runReset r)

/-! ## Power (01 R16, R21; 02 R43) -/

/-- The management domain as standby power finds it: its flash is kept (02 R41). -/
def Mgmt.cold (m : Mgmt) : Mgmt :=
  { m with
    main := false, ready := false, fwok := false, fwslot := false, step := 1, failstep := 0, trip := 0, warn := 0
    hold := false, fwstage := false, fwswap := false, sensidx := 0, fwaddr := 0, staging := [], running := []
    log := [], logLost := 0, logRest := [], readData := 0, samples := [] }

/-- STANDBY_POWER_GOOD: the management domain runs, its registers at their reset values. -/
def execStandbyPowerGood (s : State) : Out :=
  .next (if s.mgmt.standby then s else { s with mgmt := { s.mgmt.cold with standby := true } })

/-- MAIN_POWER_GOOD: MAINPWR sets, and the sequence stands at step 2 unless it is held. -/
def execMainPowerGood (s : State) : Out :=
  .next
    (if s.mgmt.standby && !s.mgmt.main then
       { s with mgmt := { s.mgmt with main := true, step := if s.mgmt.hold then 1 else 2 } }
     else s)

/-- MAIN_POWER_LOSS: the main side is down, and the management domain keeps the last samples. -/
def execMainPowerLoss (s : State) : Out :=
  .next
    (if s.mgmt.main then
       let s := s.dark (if s.mgmt.hold then 1 else 2)
       { s with mgmt := { s.mgmt with main := false } }
     else s)

/-- STANDBY_POWER_LOSS: the management domain ends with its fault log, and the module is down. -/
def execStandbyPowerLoss (s : State) : Out :=
  .next
    (if s.mgmt.standby then
       let s := s.dark 1
       { s with mgmt := { s.mgmt.cold with standby := false } }
     else s)

end Sys2Proof.Machine
end

