-- ==== Sys2Proof/Machine/Commands.lean ====
section
/-!
DEFINITION. CMD and CMDM (14 R311, 15 R319), INSTQ (14 R314), and the two ways in which a command's effects come
about after it has run: the completion that fills its token (15 R320) and the publish of its shadow writes (11 R218
to R220, 10 R204, 03 R59, R60).
-/
namespace Sys2Proof.Machine

/-! ## Issue (14 R311) -/

/-- The packet with the part that CMDM names replaced. -/
def substitute (p : Packet) (slot : CmdSlot) (b : Word) : Packet :=
  match slot with
  | .low48 => (field p 48 80 : BitVec 80) ++ (field b 0 48 : BitVec 48)
  | .high48 => (field p 96 32 : BitVec 32) ++ (field b 0 48 : BitVec 48) ++ (field p 0 48 : BitVec 48)
  | .low32 => (field p 32 96 : BitVec 96) ++ (field b 0 32 : BitVec 32)

/-- The packet in sixteen little-endian bytes (12 R225). -/
def packetOf (bs : List Byte) : Packet := BitVec.ofNat 128 (natOf bs)

/-- The registers that a packet claims: its token and a COPY's FTOK (15 R332). -/
def packetTokens (p : Packet) : List Reg :=
  let tok : Reg := field p 108 6
  let ftok : Reg := field p 96 6
  if pktOp p = 0x40 ∧ field p 48 48 ≠ 0 then [tok, ftok] else [tok]

/-- The wait of an instruction whose inbox is full (04 Table SCH-7 kind 10): the opcode's group (12 Table ENC-7) and
the inbox. -/
def boxBlock (p : Packet) (b : Box) : Block :=
  { okind := 10, detail := BitVec.ofNat 8 (pktOp p / 16 * 16), object := BitVec.ofNat 48 (boxUnit b) }

/-- Whether the task's earlier stores and atomics are acknowledged (11 R208 rule 6). -/
def State.storesDone (s : State) : Bool :=
  (s.me.pipe.stores.all fun x => x.owner != s.here) && s.me.pipe.atomics.all fun x => x.owner != s.here

/-- The command of a packet that the running task issues. -/
def State.newCmd (s : State) (p : Packet) : Cmd :=
  { id := s.me.pipe.nextId, addr := s.pc, packet := p, owner := s.here, priv := s.priv, tok := field p 108 6 }

/-- A command handed over: to its inbox, or, where no engine takes it, straight to a completion with ILLEGAL_CMD
(05 R87) or where its header is bad (12 R240). -/
def State.handOver (s : State) (k : Cmd) : State :=
  match packetBox k.packet with
  | none => s.refuse k .illegalCmd 3 (some 120)
  | some b =>
    if b.isTileBox && !s.isTileTask then
      s.refuse k .illegalCmd 3 (if b = .join then none else some 120)
    else
      match headerCheck k.packet with
      | some (.header off) => s.refuse k .illegalCmd 3 (some off)
      | _ =>
      let s := if b.isTileBox then s else s.passHorizon
      s.mapMe fun c => c.mapInbox b (· ++ [k])

/-- Whether a packet's inbox has room. -/
def State.hasRoom (s : State) (p : Packet) : Bool :=
  match packetBox p with
  | some b => (b.isTileBox && !s.isTileTask) || decide ((s.me.inbox b).length < boxCapacity b)
  | none => true

/-- A packet issued: its tokens are claimed and marked empty, and it goes to its inbox once there is room. -/
def State.issue (s : State) (p : Packet) : Out :=
  match s.claim (packetTokens p) with
  | .wait b => s.stall b
  | .empty n => s.trap .emptySrc (n.setWidth 64) 0
  | .ok =>
    if !s.hasRoom p then s.stall (match packetBox p with | some b => boxBlock p b | none => Block.unit)
    else
      let k := s.newCmd p
      let s := s.mapPipe fun q => { q with nextId := q.nextId + 1 }
      (((packetTokens p).foldl State.setEmpty s).handOver k).done

/-- The form of CMD and CMDM: the packet is read once, changed as `edit` says and issued once the task's earlier
stores and atomics are acknowledged. -/
def State.cmdForm (s : State) (srcs : List (Reg × Bool)) (sa : Reg) (edit : Packet → Packet) : Out :=
  s.withOps srcs [] <| s.afterAcquire <|
    if (s.reg sa).toNat % 16 ≠ 0 then s.trap .misalign (s.reg sa) 16
    else
      s.withTarget (s.reg sa) 16 (Acc.read s.priv) fun s' t =>
        if !s'.storesDone || s'.overlapLoad t 16 then s'.stall Block.unit
        else s'.withRead (s.reg sa) t 16 fun s' => (s'.afterRead t).issue (edit (packetOf (s'.readTarget t 16)))

/-- CMD. -/
def execCmd (o : SOps) (s : State) : Out := s.cmdForm [(o.sa, o.ea)] o.sa id

/-- CMDM. -/
def execCmdm (o : PairOps) (slot : CmdSlot) (s : State) : Out :=
  s.cmdForm [(o.sa, o.ea), (o.sb, o.eb)] o.sa fun p => substitute p slot (s.reg o.sb)

/-! ## INSTQ (14 R314) -/

/-- The value of INSTQ. A record that RUNQ runs is no tile task and has run no configuration: the last count is its
caller's. -/
def Core.instq (c : Core) : Word :=
  match c.fabric.config with
  | some g => BitVec.ofNat 64 (g.instant % 2 ^ 48 + 2 ^ 63)
  | none => if c.callers.isEmpty then BitVec.ofNat 64 (c.fabric.lastCount % 2 ^ 48) else 0

/-- INSTQ. -/
def execInstq (sd : Reg) (s : State) : Out := s.withOps [] [sd] (s.put sd s.me.instq).done

/-! ## Completions (15 R320, 03 R58) -/

/-- A completion delivered on the focused core: the token fills for the task that issued the command, and a fault
without a token goes to the supervisor with the command's address. -/
def State.deliver (s : State) (x : Completion) : State :=
  if x.tok ≠ 0 then s.fillTask s.cur x.owner x.tok x.word
  else
    let (w, s) := s.anyWord
    s.raiseFor s.cur x.owner { code := x.code, val0 := w, val1 := x.word, sup := true } (some x.addr)

/-- COMMAND_COMPLETION. -/
def execCommandCompletion (core : CoreNum) (id : Nat) (s : State) : Out :=
  .next (s.onCore core fun s =>
    match takeFirst (fun (x : Completion) => x.id == id) s.me.done with
    | some (x, rest) => (s.mapMe fun c => { c with done := rest }).deliver x
    | none => s)

/-! ## Publishing (11 R218 to R220) -/

/-- The suspended commands of a core for a page of a Paddock returned to the front of their inboxes, and its port
commands and MEM elements that wait for the page released (03 R59, 16 R367). -/
def Core.resumePage (c : Core) (p : PdkNum) (start len : Nat) : Core :=
  let due (owner : PdkNum) (va : BitVec 48) : Bool := owner == p && decide (start ≤ va.toNat ∧ va.toNat < start + len)
  let on (x : Suspended) : Bool := due x.cmd.owner.pdk x.va
  let c := (c.suspended.filter on).reverse.foldl (fun c x => c.mapInbox x.box (x.cmd :: ·)) c
  let wakeElem (pdk : PdkNum) (e : ElemState) : ElemState :=
    if e.waitTier.any (due pdk) then { e with waitTier := none } else e
  let wakePort (p : Port) : Port :=
    { p with run := p.run.map fun r => if r.tier.any (due r.cmd.owner.pdk) then { r with tier := none } else r }
  { c with
    suspended := c.suspended.filter fun x => !on x
    fabric := { c.fabric with
      ingress := c.fabric.ingress.map wakePort
      egress := c.fabric.egress.map wakePort
      config := c.fabric.config.map fun g => { g with elems := g.elems.map (wakeElem g.owner.pdk) } } }

/-- Everything of a Paddock that waits for a page resumed. -/
def State.resumePage (s : State) (p : PdkNum) (start len : Nat) : State :=
  let due (m : McastRun) : Bool :=
    m.cmd.owner.pdk == p && m.tier.any fun va => decide (start ≤ va.toNat ∧ va.toNat < start + len)
  let s : State := { s with mcasts := s.mcasts.map fun m => if due m then { m with tier := none } else m }
  s.liveCores.foldl (fun s e => s.modCore e.2 fun c => c.resumePage p start len) s

/-- A set of shadow writes made visible, its pending range freed. -/
def State.publishRuns (s : State) (x : Shadow) : State :=
  (s.applyRuns x.runs).modCore x.core fun c => { c with ranges := c.ranges.filter fun r => r.cmd != x.cmd }

/-- The publish of a set of shadow writes: one that meets an error publishes nothing and ends its command with it (01 R9,
R11), and a PAGEIN whose leaf entry has changed publishes nothing and reports the page as already resident (03 R60). The
completion as it now stands is answered as well. -/
def State.publishShadow (s : State) (x : Shadow) : State × Option Completion :=
  match s.runsError (some x.core) 0 x.runs with
  | some (c, off) =>
    (s.publishRuns { x with runs := [] }, x.completion.map fun k => { k with code := c, word := tokenWord c 2 off })
  | none =>
  match x.leaf with
  | none => (s.publishRuns x, x.completion)
  | some l =>
    if s.read8 l.pa = l.old then
      let s := s.publishRuns x
      let s := s.writePhysBytes none l.pa (bytesOf l.new.toNat 8)
      (s.resumePage x.owner.pdk x.start x.len, x.completion)
    else
      (s.publishRuns { x with runs := [] }, x.completion.map fun k => { k with word := tokenWord .none 1 0 })

/-- What becomes of a follow-on join after the publish (10 R204). -/
inductive FollowOn where
  | accepted (s : State)
  | refused
  | waits

/-- A follow-on offered to the join inbox of the focused core, which takes it for the tile task that issued the
COPY. -/
def State.offer (s : State) (k : Cmd) : FollowOn :=
  if !(s.runsOn s.cur k.owner && s.isTileTask) then .refused
  else if s.me.join.inbox.length < boxCapacity .join then
    let k := { k with id := s.me.pipe.nextId }
    .accepted ((s.mapPipe fun p => { p with nextId := p.nextId + 1 }).mapMe fun c => c.mapInbox .join (· ++ [k]))
  else .waits

/-- A set of shadow writes taken out of the list. -/
def State.dropShadow (s : State) (id : Nat) : State := { s with shadows := s.shadows.filter fun x => x.id != id }

/-- The end of a published set on its core: the follow-on is delivered and the completion follows; a follow-on that
finds the inbox full keeps the set, its writes done, until there is room. A COPY that has failed leaves its fault word
in both tokens (10 R204). -/
def State.endShadow (s : State) (x : Shadow) (done : Option Completion) : State :=
  let finishAll (s : State) (cs : List Completion) : State := cs.foldl (fun s k => s.finish s.cur k) s
  match x.followOn with
  | none => finishAll (s.dropShadow x.id) done.toList
  | some k =>
    match done.filter fun c => c.code != .none with
    | some c => finishAll (s.dropShadow x.id) (c :: if k.tok = 0 then [] else [k.ends c.code c.word])
    | none =>
    match s.offer k with
    | .accepted s => finishAll (s.dropShadow x.id) done.toList
    | .waits =>
      { s with shadows := s.shadows.map fun y => if y.id = x.id then { y with runs := [], len := 0, leaf := none } else y }
    | .refused =>
      let (w, s) := s.anyWord
      let word := tokenWord .illegalCmd 3 w.toNat
      finishAll (s.dropShadow x.id)
        ((done.toList.map fun c => { c with code := .illegalCmd, word := word })
          ++ (if k.tok = 0 then [] else [k.ends .illegalCmd word]))

/-- SHADOW_PUBLISH: the writes of a BTE or remote command become visible in one step, once no read stands in the way (11
R219). The writes of joins wait for the task's commit or a PUBLISH (10 R181). -/
def execShadowPublish (id : Nat) (s : State) : Out :=
  .next
    (match s.shadows.find? fun x => x.id == id with
     | some x =>
       if x.isJoin || s.splits x.runs then s
       else
         s.onCore x.core fun s =>
           let (s, done) := s.publishShadow x
           s.endShadow x done
     | none => s)

end Sys2Proof.Machine
end

