-- ==== Sys2Proof/Machine/Consumes.lean ====
section
/-!
DEFINITION. Consuming reads as an engine makes them (06 R106 to R108), the messages between a reader and the home core
of a tile (06 R110), and the join power tokens of a die (05 R98).
-/
namespace Sys2Proof.Machine

/-! ## Admission -/

/-- Whether a reader on the focused core may consume a tile: its home core is the Paddock's and stands in the reader's
cluster (06 R108). -/
def State.nearHome (s : State) (pdk : PdkNum) (h : BitVec 32) : Bool :=
  match s.paddock? pdk with
  | some p => s.homeOk p h && clusterIx (handleCore h) == clusterIx s.cur
  | none => false

/-- A consume added to the focused core. -/
def State.addConsume (s : State) (x : Consume) : State := s.mapMe fun c => { c with consumes := c.consumes ++ [x] }

/-- The consume of a reader on the focused core. -/
def State.consumeOf (s : State) (cmd operand : Nat) (h : BitVec 32) : Option Consume :=
  s.me.consumes.find? fun x => x.cmd == cmd && x.operand == operand && x.handle == h

/-- What a reader's request for admission meets. -/
inductive Admitted where
  | ok (s : State)
  | waits (s : State)
  | fault (s : State) (code : Code) (reason : Option Nat)

/-- A consume that is admitted and has not been read. -/
def Consume.new (cmd operand : Nat) (h : BitVec 32) (byConfig : Bool) : Consume :=
  { handle := h, cmd := cmd, operand := operand, admitted := true, failed := none, passed := false, byConfig := byConfig }

/-- The admission of a consuming read: at once on the reader's own core, by message and answer on another. -/
def State.admitRead (s : State) (pdk : PdkNum) (cmd operand : Nat) (h : BitVec 32) (byConfig : Bool) : Admitted :=
  match s.consumeOf cmd operand h with
  | some x =>
    match x.failed with
    | some (code, reason) => .fault s code (some reason)
    | none => if x.admitted then .ok s else .waits s
  | none =>
    let x := Consume.new cmd operand h byConfig
    if !s.nearHome pdk h then .fault s .perm none
    else if handleCore h = s.cur then
      match s.me.loft.admission h with
      | .done l => .ok ((s.mapMe fun c => { c with loft := l }).addConsume x)
      | .fault code reason => .fault s code (some reason)
    else .waits ((s.sendTile .admission s.cur (handleCore h) h cmd operand).addConsume { x with admitted := false })

/-- The admission of a command's operand. -/
def State.admitOperand (s : State) (k : Cmd) (h : BitVec 32) (operand : Nat) (byConfig : Bool) : Except Stop State :=
  match s.admitRead k.owner.pdk k.id operand h byConfig with
  | .ok s => .ok s
  | .waits s => .error (.pause s)
  | .fault s code reason => .error (.fault s code operand reason)

/-- The passes of a reader on the focused core complete (06 R106). -/
def State.passReads (s : State) (cmd : Nat) : State :=
  s.mapMe fun c => { c with consumes := c.consumes.map fun x => if x.cmd = cmd then { x with passed := true } else x }

/-- The granules of the tile that a handle names, 0 when it is gone. -/
def State.tileGranules (s : State) (h : BitVec 32) : Nat :=
  match (s.loftAt (handleCore h)).current? h with | some t => t.granules.length | none => 0

/-- `n` bytes of an admitted tile from an offset on; the first byte beyond its granules, if one is asked for. -/
def State.readTile (s : State) (h : BitVec 32) (off n : Nat) : Except Nat (List Byte) :=
  let size := 4096 * s.tileGranules h
  if n = 0 ∨ off + n ≤ size then .ok ((s.loftAt (handleCore h)).readBytes (handleSlot h) off n)
  else .error (max off size)

/-! ## Tile messages (06 R110) -/

/-- Whether two messages travel between the same cores in the same direction. -/
def TileMsg.sameWay (a b : TileMsg) : Bool := a.reader == b.reader && a.home == b.home && a.isAnswer == b.isAnswer

/-- A message that is the first of its way: messages arrive in the order sent. -/
def State.firstMsg (s : State) (id : Nat) : Option TileMsg :=
  (s.tileMsgs.find? fun m => m.id == id).bind fun m =>
    match s.tileMsgs.find? fun x => x.sameWay m with
    | some x => if x.id = id then some m else none
    | none => none

/-- A message taken out of the list. -/
def State.dropMsg (s : State) (id : Nat) : State := { s with tileMsgs := s.tileMsgs.filter fun m => m.id != id }

/-- A message that arrives, when it is of the kind asked for. -/
def State.arrive (s : State) (id : Nat) (p : TileMsgKind → Bool) (go : State → TileMsg → State) : Out :=
  .next
    (match s.firstMsg id with
     | some m => if p m.kind then go (s.dropMsg id) m else s
     | none => s)

/-- TILE_ADMISSION: an admission reaches the home core and is answered (06 Table LFT-2). -/
def execTileAdmission (id : Nat) (s : State) : Out :=
  s.arrive id (· == .admission) fun s m =>
    match (s.loftAt m.home).admission m.handle with
    | .done l => (s.modLoft m.home fun _ => l).sendTile (.answer true .none 0) m.reader m.home m.handle m.cmd m.operand
    | .fault code reason => s.sendTile (.answer false code reason) m.reader m.home m.handle m.cmd m.operand

/-- TILE_COUNT: a count reaches the home core. -/
def execTileCount (id : Nat) (s : State) : Out :=
  s.arrive id (· == .count) fun s m => s.modLoft m.home (·.count m.handle)

/-- HELD_RELEASE: a release of an admitted read reaches the home core. -/
def execHeldRelease (id : Nat) (s : State) : Out :=
  s.arrive id (· == .release) fun s m => s.modLoft m.home (·.unhold m.handle)

/-- Whether a consume is the one that an answer is for. -/
def Consume.awaits (x : Consume) (m : TileMsg) : Bool :=
  x.cmd == m.cmd && x.operand == m.operand && x.handle == m.handle && !x.admitted && x.failed.isNone

/-- A consume with its answer. -/
def Consume.answered (x : Consume) (m : TileMsg) (ok : Bool) (code : Code) (reason : Nat) : Consume :=
  if x.awaits m then (if ok then { x with admitted := true } else { x with failed := some (code, reason) }) else x

/-- ADMISSION_ANSWER: the reader's pass may begin, or its read faults; an admission that nobody waits for any more is
released (06 R106). -/
def execAdmissionAnswer (id : Nat) (s : State) : Out :=
  s.arrive id (fun k => match k with | .answer _ _ _ => true | _ => false) fun s m =>
    match m.kind with
    | .answer ok code reason =>
      if (s.coreAt m.reader).consumes.any fun x => x.awaits m then
        s.modCore m.reader fun c => { c with consumes := c.consumes.map fun x => x.answered m ok code reason }
      else if ok then s.sendTile .release m.reader m.home m.handle 0 0
      else s
    | _ => s

/-! ## Join power tokens (05 R98) -/

/-- Whether a core's join engine waits for a token. -/
def State.awaitsToken (s : State) (c : CoreNum) : Bool := (s.coreAt c).join.power == .waiting

/-- A token given to the join engine of a core. -/
def State.giveToken (s : State) (c : CoreNum) : State :=
  s.modCore c fun k => { k with join := { k.join with power := .holding s.clk } }

/-- The core of a station: die, cluster and number within the cluster. -/
def stationCore (d : DieNum) (station n : Nat) : CoreNum := coreOnDie d (8 * station + n)

/-- A station serves its waiting engines, beginning after the core served last; none while JTOK is 0. -/
def State.serveStation (s : State) (d : DieNum) (station : Nat) : State :=
  let last := getAt (s.die d).lastServed station 7
  ((upTo 8).map fun k => (last + 1 + k) % 8).foldl (fun s n =>
    let c := stationCore d station n
    if s.awaitsToken c && decide (0 < getAt (s.die d).ring station 0 ∧ 0 < (s.die d).jtok) then
      (s.giveToken c).modDie d fun x =>
        { x with ring := updAt x.ring station (· - 1), lastServed := updAt x.lastServed station fun _ => n }
    else s) s

/-- The clk in which the engines of a die that still wait are counted (10 Table JON-3 TOKWAIT). -/
def State.countTokenWaits (s : State) (d : DieNum) : State :=
  s.liveCores.foldl (fun s e =>
    if dieOf e.2 = d ∧ s.awaitsToken e.2 then
      s.modCore e.2 fun k => { k with join := { k.join with tokwait := satAdd32 k.join.tokwait 1 } }
    else s) s

/-- The tokens at each station moved to the next one, with wrap. -/
def rotateRing (ring : List Nat) : List Nat := ring.drop (ring.length - 1) ++ ring.take (ring.length - 1)

/-- The ring of a die in its next clk: the tokens move, and those released join their stations. -/
def Die.turnRing (d : Die) : Die :=
  { d with ring := d.released.foldl (fun r k => updAt r k (· + 1)) (rotateRing d.ring), released := [] }

/-- TOKEN_RING_CLK: tokens move and stations serve. -/
def execTokenRingClk (die : DieNum) (s : State) : Out :=
  .next
    (let s := s.modDie die Die.turnRing
     ((upTo 20).foldl (fun s k => s.serveStation die k) s).countTokenWaits die)

/-- TOKEN_HOLD_EXPIRY: a burst that has kept its token for 4,096 clk releases it and waits for another (10 R203). -/
def execTokenHoldExpiry (core : CoreNum) (s : State) : Out :=
  .next
    (match (s.coreAt core).join.power with
     | .holding since =>
       if since + Config.tokenHoldLimit ≤ s.clk then
         (s.releasePower core).modCore core fun k => { k with join := { k.join with power := .waiting } }
       else s
     | _ => s)

/-- Sum of the Paddocks' shares on a die. -/
def State.shares (s : State) (d : DieNum) : Nat := (s.paddocks.map fun p => getAt p.desc.draw d.toNat 0).sum

/-- JTOK: the token count of a die written in hub MMIO (05 Table COR-6). New tokens stand at station 0; those that are too
many retire as they are released (05 R98). -/
def execJtok (die : DieNum) (value : Word) (s : State) : Out :=
  .next
    (let n := min (field value 0 8).toNat 160
     if (s.die die).pool < s.shares die + 7 * n then s
     else s.modDie die fun x =>
       { x with jtok := n, live := max n x.live, ring := updAt x.ring 0 (· + (n - x.live)) })

end Sys2Proof.Machine
end

