-- ==== Sys2Proof/Machine/Control.lean ====
section
/-!
DEFINITION. Branches, jumps and counted loops (13 R267 to R273).
-/
namespace Sys2Proof.Machine

/-- The target of a B or J form (12 R231). -/
def relTarget {n : Nat} (pc : Word) (off : BitVec n) : Word := pc + sextTo64 off * 4

/-- A conditional branch (13 R267). -/
def State.branch (s : State) (o : BOps) (cond : Word → Word → Bool) : Out :=
  s.withOps [(o.sa, o.ea), (o.sb, o.eb)] []
    (if cond (s.reg o.sa) (s.reg o.sb) then .next (s.jump (relTarget s.pc o.off) true) else s.done)

/-- BEQ. -/
def execBeq (o : BOps) (s : State) : Out := s.branch o fun a b => a == b
/-- BNE. -/
def execBne (o : BOps) (s : State) : Out := s.branch o fun a b => a != b
/-- BLT. -/
def execBlt (o : BOps) (s : State) : Out := s.branch o fun a b => a.slt b
/-- BGE. -/
def execBge (o : BOps) (s : State) : Out := s.branch o fun a b => !a.slt b
/-- BLTU. -/
def execBltu (o : BOps) (s : State) : Out := s.branch o fun a b => decide (a < b)
/-- BGEU. -/
def execBgeu (o : BOps) (s : State) : Out := s.branch o fun a b => !decide (a < b)

/-- JMP (13 R268). -/
def execJmp (off : BitVec 24) (s : State) : Out := .next (s.jump (relTarget s.pc off) true)

/-- The link register, s62 (12 R227). -/
def linkReg : Reg := 62

/-- JAL (13 R268). -/
def execJal (off : BitVec 24) (s : State) : Out :=
  s.withOps [] [linkReg] (.next ((s.put linkReg (s.pc + 4)).jump (relTarget s.pc off) false))

/-- The target of JR and JALR (13 R269). -/
def State.indirect (s : State) (sa : Reg) (imm : BitVec 11) : Word := s.reg sa + sextTo64 imm * 4

/-- JR (13 R269). -/
def execJr (o : SOps) (imm : BitVec 11) (s : State) : Out :=
  s.withOps [(o.sa, o.ea)] []
    (let t := s.indirect o.sa imm
     if t.toNat % 4 ≠ 0 then s.trap .misalign t 4 else .next (s.jump t true))

/-- JALR (13 R269). -/
def execJalr (o : IOps) (s : State) : Out :=
  s.withOps [(o.sa, o.ea)] [o.sd]
    (let t := s.indirect o.sa o.imm
     if t.toNat % 4 ≠ 0 then s.trap .misalign t 4 else .next ((s.put o.sd (s.pc + 4)).jump t false))

/-- LOOP (13 R271). -/
def execLoop (o : SOps) (last : BitVec 17) (s : State) : Out :=
  s.withOps [(o.sa, o.ea)] []
    (let pc := s.pc
     let word := (encode (.loop o last)).setWidth 64
     let last := pc + zextTo64 last * 4
     let loops := s.me.seq.loops
     if loops.length = 4 then s.illegal word 0x10
     else if (loops.head?.any fun e => e.holds pc && decide (e.last < last)) then s.illegal word 0x11
     else if s.reg o.sa = 0 then .next (s.jump (last + 4) false)
     else
       (s.mapSeq fun q => { q with loops := { start := pc + 4, last := last, count := s.reg o.sa } :: loops }).done)

end Sys2Proof.Machine
end

