-- ==== Sys2Proof/Machine/Join.lean ====
section
/-!
DEFINITION. The join engine and the Corral (10 R180 to R205; 07 R132 to R134; 15 R329, R330; 18 R377): products and their
rounding, probing and spilling, the accumulating commands, drains, peeks, clears and the arming of a spill area.
-/
namespace Sys2Proof.Machine

/-! ## Accumulation (07 R132 Table FMT-8) -/

/-- The accumulator format of an AFMT code (15 Table CMD-5). -/
def accFmt (a : BitVec 2) : Fmt := match a.toNat with | 0 => Fmt.fp32 | 1 => Fmt.fp16 | _ => Fmt.bf16

/-- An exact sum or product as an accumulator code, with the sticky flags that the rounding sets: OVF bit 0, SAT bit 1,
NANS bit 2. A wide format overflows to an infinity, a narrow one saturates, under every rounding mode. -/
def accRound (a : BitVec 2) (rm : Rounding) (x : Num) : Nat × BitVec 3 :=
  let f := accFmt a
  let top (neg : Bool) : Nat := if a = 0 then f.withSign neg (f.infCode.getD 0) else f.withSign neg f.maxCode
  match x with
  | .nan => (f.nanCode, 4)
  | .inf neg => (top neg, if a = 0 then 0 else 2)
  | .fin neg 0 _ => (f.withSign neg 0, 0)
  | .fin neg m e =>
    let c := (f.roundCode rm neg m e).1
    if f.maxCode < c then (top neg, if a = 0 then 1 else 2) else (f.withSign neg c, 0)

/-- A product on its way to the Corral: its exact value and the flags it brings. -/
abbrev Product := Num × BitVec 3

/-- One level of the tree of R183: neighbours are added with one rounding each, an odd member passes up. -/
def pairUp (a : BitVec 2) (rm : Rounding) : List Product → List Product
  | x :: y :: rest =>
    let (c, fl) := accRound a rm (x.1.add y.1 rm)
    ((accFmt a).decode c, x.2 ||| y.2 ||| fl) :: pairUp a rm rest
  | l => l

/-- The root of the tree over products of one key (10 R183); the first argument bounds the levels. -/
def combine (a : BitVec 2) (rm : Rounding) : Nat → List Product → Product
  | _, [] => (Num.zero, 0)
  | _, [x] => x
  | 0, x :: _ => x
  | n + 1, l => combine a rm n (pairUp a rm l)

/-- A product added to an entry, or inserted as the first of its entry. -/
def CorralEntry.add (e : CorralEntry) (a : BitVec 2) (rm : Rounding) (x : Product) : CorralEntry :=
  let (c, fl) := accRound a rm (((accFmt a).decode e.value.toNat).add x.1 rm)
  let fl := fl ||| x.2
  { e with value := BitVec.ofNat 32 c, ovf := e.ovf || bit fl 0, sat := e.sat || bit fl 1, nans := e.nans || bit fl 2 }

/-- The entry that a product makes at an empty slot (10 R182). -/
def CorralEntry.first (key : BitVec 48) (a : BitVec 2) (rm : Rounding) (x : Product) : CorralEntry :=
  let (c, fl) := accRound a rm x.1
  let fl := fl ||| x.2
  { key := key, value := BitVec.ofNat 32 c, ovf := bit fl 0, sat := bit fl 1, nans := bit fl 2 }

/-- The flags of an entry as a token and a record carry them (10 R201, 07 Table FMT-9). -/
def CorralEntry.flags (e : CorralEntry) : BitVec 3 := BitVec.ofBool e.nans ++ BitVec.ofBool e.sat ++ BitVec.ofBool e.ovf

/-- The record of an entry (07 Table FMT-9). -/
def CorralEntry.record (e : CorralEntry) (a : BitVec 2) : List Byte :=
  bytesOf e.key.toNat 8 ++ bytesOf e.value.toNat 4 ++ [e.flags.setWidth 8, a.setWidth 8, 0, 0]

/-! ## Keys and windows (10 R191, R192) -/

/-- KEY of a result coordinate. -/
def corralKey (i j : Nat) : BitVec 48 := BitVec.ofNat 24 i ++ BitVec.ofNat 24 j

/-- Bank and home slot of a key. -/
def corralHome (key : BitVec 48) : Nat × Nat :=
  let h := ((key.setWidth 64 : Word) * 0x9E3779B97F4A7C15) >>> 49
  ((field h 9 6).toNat, (field h 0 9).toNat)

/-- The flat slots of a key's window, in probe order. -/
def corralWindow (key : BitVec 48) : List Nat :=
  let (bank, home) := corralHome key
  (upTo 8).map fun k => bank + 64 * ((home + k) % 512)

/-- The slot at which a probe stops: occupied by the key, or free. -/
def Join.probe (j : Join) (key : BitVec 48) : Option Nat :=
  (corralWindow key).find? fun slot => match assocGet j.entries slot with | some e => e.key == key | none => true

/-! ## A command that accumulates -/

/-- Products of one key that one clk brings (10 R183). -/
abbrev ProductGroup := BitVec 48 × List Product

/-- An accumulating command under way: the device (whose own Corral is as it stood when the command started), the
Corral so far, the spill writes, the flags and the count of R201, the clk, and the groups that wait for their banks, by
product index (10 R192). -/
structure Burst where
  s : State
  k : Cmd
  rm : Rounding
  j : Join
  runs : List Run
  flags : BitVec 3
  count : Nat
  clk : Nat
  waiting : List ProductGroup

/-- The start of a command on the focused core: it sets MODE and AFMT of an EMPTY Corral (10 R180). -/
def Burst.start (s : State) (k : Cmd) (m : CorralMode) (afmt : BitVec 2) (rm : Rounding) : Burst :=
  let j := s.me.join
  { s := s, k := k, rm := rm, j := if j.mode = .empty then { j with mode := m, afmt := afmt } else j, runs := [], flags := 0,
    count := 0, clk := 0, waiting := [] }

/-- Whether a slot is read in the clk of a scan's slot numbers from `lo` to below `hi`, 64 slots per clk (10 R195). -/
def scannedIn (lo hi slot : Nat) : Bool := decide (lo ≤ slot / 64 ∧ slot / 64 < hi)

/-- A scan that has read every slot number below `n`. -/
def Peek.through (p : Peek) (j : Join) (n : Nat) : Peek :=
  let n := max p.next (min n 512)
  { p with next := n, seen := p.seen ++ (j.entries.filter fun e => scannedIn p.next n e.1).map (·.2) }

/-- The device with what a JPEEK beside the command has read once it has read every slot number below `n`. -/
def State.peeked (s : State) (j : Join) (n : Peek → Nat) : State :=
  { s with journal := { s.journal with peek := s.journal.peek.map fun p => p.through j (n p) } }

/-- A command at the start of a clk: a JPEEK beside it reads before the clk adds anything (10 R199). -/
def Burst.scan (b : Burst) : Burst := { b with s := b.s.peeked b.j fun p => ((b.clk : Int) + 1 - p.start).toNat }

/-- The scope of the level of a command's task. -/
def State.scopeFor (s : State) (o : Owner) : Scope :=
  match s.paddock? o.pdk, s.record? o with
  | some p, some r => p.levelScope r.group r.level
  | _, _ => .core

/-- Shadow writes of a join command, published by its task's commit or by a PUBLISH (10 R181). -/
def State.joinShadow (s : State) (k : Cmd) (runs : List Run) (x : Extent) : Except Stop State := do
  if runs.isEmpty then .ok s
  else
    let s ← s.track k x
    .ok (s.addShadow { s.shadowOf k (s.scopeFor k.owner) runs x none with isJoin := true })

/-- The device with what a command has folded and spilled so far; a Corral in which nothing has been folded stays EMPTY (18
R379). A command whose spills find no pending range free folds nothing yet. -/
def Burst.close (b : Burst) : Except Stop State := do
  let from_ := b.s.me.join
  let n := b.j.spillCount.toNat - from_.spillCount.toNat
  let s := b.s.peeked b.j fun _ => 512
  let s ← s.joinShadow b.k b.runs (from_.spillBase.toNat + 16 * from_.spillCount.toNat, 16 * n)
  .ok (s.mapMe fun c => { c with join := if b.j.entries.isEmpty then { b.j with mode := from_.mode } else b.j })

/-- A command that stops with a fault at once: what it has folded stays. -/
def Burst.halt (b : Burst) (code : Code) (operand : Nat) (off : Option Nat) : Stop :=
  match b.close with
  | .ok s => .fault s code operand off
  | .error e => e

/-- A command that stops as one of its reads or writes says, where a fault ends in `fault`: anything else leaves the
Corral as it stood, and the command comes back to where it is by the accesses that it has made. -/
def Burst.stopBy (b : Burst) (fault : Code → Nat → Option Nat → Stop) : Stop → Stop
  | .fault _ code operand off => fault code operand off
  | .tier s f => .tier (s.peeked b.j fun _ => 512) f
  | .pause s => .pause (s.peeked b.j fun _ => 512)
  | .wait => .pause (b.s.peeked b.j fun _ => 512)

/-- A command needs its power token before its first product (10 R203): without one it waits. -/
def Burst.power (b : Burst) : Except Stop Unit :=
  match b.s.me.join.power with
  | .holding _ => .ok ()
  | _ =>
    .error (.pause ((b.s.peeked b.j fun _ => 512).mapMe fun c => { c with join := { c.join with power := .waiting } }))

/-- A group written to the spill area (10 R194). -/
def Burst.spill (b : Burst) (key : BitVec 48) (x : Product) : Except Stop Burst := do
  let j := b.j
  if j.spillCap ≤ j.spillCount then .error (b.halt .corralSpillFull 3 (some (16 * j.spillCap.toNat)))
  else
    let off := 16 * j.spillCount.toNat
    let e := CorralEntry.first key j.afmt b.rm x
    let (s, rs) ← (b.s.spanMem (b.s.keeperOf b.k) 3 off (j.spillBase.toNat + off) (e.record j.afmt)).mapError
      (b.stopBy b.halt)
    .ok { b with
      s := s
      j := { j with spillCount := j.spillCount + 1, spills := satAdd32 j.spills 1 }
      runs := b.runs ++ rs, flags := b.flags ||| e.flags }

/-- A group taken by its bank (10 R192): a hit adds, a miss inserts, a full window spills. -/
def Burst.group (b : Burst) (key : BitVec 48) (ps : List Product) : Except Stop Burst := do
  let x := combine b.j.afmt b.rm ps.length ps
  let b := { b with j := { b.j with probes := satAdd32 b.j.probes 1 } }
  let b ← match b.j.probe key with
    | none => b.spill key x
    | some slot =>
      match assocGet b.j.entries slot with
      | some e =>
        let e := e.add b.j.afmt b.rm x
        .ok { b with j := { b.j with entries := insertAt b.j.entries slot e, hits := satAdd32 b.j.hits 1 },
                     flags := b.flags ||| e.flags }
      | none =>
        let e := CorralEntry.first key b.j.afmt b.rm x
        .ok { b with j := { b.j with entries := insertAt b.j.entries slot e, inserts := satAdd32 b.j.inserts 1 },
                     flags := b.flags ||| e.flags }
  .ok { b with count := b.count + ps.length }

/-- Products grouped by key, the groups in ascending order of their lowest product index. -/
def groupByKey (ps : List (BitVec 48 × Product)) : List ProductGroup :=
  ps.foldl (fun gs p => assocSet gs p.1 ((assocGet gs p.1).getD [] ++ [p.2])) []

/-- Groups folded one after another. -/
def Burst.groups (b : Burst) : List ProductGroup → Except Stop Burst
  | [] => .ok b
  | g :: rest =>
    match b.group g.1 g.2 with
    | .ok b => b.groups rest
    | .error e => .error e

/-- The groups that the banks take in one clk, each bank the first that targets it, and those that wait on (10 R192). -/
def bankTakes (gs : List ProductGroup) : List ProductGroup × List ProductGroup :=
  (gs.foldl (fun (x : List Nat × List ProductGroup × List ProductGroup) g =>
    let bank := (corralHome g.1).1
    if x.1.contains bank then (x.1, x.2.1, x.2.2 ++ [g]) else (bank :: x.1, x.2.1 ++ [g], x.2.2)) ([], [], [])).2

/-- A clk of the probe stage: the banks take what they can, and each group left waits one clk more. -/
def Burst.tick (b : Burst) : Except Stop Burst :=
  let (now, later) := bankTakes b.waiting
  let b := b.scan
  ({ b with waiting := later, clk := b.clk + 1, j := { b.j with bankwait := satAdd32 b.j.bankwait later.length } } : Burst).groups
    now

/-- The clk in which the groups that still wait are taken; the first argument bounds them. -/
def Burst.flush (b : Burst) : Nat → Except Stop Burst
  | 0 => .ok b
  | n + 1 =>
    if b.waiting.isEmpty then .ok b
    else
      match b.tick with
      | .ok b => b.flush n
      | .error e => .error e

/-- A command that stops with a fault: the products that it has emitted are folded, and stay. -/
def Burst.fault (b : Burst) (code : Code) (operand : Nat) (off : Option Nat) : Stop :=
  match b.flush b.waiting.length with
  | .ok b => b.halt code operand off
  | .error (.fault s _ _ _) => .fault s code operand off
  | .error e => e

/-- A command that stops as one of its reads or writes says. -/
def Burst.stop (b : Burst) (e : Stop) : Stop := b.stopBy b.fault e

/-- A read or write of a command under way. -/
def Burst.try_ {α : Type} (b : Burst) (r : Eng α) : Except Stop (Burst × α) :=
  match r with
  | .ok (s, x) => .ok ({ b with s := s }, x)
  | .error e => .error (b.stop e)

/-- The products of one clk sent to their banks (10 R183, R192). -/
def Burst.emit (b : Burst) (ps : List (BitVec 48 × Product)) : Except Stop Burst := do
  b.power
  ({ b with waiting := b.waiting ++ groupByKey ps } : Burst).tick

/-- Products emitted 64 per clk in their order; the first argument bounds the clk. -/
def Burst.emitAll (b : Burst) : Nat → List (BitVec 48 × Product) → Except Stop Burst
  | 0, _ => .ok b
  | n + 1, ps =>
    if ps.isEmpty then .ok b
    else
      match b.emit (ps.take 64) with
      | .ok b => b.emitAll n (ps.drop 64)
      | .error e => .error e

/-! ## How a join command starts and ends -/

/-- The check of R180: an accumulating command must agree with a Corral that is not EMPTY. -/
def State.joinMode (s : State) (m : CorralMode) (afmt : BitVec 2) : Except Stop Unit :=
  let j := s.me.join
  require s (j.mode == .empty || (j.mode == m && j.afmt == afmt)) .illegalCmd 3 none

/-- The combinations of R182: FP32 operands need an FP32 accumulator. -/
def fmtPairs (f : JoinFmt) : Bool := f.fmt != 0 || f.afmt == 0

/-- The places of a join command at the egress ports of the focused core given back, and what its PORT sources took
dropped. -/
def State.leavePorts (s : State) (id : Nat) : State :=
  let leave (p : Port) : Port :=
    { p with queue := p.queue.filter fun k => !(k.id == id)
             run := if p.run.any fun r => r.target == .join && r.cmd.id == id then none else p.run }
  s.mapMe fun c =>
    { c with fabric := { c.fabric with egress := c.fabric.egress.map leave }
             join := { c.join with portReads := [], portFail := none } }

/-- An accumulating command that leaves the engine: its token of R201 fills, its passes are complete, its power token
and its ports are given back. -/
def Burst.finish (b : Burst) : Except Stop State := do
  let b ← b.flush b.waiting.length
  let s ← b.close
  let s := ((s.popBox .join).passReads b.k.id).releasePower s.cur
  .ok ((s.leavePorts b.k.id).succeed b.k b.flags.toNat b.count)

/-- Whether a command accumulates: the drains, peeks, clears and armings hold no token and no port (05 R98). -/
def Cmd.accumulates (k : Cmd) : Bool := decide (0x20 ≤ pktOp k.packet ∧ pktOp k.packet ≤ 0x23)

/-- A join command that faults: its admissions and its ports are released; the range of what it had spilled stays. -/
def State.settleJoin (s : State) (k : Cmd) (r : Except Stop State) : State :=
  match r with
  | .error (.fault s' code operand off) =>
    let s := s'.popBox .join
    let s := if s.shadows.any fun x => x.core == s.cur && x.cmd == k.id then s.dropConsumes s.cur fun x => x.cmd == k.id
      else s.dropWork k.id
    ((if k.accumulates then (s.releasePower s.cur).leavePorts k.id else s).refuse k code operand off).putDown
  | r => s.settle .join k r

/-! ## Sources (10 R190) -/

/-- The range that a source reads, for the check of R220; a tile stands at its aperture addresses. -/
def State.sourceExtent (s : State) : Ref → Nat → Extent
  | .mem va, n => (va, n)
  | .tile h, _ => ((apertureOf h).toNat, 4096 * s.tileGranules h)
  | .port _, _ => (0, 0)

/-- A source opened: a tile is admitted, a PORT has its place taken elsewhere. -/
def State.openSource (s : State) (k : Cmd) (r : Ref) (operand : Nat) : Except Stop State :=
  match r with
  | .tile h => s.admitOperand k h operand false
  | _ => .ok s

/-- `n` bytes of a source from an offset on. -/
def State.readSource (s : State) (k : Cmd) (r : Ref) (operand off n : Nat) : Eng (List Byte) :=
  match r with
  | .mem va => s.readMem (s.keeperOf k) operand off (va + off) n
  | .tile h =>
    match s.readTile h off n with
    | .ok bs => .ok (s, bs)
    | .error at_ => .error (.fault s .tileSize operand (some at_))
  | .port _ => .ok (s, [])

/-- Bytes of a source read by a command under way. -/
def Burst.read (b : Burst) (r : Ref) (operand off n : Nat) : Except Stop (Burst × List Byte) :=
  b.try_ (b.s.readSource b.k r operand off n)

/-- Bytes of a value of a format, 1 for binary8. -/
def fmtSize (f : JoinFmt) : Nat := match f.fmt.toNat with | 0 => 4 | 1 | 2 => 2 | _ => 1

/-- Bytes of `n` values, in whole blocks for NB16 (07 R125). -/
def fmtRowBytes (f : JoinFmt) (n : Nat) : Nat := if f.fmt = 6 then 18 * ((n + 15) / 16) else fmtSize f * n

/-- Value `i` of a row. -/
def fmtValueAt (f : JoinFmt) (row : List Byte) (i : Nat) : Num :=
  if f.fmt = 6 then nb16Decode f.var (sliceBytes row (18 * (i / 16)) 18) (i % 16)
  else
    match wordFmt f.fmt.toNat f.var with
    | some w => w.decode (natAt row (fmtSize f * i) (fmtSize f))
    | none => .nan

/-! ## JDENSE (10 R184) -/

/-- Clk of one step (10 Table JON-1). -/
def stepClk (f : JoinFmt) : Nat := match f.fmt.toNat with | 0 => 16 | 1 | 2 => 4 | _ => 1

/-- A product that goes to a slot, whatever key the slot holds. -/
def Burst.dense (b : Burst) (slot : Nat) (key : BitVec 48) (x : Num) : Burst :=
  match assocGet b.j.entries slot with
  | some e =>
    let e := e.add b.j.afmt b.rm (x, 0)
    { b with j := { b.j with entries := insertAt b.j.entries slot e }, flags := b.flags ||| e.flags, count := b.count + 1 }
  | none =>
    let e := CorralEntry.first key b.j.afmt b.rm (x, 0)
    { b with j := { b.j with entries := insertAt b.j.entries slot e, inserts := satAdd32 b.j.inserts 1 },
             flags := b.flags ||| e.flags, count := b.count + 1 }

/-- What a JDENSE names. -/
structure DenseArgs where
  f : JoinFmt
  m : Nat
  n : Nat
  base : Nat
  a : Ref
  b : Ref
  ioff : Nat
  joff : Nat

/-- One step: row k of A times row k of B. -/
def Burst.denseStep (b : Burst) (g : DenseArgs) (ra rb : List Byte) : Burst :=
  (upTo g.m).foldl (fun b i => (upTo g.n).foldl (fun b j =>
    b.dense (g.base + i * g.n + j) (corralKey (g.ioff + i) (g.joff + j)) ((fmtValueAt g.f ra i).mul (fmtValueAt g.f rb j))) b) b

/-- The steps from k on; the first argument counts those left. -/
def Burst.denseSteps (b : Burst) (g : DenseArgs) (k : Nat) : Nat → Except Stop Burst
  | 0 => .ok b
  | n + 1 => do
    let (b, ra) ← b.read g.a 0 (k * fmtRowBytes g.f g.m) (fmtRowBytes g.f g.m)
    let (b, rb) ← b.read g.b 1 (k * fmtRowBytes g.f g.n) (fmtRowBytes g.f g.n)
    b.power
    let b := ({ b with clk := b.clk + stepClk g.f - 1 } : Burst).scan
    ({ b.denseStep g ra rb with clk := b.clk + 1 } : Burst).denseSteps g (k + 1) n

/-- A JDENSE from its start to its end. -/
def State.startJdense (s : State) (k : Cmd) (i : Instr) (f : JoinFmt) (m n base : Nat) : Except Stop State := do
  let (s, d) ← s.readDesc k i
  checkDesc s i d [(descZero d 23 1, descOff 23 0), (descZero d 27 1, descOff 27 0), (descZero d 28 36, descOff 28 0)]
  require s (fmtPairs f && decide (base + m * n ≤ 32768)) .illegalCmd 3 none
  s.joinMode .dense f.afmt
  let g : DenseArgs := { f := f, m := m, n := n, base := base, a := refOf (descWord d 0), b := refOf (descWord d 8),
                         ioff := natAt d 20 3, joff := natAt d 24 3 }
  let steps := natAt d 16 4
  let s ← s.openSource k g.a 0
  let s ← s.openSource k g.b 1
  s.notHeld k [s.sourceExtent g.a (steps * fmtRowBytes f m), s.sourceExtent g.b (steps * fmtRowBytes f n)]
  let b ← (Burst.start s k .dense f.afmt f.rm).denseSteps g 0 steps
  b.finish

/-- JDENSE. -/
def execJdense (tok : Reg) (f : JoinFmt) (m : BitVec 7) (n : BitVec 6) (base : BitVec 15) (ext : BitVec 48) (s : State) :
    Out :=
  let k := s.headCmd .join tok
  .next (s.settleJoin k ((s.resume k).startJdense k (.jdense tok f m n base ext) f (m.toNat + 1) (n.toNat + 1) base.toNat))

/-! ## JSPARSE (10 R186, R187) -/

/-- A tuple fibre: its source, operand number and count. -/
structure Fibre where
  src : Ref
  operand : Nat
  n : Nat

/-- A tuple: join key, outer coordinate, value. -/
structure Tuple where
  key : Nat
  outer : Nat
  value : Num

/-- What one tuple of a fibre reads as: a tuple, or why the command stops there. -/
def Burst.tuple (b : Burst) (f : JoinFmt) (x : Fibre) (i : Nat) (last : Option Nat) : Except Stop (Burst × Tuple) := do
  let (b, cs) ← b.read x.src x.operand (8 + 8 * i) 8
  let w := wordOf cs
  let key := (field w 0 32).toNat
  if field w 56 8 ≠ 0 then .error (b.fault .illegalCmd x.operand (some (8 + 8 * i)))
  else if last.any fun l => decide (key < l) then .error (b.fault .joinOrder x.operand (some (8 + 8 * i)))
  else
    let (at_, n) := if f.fmt = 6 then (18 * (i / 16), 18) else (fmtSize f * i, fmtSize f)
    let (b, vs) ← b.read x.src x.operand (8 + 8 * x.n + at_) n
    .ok (b, { key := key, outer := (field w 32 24).toNat, value := fmtValueAt f vs (if f.fmt = 6 then i % 16 else 0) })

/-- The rest of the run of tuples with one key, from index `i` on, and why the fibre stops after it, when it does. The
first argument bounds the run. -/
def Burst.runOf (b : Burst) (f : JoinFmt) (x : Fibre) (key i : Nat) : Nat → Burst × List Tuple × Option Stop
  | 0 => (b, [], none)
  | fuel + 1 =>
    if x.n ≤ i then (b, [], none)
    else
      match b.tuple f x i (some key) with
      | .error e => (b, [], some e)
      | .ok (b, t) =>
        if t.key ≠ key then (b, [], none)
        else
          let (b, ts, e) := b.runOf f x key (i + 1) fuel
          (b, t :: ts, e)

/-- The tuples below a key that the merge unit discards in one clk, from index `i` on; the last argument bounds them. -/
def Burst.skip (b : Burst) (f : JoinFmt) (x : Fibre) (key i : Nat) (last : Option Nat) :
    Nat → Except Stop (Burst × Nat × Option Nat)
  | 0 => .ok (b, i, last)
  | fuel + 1 => do
    if x.n ≤ i then .ok (b, i, last)
    else
      let (b, t) ← b.tuple f x i last
      if t.key < key then b.skip f x key (i + 1) (some t.key) fuel else .ok (b, i, last)

/-- The merge of two fibres from indices `i` and `j` on, with the keys before them (10 R186). The last argument bounds
the merge steps. -/
def Burst.merge (b : Burst) (f : JoinFmt) (x y : Fibre) (i j : Nat) (li lj : Option Nat) : Nat → Except Stop Burst
  | 0 => .ok b
  | fuel + 1 =>
    if x.n ≤ i ∨ y.n ≤ j then .ok b
    else do
      let (b, t) ← b.tuple f x i li
      let (b, u) ← b.tuple f y j lj
      if t.key < u.key then
        let (b, i, li) ← b.skip f x u.key i li 64
        let b ← b.tick
        b.merge f x y i j li lj fuel
      else if u.key < t.key then
        let (b, j, lj) ← b.skip f y t.key j lj 64
        let b ← b.tick
        b.merge f x y i j li lj fuel
      else
        let (b, ts, e) := b.runOf f x t.key (i + 1) (x.n - i)
        let (b, us, e') := b.runOf f y t.key (j + 1) (y.n - j)
        let ts := t :: ts
        let us := u :: us
        let ps : List (BitVec 48 × Product) :=
          ts.flatMap fun p => us.map fun q => (corralKey p.outer q.outer, (p.value.mul q.value, 0))
        let b ← b.emitAll ps.length ps
        match e.or e' with
        | some e => .error (b.stop e)
        | none => b.merge f x y (i + ts.length) (j + us.length) (some t.key) (some t.key) fuel

/-- The count of a fibre, whose first eight bytes are read. -/
def Burst.fibre (b : Burst) (src : Ref) (operand : Nat) : Except Stop (Burst × Fibre) := do
  let (b, bs) ← b.read src operand 0 8
  .ok (b, { src := src, operand := operand, n := natAt bs 0 4 })

/-- A JSPARSE from its start to its end. -/
def State.startJsparse (s : State) (k : Cmd) (i : Instr) (f : JoinFmt) : Except Stop State := do
  let (s, d) ← s.readDesc k i
  checkDesc s i d [(descZero d 16 48, descOff 16 0)]
  require s (fmtPairs f) .illegalCmd 3 none
  s.joinMode .hash f.afmt
  let ra := refOf (descWord d 0)
  let rb := refOf (descWord d 8)
  let s ← s.openSource k ra 0
  let s ← s.openSource k rb 1
  s.notHeld k [s.sourceExtent ra 8, s.sourceExtent rb 8]
  let (b, x) ← (Burst.start s k .hash f.afmt f.rm).fibre ra 0
  let (b, y) ← b.fibre rb 1
  b.s.notHeld k [b.s.sourceExtent ra (8 + 8 * x.n + fmtRowBytes f x.n), b.s.sourceExtent rb (8 + 8 * y.n + fmtRowBytes f y.n)]
  let b ← b.merge f x y 0 0 none none (x.n + y.n)
  b.finish

/-- JSPARSE. -/
def execJsparse (tok : Reg) (f : JoinFmt) (ext : BitVec 48) (s : State) : Out :=
  let k := s.headCmd .join tok
  .next (s.settleJoin k ((s.resume k).startJsparse k (.jsparse tok f ext) f))

/-! ## PORT sources (10 R190, 18 R377, 15 R322) -/

/-- Whether an egress port is used by the running configuration; a configuration that loads decides at instant 0. -/
def Fabric.egressUsed (f : Fabric) (p : BitVec 4) : Bool :=
  match f.config with
  | some c => (getAt c.image.egress p.toNat none).isSome
  | none => f.loading.isSome

/-- A join command's place at an egress port: with no place there yet it takes one, once the port's inbox has room. While it
waits there the test of 15 R322 holds for it as for the port's own commands. -/
def State.takePlace (s : State) (k : Cmd) (p : BitVec 4) : Except Stop State :=
  let b : Box := .egress p
  let waits := (s.me.inbox b).any fun x => x.id == k.id
  if (assocGet s.me.join.portReads p).isSome && (!waits || s.me.fabric.egressUsed p) then .ok s
  else if !s.me.fabric.egressUsed p then .error (.fault s .illegalCmd 3 (some 120))
  else if boxCapacity b ≤ (s.me.inbox b).length then .error (.pause s)
  else
    .ok (s.mapMe fun c =>
      let c := c.mapInbox b (· ++ [k])
      { c with join := { c.join with portReads := c.join.portReads ++ [(p, [])] } })

/-- The places of a command's PORT sources. -/
def State.takePlaces (s : State) (k : Cmd) : List Ref → Except Stop State
  | [] => .ok s
  | .port p :: rest => do
    let s ← s.takePlace k p
    s.takePlaces k rest
  | _ :: rest => s.takePlaces k rest

/-- What a PORT source has taken. -/
def State.taken (s : State) : Ref → List Item
  | .port p => (assocGet s.me.join.portReads p).getD []
  | _ => []

/-- A command that needs data which its port has not brought: it waits, or it ends as its port did. -/
def Burst.needs (b : Burst) : Stop :=
  match b.s.me.join.portFail with
  | some (code, off) => b.fault code 3 (some off)
  | none => .pause b.s

/-- The 128 bytes of an instant. -/
def Item.bytes (x : Item) : List Byte := bytesOf x.data.toNat 128

/-- The end-of-fibre marker taken from a port, whatever stands before it. -/
def Burst.endMarker (b : Burst) : List Item → Except Stop Burst
  | [] => .error b.needs
  | x :: rest => if x.marker.isSome then .ok b else b.endMarker rest

/-! ## JGATH (10 R188, 18 R377) -/

/-- What a JGATH names. -/
structure GathArgs where
  f : JoinFmt
  nb : Nat
  ka : Ref
  b : Ref
  rows : Nat
  stride : Nat
  irow : Nat
  joff : Nat

/-- The values of the instants of one row from a port, and what the port has beyond them; none before the row is
complete, and `some none` when a marker stands in it. -/
def rowItems (f : JoinFmt) : Nat → List Item → Option (Option (List Num × List Item))
  | 0, l => some (some ([], l))
  | _ + 1, [] => none
  | n + 1, x :: rest =>
    if x.marker.isSome then some none
    else
      match rowItems f n rest with
      | none => none
      | some none => some none
      | some (some (vs, l)) => some (some (((upTo 32).map fun k => fmtValueAt f (sliceBytes x.bytes (4 * k) (fmtSize f)) 0) ++ vs, l))

/-- The row of B for a tuple: index `t` in the fibre, coordinate `key`. `off` is the coordinate's byte offset, when it
has one. -/
def Burst.row (b : Burst) (g : GathArgs) (t key : Nat) (off : Option Nat) (pb : List Item) :
    Except Stop (Burst × List Num × List Item) :=
  match g.b with
  | .port _ =>
    match rowItems g.f ((g.nb + 31) / 32) pb with
    | none => .error b.needs
    | some none => .error (b.fault .illegalCmd 1 (some (8 * t)))
    | some (some (vs, rest)) => .ok (b, vs, rest)
  | src => do
    if g.rows ≤ key then .error (b.fault .indexRange 0 off)
    else
      let (b, bs) ← b.read src 1 (key * g.stride) (g.nb * fmtSize g.f)
      .ok (b, (upTo g.nb).map (fmtValueAt g.f bs), pb)

/-- The products of one tuple, in ascending j. -/
def GathArgs.products (g : GathArgs) (a : Num) (row : List Num) : List (BitVec 48 × Product) :=
  (upTo g.nb).map fun j => (corralKey g.irow (g.joff + j), (a.mul (getAt row j Num.zero), 0))

/-- The tuples of a fibre in memory or a tile from index `t` on; the last argument counts those left. `vo` is where the
values start. -/
def Burst.gathList (b : Burst) (g : GathArgs) (vo t : Nat) (pb : List Item) : Nat → Except Stop (Burst × List Item)
  | 0 => .ok (b, pb)
  | n + 1 => do
    let (b, cs) ← b.read g.ka 0 (8 + 4 * t) 4
    let (b, vs) ← b.read g.ka 0 (vo + fmtSize g.f * t) (fmtSize g.f)
    let (b, row, pb) ← b.row g t (natAt cs 0 4) (some (8 + 4 * t)) pb
    let b ← b.emitAll g.nb (g.products (fmtValueAt g.f vs 0) row)
    b.gathList g vo (t + 1) pb n

/-- The tuples of one instant that are no holes (16 R357). -/
def Item.tuples (x : Item) (f : JoinFmt) : List (Nat × Num) :=
  let bs := x.bytes
  ((upTo 16).map fun t => (natAt bs (8 * t) 4, fmtValueAt f (sliceBytes bs (8 * t + 4) (fmtSize f)) 0)).filter fun p =>
    p.1 != 0xFFFFFFFF

/-- Tuples taken from a port, one after another. -/
def Burst.gathTuples (b : Burst) (g : GathArgs) (t : Nat) (pb : List Item) :
    List (Nat × Num) → Except Stop (Burst × Nat × List Item)
  | [] => .ok (b, t, pb)
  | x :: rest => do
    let (b, row, pb) ← b.row g t x.1 none pb
    let b ← b.emitAll g.nb (g.products x.2 row)
    b.gathTuples g (t + 1) pb rest

/-- The instants of a fibre taken from a port, up to its marker. -/
def Burst.gathItems (b : Burst) (g : GathArgs) (t : Nat) (pb : List Item) : List Item → Except Stop (Burst × List Item)
  | [] => .error b.needs
  | x :: rest =>
    if x.marker.isSome then .ok (b, pb)
    else do
      let (b, t, pb) ← b.gathTuples g t pb (x.tuples g.f)
      b.gathItems g t pb rest

/-- The fibre of a JGATH in memory or a tile, its extent checked once its count is known. -/
def Burst.gathFibre (b : Burst) (g : GathArgs) : Except Stop (Burst × List Item) := do
  b.s.notHeld b.k [b.s.sourceExtent g.ka 8]
  let (b, bs) ← b.read g.ka 0 0 8
  let n := natAt bs 0 4
  let vo := (8 + 4 * n + 7) / 8 * 8
  b.s.notHeld b.k [b.s.sourceExtent g.ka (vo + fmtSize g.f * n)]
  b.gathList g vo 0 (b.s.taken g.b) n

/-- A JGATH from its start to its end. -/
def State.startJgath (s : State) (k : Cmd) (i : Instr) (f : JoinFmt) (nb : Nat) : Except Stop State := do
  let (s, d) ← s.readDesc k i
  checkDesc s i d [(natAt d 20 4 % fmtSize f == 0, descOff 20 0), (descZero d 27 1, descOff 27 0),
    (descZero d 31 33, descOff 31 0)]
  require s (fmtPairs f) .illegalCmd 3 none
  s.joinMode .hash f.afmt
  let g : GathArgs := { f := f, nb := nb, ka := refOf (descWord d 0), b := refOf (descWord d 8), rows := natAt d 16 4,
                        stride := natAt d 20 4, irow := natAt d 24 3, joff := natAt d 28 3 }
  let s ← s.openSource k g.ka 0
  let s ← s.openSource k g.b 1
  s.notHeld k [s.sourceExtent g.b (g.rows * g.stride)]
  let s ← s.takePlaces k [g.ka, g.b]
  let b := Burst.start s k .hash f.afmt f.rm
  let (b, pb) ← match g.ka with
    | .port _ => b.gathItems g 0 (s.taken g.b) (s.taken g.ka)
    | _ => b.gathFibre g
  let b ← match g.b with
    | .port _ => b.endMarker pb
    | _ => .ok b
  b.finish

/-- JGATH. -/
def execJgath (tok : Reg) (f : JoinFmt) (nb : BitVec 12) (ext : BitVec 48) (s : State) : Out :=
  let k := s.headCmd .join tok
  .next (s.settleJoin k ((s.resume k).startJgath k (.jgath tok f nb ext) f (nb.toNat + 1)))

/-! ## JFEED (10 R189) -/

/-- The product of an entry record, unless the record is refused. -/
def recordProduct (afmt : BitVec 2) (r : List Byte) : Option (BitVec 48 × Product) :=
  if natAt r 13 1 ≠ afmt.toNat ∨ natAt r 6 2 ≠ 0 then none
  else
    let f := accFmt afmt
    some (BitVec.ofNat 48 (natAt r 0 6), (f.decode (natAt r 8 (f.width / 8)), BitVec.ofNat 3 (natAt r 12 1)))

/-- The records of one clk, the first at byte `off`: those before a refused one are folded. -/
def Burst.feed (b : Burst) (afmt : BitVec 2) (rs : List (Nat × List Byte)) : Except Stop Burst := do
  let good := rs.takeWhile fun r => (recordProduct afmt r.2).isSome
  let ps := good.filterMap fun r => recordProduct afmt r.2
  let b ← if ps.isEmpty then .ok b else b.emit ps
  match (rs.drop good.length).head? with
  | some r => .error (b.fault .illegalCmd 0 (some r.1))
  | none => .ok b

/-- Records of a source in memory or a tile, 64 per clk, from record `r` on; the last argument bounds the clk. -/
def Burst.feedList (b : Burst) (afmt : BitVec 2) (src : Ref) (r count : Nat) : Nat → Except Stop Burst
  | 0 => .ok b
  | fuel + 1 => do
    if count ≤ r then .ok b
    else
      let m := min 64 (count - r)
      let (b, bs) ← b.read src 0 (16 * r) (16 * m)
      let b ← b.feed afmt ((upTo m).map fun k => (16 * (r + k), sliceBytes bs (16 * k) 16))
      b.feedList afmt src (r + m) count fuel

/-- The records of an instant that are no holes, with their places in the stream (16 R357). -/
def Item.records (x : Item) (n : Nat) : List (Nat × List Byte) :=
  ((upTo 8).map fun r => (128 * n + 16 * r, sliceBytes x.bytes (16 * r) 16)).filter fun r => r.2.any (· != 0xFF)

/-- Records taken from a port, up to the count and to the marker behind them. -/
def Burst.feedItems (b : Burst) (afmt : BitVec 2) (n left : Nat) : List Item → Except Stop Burst
  | [] => .error b.needs
  | x :: rest =>
    if x.marker.isSome then .ok b
    else do
      let rs := (x.records n).take left
      let b ← b.feed afmt rs
      b.feedItems afmt (n + 1) (left - rs.length) rest

/-- A JFEED from its start to its end. -/
def State.startJfeed (s : State) (k : Cmd) (src : Ref) (count : Nat) (afmt : BitVec 2) (rm : Rounding) :
    Except Stop State := do
  s.joinMode .hash afmt
  let s ← s.openSource k src 0
  s.notHeld k [s.sourceExtent src (16 * count)]
  let s ← s.takePlaces k [src]
  let b := Burst.start s k .hash afmt rm
  let b ← match src with
    | .port _ => b.feedItems afmt 0 count (s.taken src)
    | _ => b.feedList afmt src 0 count count
  b.finish

/-- JFEED. -/
def execJfeed (tok : Reg) (src : Word) (count : BitVec 32) (afmt : BitVec 2) (rm : Rounding) (s : State) : Out :=
  let k := s.headCmd .join tok
  .next (s.settleJoin k ((s.resume k).startJfeed k (refOf src) count.toNat afmt rm))

/-! ## Drains and peeks (10 R195 to R199) -/

/-- The entries in the order in which an unordered drain emits them. -/
def Join.scan (j : Join) : List CorralEntry := j.entries.map (·.2)

/-- An entry inserted behind those whose KEY is not larger. -/
def insertByKey (e : CorralEntry) : List CorralEntry → List CorralEntry
  | [] => [e]
  | x :: rest => if e.key < x.key then e :: x :: rest else x :: insertByKey e rest

/-- The entries in the order of a drain: ascending KEY, among equal keys ascending flat slot, when it is ordered. -/
def Join.emission (j : Join) (ordered : Bool) : List CorralEntry :=
  if ordered then j.scan.foldl (fun l e => insertByKey e l) [] else j.scan

/-- The flags of R201 over entries that are emitted. -/
def flagsOf (es : List CorralEntry) : BitVec 3 := es.foldl (fun f e => f ||| e.flags) 0

/-- The Corral emptied (10 R180, R200). -/
def Join.clear (j : Join) : Join := { j with entries := [], mode := .empty }

/-- The records of entries written from an address on, and the command's end; `after` is the Corral left behind. -/
def State.writeRecords (s : State) (k : Cmd) (addr : Nat) (afmt : BitVec 2) (es : List CorralEntry) (after : Join → Join) :
    Except Stop State := do
  let (s, rs) ← s.spanMem (s.keeperOf k) 2 0 addr (es.flatMap fun e => e.record afmt)
  let s ← s.joinShadow k rs (addr, 16 * es.length)
  let s := (s.popBox .join).mapMe fun c => { c with join := after c.join }
  .ok (s.succeed k (flagsOf es).toNat es.length)

/-- What the descriptor of a DENSE drain names (15 Table CMD-6). -/
structure BlockArgs where
  addr : Nat
  rows : Nat
  cols : Nat
  ld : Nat
  ioff : Nat
  joff : Nat
  fmtd : BitVec 16
  zfill : Bool

/-- The fields of a DENSE drain's descriptor. -/
def blockArgs (d : List Byte) : BlockArgs :=
  { addr := natAt d 0 6, rows := natAt d 8 4, cols := natAt d 12 4, ld := natAt d 16 4, ioff := natAt d 20 3,
    joff := natAt d 24 3, fmtd := BitVec.ofNat 16 (natAt d 28 2), zfill := natAt d 30 1 % 2 == 1 }

/-- The target format of a format descriptor (12 Table ENC-10): a word format with the reserved bits zero, and a variant
only where the code uses one. -/
def descFmt (v : BitVec 16) : Option AnyFmt :=
  let code := (field v 0 4).toNat
  let var : BitVec 5 := field v 4 5
  if field v 12 4 ≠ 0 then none
  else if code = 4 then (if var.toNat < 4 then none else wordFmt code var)
  else if var ≠ 0 then none
  else wordFmt code var

/-- The checks on a DENSE drain's descriptor (15 R330). -/
def blockChecks (d : List Byte) : List (Bool × Nat) :=
  let a := blockArgs d
  let size := match descFmt a.fmtd with | some f => f.bytes | none => 1
  [(a.addr % size == 0, descOff 0 0), (descZero d 6 2, descOff 0 48),
    (decide (1 ≤ a.rows ∧ a.rows ≤ 2 ^ 24), descOff 8 0), (decide (1 ≤ a.cols ∧ a.cols ≤ 2 ^ 24), descOff 12 0),
    (decide (a.cols ≤ a.ld), descOff 16 0), (descZero d 23 1, descOff 23 0), (descZero d 27 1, descOff 27 0),
    ((descFmt a.fmtd).isSome, descOff 28 0), (decide (natAt d 30 1 < 2), descOff 30 1), (descZero d 31 33, descOff 31 0)]

/-- The place of an entry in a block, if it lies inside. -/
def BlockArgs.place (a : BlockArgs) (e : CorralEntry) : Option Nat :=
  let i := (field e.key 24 24).toNat
  let j := (field e.key 0 24).toNat
  if a.ioff ≤ i ∧ i < a.ioff + a.rows ∧ a.joff ≤ j ∧ j < a.joff + a.cols then
    some ((i - a.ioff) * a.ld + (j - a.joff))
  else none

/-- An entry's value in the target format. -/
def blockValue (afmt : BitVec 2) (v : BitVec 16) (f : AnyFmt) (e : CorralEntry) : Nat :=
  ((AnyFmt.fp (accFmt afmt)).convert f e.value.toNat (Rounding.ofBits (field v 9 2)) (bit v 11)).1

/-- The values of a block by ascending position: zeros under ZFILL, then the entries in emission order. -/
def BlockArgs.values (a : BlockArgs) (afmt : BitVec 2) (f : AnyFmt) (es : List CorralEntry) : List (Nat × Nat) :=
  let zeros : List (Nat × Nat) :=
    if a.zfill then (upTo a.rows).flatMap fun i => (upTo a.cols).map fun j => (i * a.ld + j, 0) else []
  es.foldl (fun l e => match a.place e with | some p => insertAt l p (blockValue afmt a.fmtd f e) | none => l) zeros

/-- The shadow writes of a block. -/
def State.blockRuns (s : State) (k : Cmd) (addr size : Nat) :
    List (Nat × Nat) → Except Stop (State × List Run)
  | [] => .ok (s, [])
  | (p, v) :: rest => do
    let (s, rs) ← s.spanMem (s.keeperOf k) 2 (p * size) (addr + p * size) (bytesOf v size)
    let (s, more) ← s.blockRuns k addr size rest
    .ok (s, rs ++ more)

/-- A drain to a DENSE target. -/
def State.drainBlock (s : State) (k : Cmd) (i : Instr) (ordered : Bool) : Except Stop State := do
  let (s, d) ← s.readDesc k i
  checkDesc s i d (blockChecks d)
  let a := blockArgs d
  match descFmt a.fmtd with
  | none => .error (.fault s .illegalCmd 3 (some (descOff 28 0)))
  | some f =>
    let es := s.me.join.emission ordered
    let (s, rs) ← s.blockRuns k a.addr f.bytes (a.values s.me.join.afmt f es)
    let s ← s.joinShadow k rs (a.addr, ((a.rows - 1) * a.ld + a.cols) * f.bytes)
    let s := (s.popBox .join).mapMe fun c => { c with join := c.join.clear }
    .ok (s.succeed k (flagsOf es).toNat (es.filter fun e => (a.place e).isSome).length)

/-- JDRAIN. -/
def execJdrain (tok : Reg) (ordered : Bool) (target : DrainTarget) (s : State) : Out :=
  let k := s.headCmd .join tok
  .next (s.settleJoin k
    (match target with
     | .records a => (s.resume k).writeRecords k a.toNat s.me.join.afmt (s.me.join.emission ordered) Join.clear
     | .dense _ => (s.resume k).drainBlock k (.jdrain tok ordered target) ordered))

/-- An accumulating command from its start to its end, with the accumulator format that it names; none for another. -/
def State.runJoin (s : State) (k : Cmd) : Instr → Option (BitVec 2 × Except Stop State)
  | .jdense tok f m n base ext =>
    some (f.afmt, s.startJdense k (.jdense tok f m n base ext) f (m.toNat + 1) (n.toNat + 1) base.toNat)
  | .jsparse tok f ext => some (f.afmt, s.startJsparse k (.jsparse tok f ext) f)
  | .jgath tok f nb ext => some (f.afmt, s.startJgath k (.jgath tok f nb ext) f (nb.toNat + 1))
  | .jfeed _ src count afmt rm => some (afmt, s.startJfeed k (refOf src) count.toNat afmt rm)
  | _ => none

/-- The state in which a command goes on or stops; none when nothing has begun. -/
def stateOf : Except Stop State → Option State
  | .ok s | .error (.pause s) | .error (.tier s _) | .error (.fault s _ _ _) => some s
  | .error .wait => none

/-- The accumulating command that runs beside a JPEEK: the one ahead of it that comes next, or one that is suspended. -/
def State.besidePeek (s : State) (k : Cmd) : Option Cmd :=
  let ahead := (s.me.suspended.filter fun x => x.box == .join).map (·.cmd) ++ s.me.join.inbox.filter fun x => x.id != k.id
  ahead.head?.filter fun x => x.accumulates && decide (x.id < k.id)

/-- What a JPEEK reads, with the format of the records: the entries as they stand, or, beside a command that runs,
each slot as that command has left it when the scan reads it; the clk of the command in which the scan begins is free.
The accesses that the command makes for it stand (10 R199; notes/assumptions/61.md). -/
def State.peekRead (s : State) (k : Cmd) : State × BitVec 2 × List CorralEntry :=
  let now := (s, s.me.join.afmt, s.me.join.scan)
  match s.besidePeek k with
  | none => now
  | some r =>
    let (w, s) := s.anyWord
    let start : Int := if bit w 0 then w.toNat / 2 else -(w.toNat / 2 : Nat)
    let s1 := (s.mapMe fun c => c.mapInbox .join fun q => r :: q.filter fun x => x.id != k.id && x.id != r.id).resume r
    let s1 : State := { s1 with journal := { s1.journal with peek := some { start := start, next := 0, seen := [] } } }
    match r.instr?.bind (s1.runJoin r) with
    | none => now
    | some (afmt, res) =>
      match stateOf res with
      | none => now
      | some t =>
        let made := t.journal.made ++ t.journal.left
        let s := s.mapMe fun c => c.mapInbox .join fun q => q.map fun x => if x.id = r.id then { x with trail := made } else x
        match t.journal.peek with
        | some p => (s, if s.me.join.mode = .empty then afmt else s.me.join.afmt, (p.through s.me.join 512).seen)
        | none => (s, s.me.join.afmt, s.me.join.scan)

/-- JPEEK: the records of the entries that its scan reads, nothing cleared. A scan that was made before the JPEEK was
suspended stands with the records' places. -/
def execJpeek (tok : Reg) (addr : BitVec 48) (s : State) : Out :=
  let k := s.headCmd .join tok
  let (s, afmt, es) := s.peekRead k
  .next (s.settleJoin k ((s.resume k).writeRecords k addr.toNat afmt es id))

/-! ## JCLR and JSPILL (10 R194, R200) -/

/-- JCLR. -/
def execJclr (tok : Reg) (s : State) : Out :=
  let k := s.headCmd .join tok
  .next (((s.popBox .join).mapMe fun c => { c with join := c.join.clear }).succeed k 0 0)

/-- JSPILL. -/
def execJspill (tok : Reg) (addr : BitVec 48) (cap : BitVec 32) (s : State) : Out :=
  let k := s.headCmd .join tok
  let arm (j : Join) : Join := { j with spillBase := addr, spillCap := cap, spillCount := 0 }
  .next (((s.popBox .join).mapMe fun c => { c with join := arm c.join }).succeed k 0 cap.toNat)

end Sys2Proof.Machine
end

