-- ==== Sys2Proof/Machine/Tiles.lean ====
section
/-!
DEFINITION. The tile instructions (14 R304, R305; 06 R103 to R109).
-/
namespace Sys2Proof.Machine

/-! ## TALLOC -/

/-- MAX of a partition for the running task (02 Table HST-6 PARTS). -/
def State.partMax (s : State) (p : Nat) : Nat :=
  match s.paddock? s.herePdk with
  | some k => (getAt k.desc.parts p (0, 0)).2
  | none => 0

/-- The wait object of a TALLOC (04 Table SCH-7 kind 1). -/
def State.poolBlock (s : State) (p : Nat) : Block :=
  { okind := 1, detail := 0, object := BitVec.ofNat 48 (s.cur.toNat * 8 + p) }

/-- The checks of TALLOC in their order (06 R103): a fault, or the request. -/
def State.tallocRequest (s : State) (part : BitVec 4) (size count : Word) : Except FaultInfo LoftReq :=
  if 7 < part.toNat then .error { code := .illegal, val0 := part.setWidth 64, val1 := 0 }
  else if field count 16 48 ≠ 0 then .error { code := .illegal, val0 := count, val1 := 0 }
  else if size = 0 ∨ 2 ^ 21 < size.toNat then .error { code := .tileSize, val0 := size, val1 := 0 }
  else
    let n := granulesFor size.toNat
    let m := s.partMax part.toNat
    if m < n then .error { code := .poolQuota, val0 := BitVec.ofNat 64 n, val1 := BitVec.ofNat 64 m }
    else
      .ok { who := .sequencer, granules := n, count := count.toNat, part := part.toNat, pdk := s.herePdk,
            group := s.hereGroup, task := s.here }

/-- The focused core whose TALLOC waits for a grant. -/
def State.request (s : State) (r : LoftReq) : State :=
  s.mapMe fun c =>
    { c with loft := { c.loft with incoming := c.loft.incoming ++ [r] }, pipe := { c.pipe with tallocWait := true } }

/-- TALLOC: the request is made once and the instruction waits until the grant, whose handle it returns. -/
def execTalloc (o : ROps) (part : BitVec 4) (s : State) : Out :=
  s.withOps [(o.sa, o.ea), (o.sb, o.eb)] [o.sd] <| s.afterAcquire <|
    if s.me.pipe.tallocWait then
      match s.me.loft.takeGrant .sequencer with
      | some (h, l) =>
        ((s.mapMe fun c => { c with loft := l, pipe := { c.pipe with tallocWait := false } }).put o.sd
          (h.setWidth 64)).done
      | none => s.stall (s.poolBlock part.toNat)
    else
      match s.tallocRequest part (s.reg o.sa) (s.reg o.sb) with
      | .error f => s.trap f.code f.val0 f.val1
      | .ok r => (s.request r).stall (s.poolBlock part.toNat)

/-! ## Instructions that take a handle -/

/-- Whether a message of this core to a home core is still under way: messages reach it in the order sent
(06 R110). -/
def State.tileMsgBehind (s : State) (home : CoreNum) : Bool :=
  s.tileMsgs.any fun m => m.reader == s.cur && m.home == home

/-- The checks on a handle in sa (14 R305, 06 R108): bits [63:32], and a home core of the Paddock's, in the
reader's own cluster when the instruction consumes or frees. -/
def State.withHandle (s : State) (v : Word) (near : Bool) (go : BitVec 32 → Out) : Out :=
  let h : BitVec 32 := field v 0 32
  if field v 32 32 ≠ 0 then s.trap .tileStale v 0
  else
    let ok := match s.paddock? s.herePdk with
      | some p => s.homeOk p h && (!near || clusterIx (handleCore h) == clusterIx s.cur)
      | none => false
    if !ok then s.trap .perm v 0
    else if s.tileMsgBehind (handleCore h) then s.stall Block.unit
    else go h

/-- A transition at the home core of a handle (06 Table LFT-2), or its fault. -/
def State.tileStep (s : State) (h : BitVec 32) (f : Loft → LoftAnswer) : Out :=
  match f (s.loftAt (handleCore h)) with
  | .done l => (s.passHorizon.modLoft (handleCore h) fun _ => l).done
  | .fault code reason => s.trap code (h.setWidth 64) (BitVec.ofNat 64 reason)

/-- TCONS: an admission and a count in one step. -/
def execTcons (o : SOps) (s : State) : Out :=
  s.withOps [(o.sa, o.ea)] [] <| s.afterAcquire <|
    s.withHandle (s.reg o.sa) true fun h => s.tileStep h (·.tcons h)

/-- TFREE: a pinned tile is freed. -/
def execTfree (o : SOps) (s : State) : Out :=
  s.withOps [(o.sa, o.ea)] [] <| s.afterAcquire <|
    s.withHandle (s.reg o.sa) true fun h => s.tileStep h (·.tfree h)

/-- TINFO: the tile information word. -/
def execTinfo (o : UOps) (s : State) : Out :=
  s.withOps [(o.sa, o.ea)] [o.sd] <| s.afterAcquire <|
    s.withHandle (s.reg o.sa) false fun h => (s.put o.sd ((s.loftAt (handleCore h)).info h)).done

/-- TADDR: the aperture address of a current handle (06 R102). -/
def execTaddr (o : UOps) (s : State) : Out :=
  s.withOps [(o.sa, o.ea)] [o.sd] <| s.afterAcquire <|
    s.withHandle (s.reg o.sa) false fun h =>
      match (s.loftAt (handleCore h)).current? h with
      | some _ => (s.put o.sd (apertureOf h)).done
      | none => s.trap .tileStale (h.setWidth 64) 0

end Sys2Proof.Machine
end

