-- ==== Sys2Proof/Machine/Params.lean ====
section
/-!
DEFINITION. What the fabric's elements are (05 R89, R90; 12 R243 to R245; 16 R343 to R366): positions, modes, the kinds
of their inputs and outputs, and the checks on their parameters.
-/
namespace Sys2Proof.Machine

/-! ## Positions (05 R89, R90) -/

/-- The letters of Table COR-2, row by row. -/
def floorPlan : List String :=
  ["NXASAMMASAXN", "ESGMACCAMGSE", "NGAMDAADMAGN", "XPAMCQQCMAPX", "ESAMDAADMASE",
    "NGAMCQQCMAGN", "XPANDAADNAPX", "NSGAMCCMAGSN", "EXAMXWWXMAXE", "NXAMCMMCMAXN"]

/-- The kind of a letter. -/
def kindOfLetter (c : Char) : EKind :=
  match c with
  | 'A' => .add | 'M' => .mul | 'D' => .div | 'Q' => .sqrt | 'C' => .cmp | 'X' => .xform
  | 'S' => .steer | 'G' => .merge | 'P' => .compact | 'N' => .count | 'W' => .window | _ => .mem

/-- The kind of the element at an index x + 12y. -/
def kindAt (i : Nat) : EKind :=
  kindOfLetter (getAt (getAt floorPlan (i / 12) "").toList (i % 12) 'E')

/-- Column and row of an element. -/
def posOf (i : Nat) : Nat × Nat := (i % 12, i / 12)

/-- Where an ingress port enters. -/
def ingressPos (p : Nat) : Nat × Nat :=
  match p with | 12 => (0, 2) | 13 => (0, 5) | 14 => (11, 2) | 15 => (11, 5) | p => (p, 0)

/-- Where an egress port leaves. -/
def egressPos (p : Nat) : Nat × Nat :=
  match p with | 12 => (0, 3) | 13 => (0, 7) | 14 => (11, 3) | 15 => (11, 7) | p => (p, 9)

/-- Switch hops between two positions (08 R160). -/
def hops (a b : Nat × Nat) : Nat := ((a.1 : Int) - b.1).natAbs + ((a.2 : Int) - b.2).natAbs + 1

/-! ## Kinds and modes (12 R243 Table ENC-9) -/

/-- The kind of a code. -/
def kindOfCode (c : Nat) : Option EKind :=
  [EKind.add, .mul, .div, .sqrt, .cmp, .xform, .steer, .merge, .compact, .count, .window, .mem][c]?

/-- The modes of a kind, in the order of their numbers. -/
def kindModes : EKind → List EMode
  | .add => [.add, .sub, .addk, .lsum] | .mul => [.mul, .mulk, .sqr] | .div => [.div, .rcp] | .sqrt => [.sqrt]
  | .cmp => [.max2, .min2, .relu, .gtp, .thr, .lmax] | .xform => [.unpk, .pack, .norm, .exp2, .log2, .scale]
  | .steer => [.steer, .fork] | .merge => [.mrgi, .mrgp, .mrga] | .compact => [.nzs, .filt, .bmx, .bmc]
  | .count => [.cnt, .ctls, .ctlp, .ctlm] | .window => [.win]
  | .mem => [.agen, .mload, .mstore, .mgath, .mscat, .mtalloc, .mtread]

/-- The data inputs that a mode uses; `tuple` is bit P6[0] of MGATH and MSCAT (16 R362). -/
def modeInputs (m : EMode) (tuple : Bool) : List Nat :=
  match m with
  | .add | .sub | .mul | .div | .max2 | .min2 | .gtp | .mrgp | .agen | .mstore => [0, 1]
  | .mrgi | .mrga => [0, 1, 2, 3]
  | .mscat => if tuple then [0, 2] else [0, 1, 2]
  | .cnt | .ctls | .ctlp => []
  | _ => [0]

/-- The data inputs without which a mode runs as well: AGEN's k1, MSCAT's ordering tokens, inputs of MRGA. -/
def optionalInput (m : EMode) (i : Nat) : Bool :=
  match m with | .agen => i == 1 | .mscat => i == 2 | .mrga => true | _ => false

/-- Whether an input must be D (`some true`), W (`some false`), or may be either. -/
def inputKind (m : EMode) (i : Nat) : Option Bool :=
  match m with
  | .add | .sub | .addk | .lsum | .mul | .mulk | .sqr | .div | .rcp | .sqrt | .max2 | .min2 | .relu | .gtp | .thr | .lmax
  | .pack | .norm | .scale => some true
  | .steer | .fork | .ctlm | .mrgp | .mrga => none
  | .mrgi => if i % 2 = 1 then some false else none
  | _ => some false

/-- Whether an output exists and whether it carries D, for inputs of a given kind. -/
def outputKind (m : EMode) (o : Nat) (d0 : Bool) : Option Bool :=
  match m with
  | .gtp | .mstore => none
  | .fork => some d0
  | .steer => if o < 2 then some d0 else some false
  | .win => some false
  | .mrgi | .mrgp | .mrga | .ctlm => if o = 0 then some d0 else none
  | .pack | .exp2 | .log2 | .nzs | .filt | .bmx | .bmc | .cnt | .ctls | .ctlp | .agen | .mload | .mgath | .mscat
  | .mtalloc | .mtread => if o = 0 then some false else none
  | _ => if o = 0 then some true else none

/-- Whether a mode has a predicate output. -/
def hasPredOut (m : EMode) : Bool :=
  match m with | .gtp | .thr | .lmax | .ctls | .ctlp | .ctlm => true | _ => false

/-! ## Parameters (12 R244, R245) -/

/-- A parameter of an element. -/
def paramAt (ps : List (BitVec 32)) (k : Nat) : BitVec 32 := getAt ps k 0

/-- Whether a word is a format descriptor of a format that elements allow (12 Table ENC-10, 07 Table FMT-1); its
rounding mode and saturate bit must be zero in a mode that rounds nothing (12 R244). -/
def fmtWordOk (v : BitVec 32) (nb16 rounds : Bool) : Bool :=
  let code := (field v 0 4).toNat
  let var : BitVec 5 := field v 4 5
  field v 12 20 == 0 && (rounds || field v 9 3 == 0)
    && (if code = 4 then 4 ≤ var.toNat else if code = 6 then nb16 && 4 ≤ var.toNat else var == 0 && (wordFmt code 0).isSome)

/-- The word format of a descriptor. -/
def fmtOfWord (v : BitVec 32) : AnyFmt := (wordFmt (field v 0 4).toNat (field v 4 5)).getD (.fp Fmt.fp32)

/-- Rounding mode and saturate bit of a descriptor. -/
def rmOfWord (v : BitVec 32) : Rounding := Rounding.ofBits (field v 9 2)
/-- See `rmOfWord`. -/
def satOfWord (v : BitVec 32) : Bool := bit v 11

/-- Whether bits from `lo` up are zero. -/
def zeroFrom (v : BitVec 32) (lo : Nat) : Bool := v.toNat < 2 ^ lo

/-- The checks on P0 to P6 of a mode: a condition and the parameter's number, in ascending order; parameters that no
entry names must be zero. -/
def modeChecks (m : EMode) (p : Nat → BitVec 32) : List (Bool × Nat) :=
  let fmt (k : Nat) (rounds : Bool) : Bool × Nat := (fmtWordOk (p k) false rounds, k)
  let any (_k : Nat) : Bool × Nat := (true, _k)
  let lo (k n : Nat) : Bool × Nat := (zeroFrom (p k) n, k)
  let body : Bool × Nat := (zeroFrom (p 3) 8 && ((p 3).toNat < 120 || p 3 == 0xFF), 3)
  match m with
  | .addk | .mulk => [any 0]
  | .lsum | .lmax => [((p 0).toNat ≤ 9, 0)]
  | .thr => [any 0, lo 1 3, any 2]
  | .unpk => [(fmtWordOk (p 0) true false, 0)]
  | .pack => [fmt 0 true]
  | .norm => [(zeroFrom (p 0) 6 && (1 ≤ (field (p 0) 0 5).toNat && (field (p 0) 0 5).toNat ≤ 16), 0)]
  | .exp2 | .log2 => [(fmtWordOk (p 0) false true && (field (p 0) 0 4).toNat < 3, 0)]
  | .scale => [lo 0 12]
  | .steer => [lo 0 9]
  | .nzs | .filt => [fmt 0 false, any 1]
  | .bmx => [fmt 0 false, (zeroFrom (p 1) 16 && p 1 != 0, 1), lo 2 3]
  | .bmc => [fmt 0 false, (1 ≤ (p 1).toNat && (p 1).toNat ≤ 4096, 1), lo 2 3]
  | .cnt => [any 0, any 1, any 2, lo 3 3]
  | .ctls => [any 0, any 1, any 2, body, lo 4 3]
  | .ctlp => [any 0, any 1, any 2, body, lo 4 3, (1 ≤ (p 5).toNat && (p 5).toNat ≤ 64, 5)]
  | .ctlm => [lo 0 0, lo 1 0, any 2, lo 3 0, lo 4 3]
  | .win => [lo 0 2, (zeroFrom (p 1) 8 && p 1 != 0, 1),
      (zeroFrom (p 2) 8 && p 2 != 0 && (p 0).toNat * (p 2).toNat ≤ 255, 2)]
  | .agen => [any 0, any 1, any 2, any 3]
  | .mload | .mstore => [any 0, lo 1 16, fmt 2 false, any 3]
  | .mgath => [any 0, lo 1 16, fmt 2 false, any 3, (1 ≤ (p 4).toNat && (p 4).toNat ≤ 4096, 4),
      ((p 5).toNat % (fmtOfWord (p 2)).bytes == 0, 5), lo 6 1]
  | .mscat => [any 0, lo 1 16, fmt 2 true, any 3, ((p 4).toNat < 2, 4), lo 5 0, lo 6 1]
  | .mtalloc => [any 0, any 1, lo 2 3]
  | .mtread => [any 0, lo 1 3]
  | _ => []

/-- The first parameter that holds a value which R245 refuses. -/
def badParam (m : EMode) (ps : List (BitVec 32)) : Option Nat :=
  let p := paramAt ps
  let named := modeChecks m p
  let rest := ((upTo 7).filter fun k => named.all fun c => c.2 != k).map fun k => (p k == 0, k)
  firstBad (named ++ rest ++ [(field (p 7) 8 21 == 0, 7)])

/-- The parameters as a configuration loads them: P7 keeps only DL (16 R343). -/
def loadedParams (ps : List (BitVec 32)) : List (BitVec 32) :=
  (upTo 8).map fun k => if k = 7 then paramAt ps 7 &&& 0xE0000000 else paramAt ps k

/-- DL of an element's status word (16 Table ELM-1). -/
def doneLevel (ps : List (BitVec 32)) : BitVec 3 := field (paramAt ps 7) 29 3

/-! ## Travel (08 R160) -/

/-- Clk of an instant. -/
def Image.period (g : Image) : Nat := if g.period2 then 2 else 1

/-- Instants from an emission to the first instant in which it can be taken, and by how many clk it arrives before that
instant begins: a source's pipeline of 6 clk, none at an ingress port, and the hops of the channel, less what the source had
ahead of its instant. -/
def Image.delay (g : Image) (src : Src) (lead : Nat) (dst : Nat × Nat) : Nat × Nat :=
  let clk := match src with
    | .elem i _ => 6 + hops (posOf i) dst
    | .ingress p => hops (ingressPos p) dst
    | .none => 1
  let n := (clk - lead + g.period - 1) / g.period
  (n, n * g.period + lead - clk)

/-- The data inputs of a configuration that a source drives: element and input, with their descriptors. -/
def Image.consumers (g : Image) (src : Src) : List (Nat × Nat × InDesc) :=
  g.elems.flatMap fun e =>
    (upTo e.ins.length).filterMap fun i =>
      match e.ins[i]? with
      | some d => if d.src = src then some (e.index, i, d) else none
      | none => none

/-- The egress ports that an output drives. -/
def Image.egressOf (g : Image) (src : Src) : List Nat :=
  (upTo 16).filter fun p => match getAt g.egress p none with | some d => Src.elem d.src d.out == src | none => false

/-- Whether a source drives two or more inputs or ports (08 R149). -/
def Image.isBranch (g : Image) (src : Src) : Bool := 2 ≤ (g.consumers src).length + (g.egressOf src).length

end Sys2Proof.Machine
end

