-- ==== Sys2Proof/Machine/Graph.lean ====
section
/-!
DEFINITION. Placed images and canonical graphs as bytes (08 R154 to R160): header, column streams and element records,
and the mapper, which makes a placed configuration of a graph.
-/
namespace Sys2Proof.Machine

/-! ## Refused loads (08 R145 Table FAB-3, Table FAB-4) -/

/-- A refused load: code, ELEM, FFVAL0 and FFVAL1; a detail that no rule states is `none`. For an element's record FFVAL1 is
first the byte's place in the expanded column, which stands only for a parameter (12 R245; 08 R152). -/
structure LoadFault where
  code : Code
  elem : Nat
  val0 : Nat
  val1 : Option Nat
  param : Bool := false
  deriving DecidableEq, Repr

/-- ELEM of the header and of the hub. -/
def noElem : Nat := 0x7F

/-- A header fault at a byte. -/
def headerFault (off : Nat) : LoadFault := { code := .cfgCode, elem := noElem, val0 := 0xFF, val1 := some off }

/-- A fault of a column's stream at a byte; the elements of the column are not named. -/
def columnFault (col off : Nat) : LoadFault := { code := .cfgCode, elem := noElem, val0 := col, val1 := some off }

/-- A fault of an element's record at a record word. -/
def recordFault (i word : Nat) : LoadFault :=
  { code := .cfgCode, elem := i, val0 := i % 12, val1 := some (64 * (i / 12) + 8 * word) }

/-- A word of a column, with the byte of the column's stream at which it is coded. -/
abbrev ColWord := Word × Nat

/-- A record's fault with its byte in the column's own stream (08 R152). -/
def LoadFault.inStream (f : LoadFault) (cols : List (List ColWord)) : LoadFault :=
  if f.elem = noElem || f.param then f
  else { f with val1 := f.val1.map fun n => (getAt (getAt cols (f.elem % 12) []) (n / 8) (0, n)).2 }

/-! ## Placed images -/

/-- An egress descriptor (08 Table FAB-5). -/
def egressDesc (v : Nat) : Option EgressDesc :=
  if v % 128 = 0x7F then none
  else
    let d := v / 512 % 2 = 1
    some { src := v % 128, out := v / 128 % 4, isD := d, digits := if d then v / 1024 + 1 else 0, window := 8 }

/-- Whether an egress descriptor is free of reserved values. -/
def egressOk (v : Nat) : Bool :=
  v % 128 == 0x7F || (decide (v % 128 < 120) && (if v / 512 % 2 = 1 then decide (7 ≤ v / 1024) else v / 1024 == 0))

/-- The checks on an image's header (08 R154), with the byte of each field. -/
def headerChecks (h : List Byte) : List (Bool × Nat) :=
  let cmp := natAt h 3 1 / 2 % 2 = 1
  [(natAt h 0 2 == 0xD5A7, 0), (natAt h 2 1 == 1, 2), (decide (natAt h 3 1 < 4), 3), (decide (natAt h 6 1 < 120), 6),
    (decide (natAt h 7 1 ≤ 240), 7), (natAt h 16 16 == 0, 16)]
    ++ ((upTo 12).map fun c => (decide cmp || natAt h (32 + 4 * c) 4 == 640, 32 + 4 * c))
    ++ ((upTo 16).map fun p => (egressOk (natAt h (80 + 2 * p) 2), 80 + 2 * p)) ++ [(natAt h 112 16 == 0, 112)]

/-- Where the column streams start (08 R154). -/
def columnStarts (h : List Byte) : List Nat :=
  ((upTo 12).foldl (fun (acc : List Nat × Nat) c =>
    (acc.1 ++ [acc.2], (acc.2 + natAt h (32 + 4 * c) 4 + 7) / 8 * 8)) ([], 128)).1

/-- The words of a compressed column from byte `off` on, after `ws`; the byte of a bad code otherwise (08 R156). -/
def expandColumn (dict : List Word) : Nat → Nat → List ColWord → List Byte → Except Nat (List ColWord)
  | 0, off, ws, bs => if bs.isEmpty && ws.length == 80 then .ok ws else .error off
  | _ + 1, off, ws, [] => if ws.length = 80 then .ok ws else .error off
  | n + 1, off, ws, c :: rest =>
    let c := c.toNat
    if 80 ≤ ws.length then .error off
    else if c < 0xF0 then
      match dict[c]? with
      | some w => expandColumn dict n (off + 1) (ws ++ [(w, off)]) rest
      | none => .error off
    else if c = 0xF0 then
      if rest.length < 8 then .error off
      else expandColumn dict n (off + 9) (ws ++ [(wordOf (rest.take 8), off)]) (rest.drop 8)
    else if c = 0xF1 then
      match rest, ws.getLast? with
      | k :: rest, some w =>
        if 80 < ws.length + k.toNat + 1 then .error off
        else expandColumn dict n (off + 2) (ws ++ List.replicate (k.toNat + 1) (w.1, off)) rest
      | _, _ => .error off
    else .error off

/-- The words of a plain column. -/
def plainColumn (bs : List Byte) : List ColWord := (upTo 80).map fun k => (wordOf ((bs.drop (8 * k)).take 8), 8 * k)

/-- A data input descriptor (08 Table FAB-7), and whether it holds no reserved value. -/
def inDesc (v : BitVec 32) : InDesc × Bool :=
  let s := (field v 0 8).toNat
  let o := (field v 8 3).toNat
  let src : Src := if s < 120 then .elem s o else if 0x80 ≤ s ∧ s < 0x90 then .ingress (s - 0x80) else .none
  let d := bit v 11
  let dm1 := (field v 12 6).toNat
  let ok := (decide (s < 120) || decide (0x80 ≤ s ∧ s < 0x90) || s == 0xFF)
    && field v 24 8 == 0 && decide (o < 4) && (if d then decide (7 ≤ dm1) else dm1 == 0)
  ({ src := src, isD := d, digits := if d then dm1 + 1 else 0, window := (field v 18 6).toNat + 1 }, ok)

/-- Half `k` of the record words that hold 32-bit fields. -/
def halfOf (ws : List Word) (word half : Nat) : BitVec 32 := field (getAt ws word 0) (32 * half) 32

/-- The record of an element (08 R155): none when it is not used. -/
def elemRecord (i : Nat) (ws : List Word) : Except LoadFault (Option ElemRec) :=
  let w0 := getAt ws 0 0
  let w3 := getAt ws 3 0
  if !bit w0 7 then
    (if field w0 8 56 ≠ 0 then .error (recordFault i 0)
     else
      match (upTo 7).find? fun k => getAt ws (k + 1) 0 != 0 with
      | some k => .error (recordFault i (k + 1))
      | none => .ok none)
  else
    match kindOfCode (field w0 0 4).toNat with
    | none => .error (recordFault i 0)
    | some kind =>
      match (kindModes kind)[(field w0 4 3).toNat]? with
      | none => .error (recordFault i 0)
      | some mode =>
        if kind ≠ kindAt i then .error { recordFault i 0 with code := .cfgKind, val0 := 0 }
        else
          let ins := (upTo 4).map fun k => inDesc (halfOf ws (1 + k / 2) (k % 2))
          let ps := (upTo 8).map fun k => halfOf ws (4 + k / 2) (k % 2)
          let pred := (field w3 0 8).toNat
          let enab := (field w3 16 8).toNat
          let predOk := pred == 0xFF || (decide (pred < 120) && field w3 8 3 == 4)
          let enabOk := enab == 0xFF || enab == 0xFE || (decide (enab < 120) && field w3 24 3 == 5)
          let checks : List (Bool × Nat) :=
            [(field w0 8 56 == 0, 0)] ++ ((upTo 4).map fun k => ((getAt ins k (inDesc 0xFF)).2, 1 + k / 2))
              ++ [(predOk && enabOk && field w3 11 5 == 0 && field w3 27 5 == 0 && field w3 32 32 == 0, 3)]
          match firstBad checks, badParam mode ps with
          | some word, _ => .error (recordFault i word)
          | none, some k => .error { recordFault i (4 + k / 2) with param := true }
          | none, none =>
            .ok (some { index := i, mode := mode, ins := ins.map (·.1), pred := if pred = 0xFF then none else some pred,
                        enab := if enab = 0xFF then .none else if enab = 0xFE then .head else .elem enab,
                        params := loadedParams ps })

/-- The records of all elements, in ascending index. -/
def elemRecords (cols : List (List Word)) : List Nat → Except LoadFault (List ElemRec)
  | [] => .ok []
  | i :: rest =>
    match elemRecord i ((getAt cols (i % 12) []).drop (8 * (i / 12))) with
    | .error f => .error f
    | .ok r =>
      match elemRecords cols rest with
      | .error f => .error f
      | .ok rs => .ok (r.toList ++ rs)

/-! ## Checks on a whole configuration -/

/-- An element of a configuration. -/
def Image.elem? (g : Image) (i : Nat) : Option ElemRec := g.elems.find? fun e => e.index == i

/-- Whether a mode takes tuples (16 R362). -/
def ElemRec.tuple (e : ElemRec) : Bool :=
  match e.mode with | .mgath | .mscat => bit (paramAt e.params 6) 0 | _ => false

/-- The data inputs of an element that its mode uses and that have a source. -/
def ElemRec.uses (e : ElemRec) : List Nat :=
  (modeInputs e.mode e.tuple).filter fun i => match e.ins[i]? with | some d => d.src != .none | none => false

/-- Whether IN0 of an element carries D. -/
def ElemRec.takesD (e : ElemRec) : Bool := match e.ins.head? with | some d => d.isD | none => false

/-- Whether the source of an input exists as the descriptor says: an output of the right kind. -/
def Image.sourceOk (g : Image) (src : Src) (isD : Bool) : Bool :=
  match src with
  | .elem i o => match g.elem? i with | some e => outputKind e.mode o e.takesD == some isD | none => true
  | _ => true

/-- Whether the inputs of an element that its mode uses are of the right kinds and agree in D where they must. -/
def ElemRec.kindsOk (e : ElemRec) : Bool :=
  let ds := e.uses.filterMap fun i => (e.ins[i]?).map fun d => (i, d)
  (ds.all fun d => match inputKind e.mode d.1 with | some k => d.2.isD == k | none => true)
    && (match e.mode with
        | .mrgi =>
          let data := ds.filter fun d => d.1 % 2 == 0
          data.all fun a => data.all fun b => a.2.isD == b.2.isD && a.2.digits == b.2.digits
        | .mscat | .agen | .mstore => true
        | _ => ds.all fun a => ds.all fun b => a.2.isD == b.2.isD && a.2.digits == b.2.digits)

/-- Whether the D outputs of an element carry the D of each of its D inputs (09 R161). -/
def Image.digitsOk (g : Image) (e : ElemRec) : Bool :=
  (e.uses.filterMap fun i => e.ins[i]?).all fun d =>
    !d.isD || (upTo 4).all fun o =>
      (g.consumers (.elem e.index o)).all (fun c => !c.2.2.isD || c.2.2.digits == d.digits)
        && (g.egressOf (.elem e.index o)).all fun p =>
          match getAt g.egress p none with | some x => !x.isD || x.digits == d.digits | none => true

/-- Whether an input agrees in kind and D with every other input of the same output. -/
def Image.agrees (g : Image) (d : InDesc) : Bool :=
  d.src == .none
    || ((g.consumers d.src).all (fun c => c.2.2.isD == d.isD && c.2.2.digits == d.digits)
      && (g.egressOf d.src).all fun p =>
        match getAt g.egress p none with | some x => x.isD == d.isD && x.digits == d.digits | none => true)

/-- The first element with an input or output that does not fit: its index and the record word (08 R155, 16 R343). -/
def Image.badChannel (g : Image) : Option (Nat × Nat) :=
  g.elems.findSome? fun e =>
    match (upTo e.ins.length).find? fun i =>
        match e.ins[i]? with | some d => !(g.sourceOk d.src d.isD && g.agrees d) | none => false with
    | some i => some (e.index, 1 + i / 2)
    | none => if e.kindsOk && g.digitsOk e then none else some (e.index, 1)

/-- The first egress port whose source does not fit. -/
def Image.badEgress (g : Image) : Option Nat :=
  (upTo 16).find? fun p =>
    match getAt g.egress p none with | some x => !g.sourceOk (.elem x.src x.out) x.isD | none => false

/-- An image from its header and its columns. -/
def imageOf (h : List Byte) (cols : List (List ColWord)) : Except LoadFault Image := do
  let inStream (f : LoadFault) : LoadFault := f.inStream cols
  let elems ← (elemRecords (cols.map fun c => c.map (·.1)) (upTo 120)).mapError inStream
  let g : Image :=
    { period2 := natAt h 3 1 % 2 == 1, draw := natAt h 4 2, root := natAt h 6 1, elems := elems,
      egress := (upTo 16).map fun p => egressDesc (natAt h (80 + 2 * p) 2) }
  if (g.elem? g.root).isNone then .error (headerFault 6)
  else
    match g.badChannel, g.badEgress with
    | some (i, word), _ => .error (inStream (recordFault i word))
    | none, some p => .error (headerFault (80 + 2 * p))
    | none, none => .ok g

/-! ## Canonical graphs (08 R157) -/

/-- A node: ID, kind and mode, a fixed position as an element index, parameters. -/
structure GNode where
  id : Nat
  kind : EKind
  mode : EMode
  at_ : Option Nat
  params : List (BitVec 32)

/-- An edge: source and destination IDs and ports, kind, digits, window, latency bound and arm window. -/
structure GEdge where
  src : Nat
  sport : Nat
  dst : Nat
  dport : Nat
  isD : Bool
  digits : Nat
  window : Nat
  lat : Nat
  arm : Nat

/-- A graph that the mapper rejects: the reason of R158 and the node ID or edge index, when one is at fault. -/
abbrev Rejected := Nat × Option Nat

/-- The node in 48 bytes. -/
def nodeOf (b : List Byte) : Except Rejected GNode :=
  let id := natAt b 0 2
  let bad : Except Rejected GNode := .error (5, some id)
  let km := natAt b 2 1
  let fixed := 128 ≤ km
  let ps := (upTo 8).map fun k => BitVec.ofNat 32 (natAt b (16 + 4 * k) 4)
  match kindOfCode (km % 16) with
  | none => bad
  | some kind =>
    match (kindModes kind)[km / 16 % 8]? with
    | none => bad
    | some mode =>
      if 0xFDFF < id ∨ natAt b 5 11 ≠ 0 ∨ (badParam mode ps).isSome then bad
      else if fixed ∧ (12 ≤ natAt b 3 1 ∨ 10 ≤ natAt b 4 1) then .error (1, some id)
      else .ok { id := id, kind := kind, mode := mode, params := loadedParams ps,
                 at_ := if fixed then some (natAt b 3 1 + 12 * natAt b 4 1) else none }

/-- The edge in 16 bytes. -/
def edgeOf (n : Nat) (b : List Byte) : Except Rejected GEdge :=
  let isD := natAt b 7 1 = 1
  let control := 4 ≤ natAt b 6 1
  let dm1 := natAt b 8 1
  if natAt b 3 1 ≠ 0 ∨ 2 ≤ natAt b 7 1 ∨ natAt b 13 3 ≠ 0 ∨ 64 ≤ natAt b 9 1
    ∨ (if isD then dm1 < 7 ∨ 64 ≤ dm1 ∨ control = true else dm1 ≠ 0) then .error (5, some n)
  else
    .ok { src := natAt b 0 2, sport := natAt b 2 1, dst := natAt b 4 2, dport := natAt b 6 1, isD := isD,
          digits := if isD then dm1 + 1 else 0, window := natAt b 9 1 + 1, lat := natAt b 10 2, arm := natAt b 12 1 }

/-- The records of a table, read one by one. -/
def readAll {α : Type} (f : Nat → List Byte → Except Rejected α) (size : Nat) (bs : List Byte) :
    List Nat → Except Rejected (List α)
  | [] => .ok []
  | n :: rest =>
    match f n (sliceBytes bs (size * n) size) with
    | .error e => .error e
    | .ok x => match readAll f size bs rest with | .error e => .error e | .ok xs => .ok (x :: xs)

/-- The positions that nodes take one after another, given those already taken: a fixed position, or the element that
the mapper chooses, or else the first free element of the kind. -/
def placeNodes (bytes : List Byte) : List (Nat × Nat) → Nat → List GNode → Except Rejected (List (Nat × Nat))
  | taken, _, [] => .ok taken
  | taken, n, x :: rest =>
    let isFree (i : Nat) : Bool := decide (i < 120) && kindAt i == x.kind && taken.all fun t => t.2 != i
    let want := Config.placement bytes n
    match (if isFree want then some want else (upTo 120).find? isFree) with
    | some i => placeNodes bytes ((x.id, i) :: taken) (n + 1) rest
    | none => .error (1, some x.id)

/-- The fixed positions, checked. -/
def placeFixed : List (Nat × Nat) → List GNode → Except Rejected (List (Nat × Nat))
  | taken, [] => .ok taken
  | taken, x :: rest =>
    match x.at_ with
    | none => placeFixed taken rest
    | some i =>
      if kindAt i ≠ x.kind ∨ (taken.any fun t => t.2 == i) = true then .error (1, some x.id)
      else placeFixed ((x.id, i) :: taken) rest

/-- Whether an edge's ends exist: a node's port or an ingress port, and a node's port or an egress port; an egress
port takes from an element only (08 Table FAB-5). -/
def edgeEndsOk (nodes : List GNode) (e : GEdge) : Bool :=
  let known (id : Nat) : Bool := nodes.any fun n => n.id == id
  let srcOk := (known e.src && decide (e.sport < 6)) || (decide (0xFF00 ≤ e.src ∧ e.src < 0xFF10) && e.sport == 0)
  let dstOk := (known e.dst && decide (e.dport < 6)) || (decide (0xFE00 ≤ e.dst ∧ e.dst < 0xFE10) && e.dport == 0)
  srcOk && dstOk && (known e.src || known e.dst) && (if 4 ≤ e.dport then e.sport == e.dport else decide (e.sport < 4))

/-- Whether another edge before this one ends at the same input or egress port. -/
def doubled (es : List GEdge) (n : Nat) (e : GEdge) : Bool := (es.take n).any fun x => x.dst == e.dst && x.dport == e.dport

/-- The source that an edge names. -/
def edgeSrc (pos : List (Nat × Nat)) (e : GEdge) : Src :=
  if 0xFF00 ≤ e.src then .ingress (e.src - 0xFF00)
  else match assocGet pos e.src with | some i => .elem i e.sport | none => .none

/-- The element of a node's record. -/
def recordOf (pos : List (Nat × Nat)) (es : List GEdge) (x : GNode) (i : Nat) : ElemRec :=
  let at_ (port : Nat) : Option GEdge := es.find? fun e => e.dst == x.id && e.dport == port
  let ins := (upTo 4).map fun k =>
    match at_ k with
    | some e => { src := edgeSrc pos e, isD := e.isD, digits := e.digits, window := e.window : InDesc }
    | none => { src := .none, isD := false, digits := 0, window := 1 : InDesc }
  let from_ (port : Nat) : Option Nat := (at_ port).bind fun e => assocGet pos e.src
  { index := i, mode := x.mode, ins := ins, pred := from_ 4,
    enab := match from_ 5 with | some j => .elem j | none => .none, params := x.params }

/-! ## Instant-signal depth (08 R141, R158) -/

/-- The element whose done ends the body of a CTLS or CTLP (16 R359). -/
def ElemRec.bodySource (e : ElemRec) : Option Nat :=
  match e.mode with
  | .ctls | .ctlp => let v := (paramAt e.params 3).toNat; if v < 120 then some v else none
  | _ => none

/-- The elements whose instant signals an element reads. -/
def ElemRec.instantInputs (e : ElemRec) : List Nat :=
  e.pred.toList ++ (match e.enab with | .elem i => [i] | _ => []) ++ e.bodySource.toList

/-- The longest chain of elements that ends in an element's instant outputs; the first argument bounds it, and a chain
that reaches the bound is a cycle. -/
def Image.depth (g : Image) : Nat → Nat → Nat
  | 0, _ => 200
  | n + 1, i =>
    match g.elem? i with
    | none => 0
    | some e => if e.instantInputs.isEmpty then 0 else 1 + (e.instantInputs.map (g.depth n)).foldl max 0

/-- The depth of a configuration's instant signals, over those that some element reads. -/
def Image.signalDepth (g : Image) : Nat :=
  ((g.elems.flatMap (·.instantInputs)).map (g.depth 9)).foldl max 0

/-- Of several ways back along an arm the one that holds least, among those that lead to a split when any does. -/
def leastArm (xs : List (Bool × Nat)) : Option (Bool × Nat) :=
  let arms := if xs.any (·.1) then xs.filter (·.1) else xs
  arms.foldl (fun (b : Option (Bool × Nat)) x =>
    match b with | some y => if y.2 ≤ x.2 then some y else some x | none => some x) none

/-- The buffering along an arm from its split to an input of the element that joins it (08 R150): FIFO capacities
summed backwards through every data input in use, and whether the way leads to a split; the first argument bounds the
walk. -/
def Image.armBuffer (g : Image) : Nat → InDesc → Bool × Nat
  | 0, _ => (false, 0)
  | n + 1, d =>
    let own := if g.isBranch d.src then d.window else 8
    match d.src with
    | .elem i _ =>
      match g.elem? i with
      | some e =>
        if e.mode == .steer || ((e.mode == .nzs || e.mode == .filt) && e.pred.isSome) then (true, own)
        else
          match leastArm ((e.uses.filterMap fun k => e.ins[k]?).map (g.armBuffer n)) with
          | some x => (x.1, own + x.2)
          | none => (false, own)
      | none => (false, own)
    | _ => (false, own)

/-! ## The mapper (08 R158, R159) -/

/-- Where an edge's ends stand. -/
def edgeHops (pos : List (Nat × Nat)) (e : GEdge) : Nat :=
  let a := if 0xFF00 ≤ e.src then ingressPos (e.src - 0xFF00) else posOf ((assocGet pos e.src).getD 0)
  let b := if 0xFE00 ≤ e.dst then egressPos (e.dst - 0xFE00) else posOf ((assocGet pos e.dst).getD 0)
  hops a b

/-- The first index of a list whose element meets a test. -/
def findIx {α : Type} (p : Nat → α → Bool) (l : List α) : Option Nat :=
  (upTo l.length).find? fun n => match l[n]? with | some x => p n x | none => false

/-- The header's checks of a graph. -/
def graphHeaderOk (h : List Byte) : Bool :=
  decide (1 ≤ natAt h 32 2 ∧ natAt h 32 2 ≤ 120 ∧ natAt h 34 2 ≤ 2048) && natAt h 40 24 == 0

/-- Bytes of a graph behind its header. -/
def graphBody (h : List Byte) : Nat := 48 * natAt h 32 2 + 16 * natAt h 34 2

/-- The configuration of a placed graph. -/
def placedImage (h : List Byte) (nodes : List GNode) (es : List GEdge) (pos : List (Nat × Nat)) (root : Nat) : Image :=
  let recs := (upTo 120).filterMap fun i =>
    (nodes.find? fun x => assocGet pos x.id == some i).map fun x => recordOf pos es x i
  let egress := (upTo 16).map fun p =>
    (es.find? fun e => e.dst == 0xFE00 + p).bind fun e =>
      match edgeSrc pos e with
      | .elem i o => some { src := i, out := o, isD := e.isD, digits := e.digits, window := e.window : EgressDesc }
      | _ => none
  let g : Image := { period2 := false, draw := natAt h 36 2, root := root, elems := recs, egress := egress }
  { g with period2 := decide (4 < g.signalDepth) }

/-- The node at an element. -/
def nodeAt (pos : List (Nat × Nat)) (i : Nat) : Option Nat := (pos.find? fun p => p.2 == i).map (·.1)

/-- The checks that the mapper makes on a placed graph. -/
def checkPlaced (g : Image) (pos : List (Nat × Nat)) (es : List GEdge) : Except Rejected Image :=
  match g.badChannel, g.badEgress with
  | some (i, _), _ => .error (5, nodeAt pos i)
  | none, some p => .error (5, findIx (fun _ e => e.dst == 0xFE00 + p) es)
  | none, none =>
    if 8 < g.signalDepth then
      .error (2, (g.elems.find? fun e => e.instantInputs.any fun i => 8 < g.depth 9 i).bind fun e => nodeAt pos e.index)
    else
      match findIx (fun _ e => e.lat != 0 && e.lat < edgeHops pos e) es with
      | some n => .error (3, some n)
      | none =>
        let short (e : GEdge) : Bool :=
          e.arm != 0 && (match (assocGet pos e.dst).bind g.elem? with
            | some r => r.mode == .mrgi && (match r.ins[e.dport]? with | some d => (g.armBuffer 120 d).2 < e.arm | none => false)
            | none => false)
        match findIx (fun _ e => short e) es with
        | some n => .error (4, some n)
        | none => .ok g

/-- A graph's header and body mapped to a configuration, or rejected. -/
def mapGraph (h body : List Byte) : Except Rejected Image := do
  if !graphHeaderOk h then .error (5, none)
  else
    let nn := natAt h 32 2
    let nodes ← readAll (fun _ => nodeOf) 48 body (upTo nn)
    let es ← readAll edgeOf 16 (body.drop (48 * nn)) (upTo (natAt h 34 2))
    match findIx (fun n x => (nodes.take n).any fun y => y.id == x.id) nodes with
    | some n => .error (5, (nodes[n]?).map (·.id))
    | none =>
      match findIx (fun n e => !edgeEndsOk nodes e || doubled es n e) es with
      | some n => .error (5, some n)
      | none =>
        if nodes.all fun x => x.id != natAt h 38 2 then .error (5, some (natAt h 38 2))
        else
          let fixed ← placeFixed [] nodes
          let pos ← placeNodes (h ++ body) fixed 0 (nodes.filter fun x => x.at_.isNone)
          let root := (assocGet pos (natAt h 38 2)).getD 0
          checkPlaced (placedImage h nodes es pos root) pos es

end Sys2Proof.Machine
end

