-- ==== Sys2Proof/Machine/Transfer.lean ====
section
/-!
DEFINITION. The block-transfer commands COPY, MCAST, PAGEIN, PUBLISH and FILL (15 R331 to R336; 03 R60, R61; 06 R114;
10 R204).
-/
namespace Sys2Proof.Machine

/-! ## COPY (15 R331, R332) -/

/-- The shifts of a set of dimensions in the order of the copy, the last dimension outermost. -/
def shiftsOf : List (Nat × Int × Int) → List (Int × Int)
  | [] => [(0, 0)]
  | (n, a, b) :: rest => (shiftsOf rest).flatMap fun x => (upTo n).map fun (i : Nat) => (x.1 + (i : Int) * a, x.2 + (i : Int) * b)

/-- The shifts of a COPY's runs on the source and on the destination side. -/
def copyShifts (d : List Byte) : List (Int × Int) :=
  shiftsOf ((upTo 4).map fun k =>
    (natAt d (20 + 2 * k) 2 + 1, signed32 (natAt d (28 + 4 * k) 4), signed32 (natAt d (44 + 4 * k) 4)))

/-- The byte count of a COPY. -/
def copyBytes (d : List Byte) : Nat := (copyDims d 28).foldl (fun b x => b * x.1) (natAt d 16 4)

/-- A shifted address, wrapping at 64 bits. -/
def shiftAddr (base : Nat) (by_ : Int) : Nat := (BitVec.ofInt 64 ((base : Int) + by_)).toNat

/-- The runs of a copied stretch of `n` bytes, segment by segment: a segment ends where the source or the destination
page ends (03 R61). `off` counts bytes in the order of the copy; the flag says that a segment is remote. -/
def State.copyRun (s : State) (a : Agent) (off src dst n : Nat) : Nat → Eng (List Run × Bool)
  | 0 => .ok (s, [], false)
  | fuel + 1 =>
    if n = 0 then .ok (s, [], false)
    else
      let m := min n (min (4096 - src % 4096) (4096 - dst % 4096))
      match s.piece a src m false with
      | (s, .error f) => .error (stopOf s f 0 off src)
      | (s, .ok p) =>
        match s.piece a dst m true with
        | (s, .error f) => .error (stopOf s f 2 off dst)
        | (s, .ok q) =>
          match s.copyRun a (off + m) (src + m) (dst + m) (n - m) fuel with
          | .error e => .error e
          | .ok (s', rs, far) => .ok (s', { tgt := q.tgt, bytes := p.bytes } :: rs, far || p.tgt.isRemote || q.tgt.isRemote)

/-- The runs of a whole copy. -/
def State.copyRuns (s : State) (a : Agent) (src dst len : Nat) (off : Nat) : List (Int × Int) → Eng (List Run × Bool)
  | [] => .ok (s, [], false)
  | x :: rest =>
    match s.copyRun a off (shiftAddr src x.1) (shiftAddr dst x.2) len (2 * pieces 4095 len) with
    | .error e => .error e
    | .ok (s, rs, far) =>
      match s.copyRuns a src dst len (off + len) rest with
      | .error e => .error e
      | .ok (s', rs', far') => .ok (s', rs ++ rs', far || far')

/-- The scope of a publish: SYSTEM with a remote segment, else PACKAGE (03 R61). -/
def publishScope (far : Bool) : Scope := if far then .system else .package

/-- The follow-on packet of a COPY read and its opcode checked; the packet's token becomes FTOK. -/
def State.readFollowOn (s : State) (k : Cmd) (faddr : BitVec 48) (ftok : Reg) :
    Except Stop (State × Option Cmd) :=
  if faddr = 0 then .ok (s, none)
  else do
    s.notHeld k [(faddr.toNat, 16)]
    let (s, bs) ← s.readMem (s.keeperOf k) 3 0 faddr.toNat 16
    let p := packetOf bs
    require s (decide (0x20 ≤ pktOp p ∧ pktOp p ≤ 0x27)) .illegalCmd 3 (some 48)
    let p : Packet := (field p 114 14 : BitVec 14) ++ ftok ++ (field p 0 108 : BitVec 108)
    .ok (s, some { k with packet := p, tok := ftok, desc := none })

/-- A COPY from its start to the shadow that awaits its publish. -/
def State.startCopy (s : State) (k : Cmd) (i : Instr) (faddr : BitVec 48) (ftok : Reg) : Except Stop State := do
  let (s, d) ← s.readDesc k i
  let total := copyBytes d
  checkDesc s i d [(decide (total < 2 ^ 48), descOff 16 0), (descZero d 60 4, descOff 60 0)]
  let (s, follow) ← s.readFollowOn k faddr ftok
  let dst := copyExtent d 8 44
  s.notHeld k [copyExtent d 0 28]
  let s ← s.track k dst
  let (s, rs, far) ← if total = 0 then .ok (s, [], false) else
    s.copyRuns (s.keeperOf k) (field (descWord d 0) 0 48).toNat (field (descWord d 8) 0 48).toNat (natAt d 16 4) 0
      (copyShifts d)
  let x := s.shadowOf k (publishScope far) rs (if total = 0 then (dst.1, 0) else dst)
    (some (k.ends .none (tokenWord .none 0 total)))
  .ok ((s.popBox .bte).addShadow { x with followOn := follow })

/-- COPY. -/
def execCopy (tok : Reg) (ext faddr : BitVec 48) (ftok : Reg) (s : State) : Out :=
  let k := s.headCmd .bte tok
  .next (s.settle .bte k ((s.resume k).startCopy k (.copy tok ext faddr ftok) faddr ftok))

/-! ## FILL (15 R336) -/

/-- `n` bytes of an eight-byte pattern from its start on. -/
def patternBytes (p : Word) (n : Nat) : List Byte :=
  let b := bytesOf p.toNat 8
  (upTo n).map fun o => getAt b (o % 8) 0

/-- The destination, length and pattern of a FILL, with the checks on its descriptor. Bytes [63:24], which no rule
names, are zero by the model's choice (notes/assumptions/16.md). -/
def fillArgs (b : FillBody) (d : List Byte) : Nat × Nat × Word × List (Bool × Nat) :=
  match b with
  | .direct dst len byte =>
    (dst.toNat, len.toNat, BitVec.ofNat 64 (natOf (List.replicate 8 byte)), [])
  | .desc _ =>
    ((descWord d 0).toNat, natAt d 8 8, descWord d 16,
      [(decide (natAt d 8 8 < 2 ^ 48), descOff 8 0), (descZero d 24 40, descOff 24 0)])

/-- A FILL from its start to the shadow that awaits its publish. -/
def State.startFill (s : State) (k : Cmd) (i : Instr) (b : FillBody) : Except Stop State := do
  let (s, d) ← s.readDesc k i
  let (dst, len, pat, checks) := fillArgs b d
  checkDesc s i d checks
  let s ← s.track k (dst, len)
  let (s, rs) ← s.spanMem (s.keeperOf k) 2 0 dst (patternBytes pat len)
  let x := s.shadowOf k (publishScope (rs.any fun r => r.tgt.isRemote)) rs (dst, len)
    (some (k.ends .none (tokenWord .none 0 len)))
  .ok ((s.popBox .bte).addShadow x)

/-- FILL. -/
def execFill (tok : Reg) (body : FillBody) (s : State) : Out :=
  let k := s.headCmd .bte tok
  .next (s.settle .bte k ((s.resume k).startFill k (.fill tok body) body))

/-! ## PAGEIN (03 R60, 15 R334) -/

/-- The leaf level of a PAGEIN's size code. -/
def pageinLevel (code : Nat) : Nat := match code with | 0 => 3 | 1 => 2 | _ => 1

/-- The checks on the fields of a PAGEIN descriptor. -/
def pageinChecks (d : List Byte) : List (Bool × Nat) :=
  let size := pageinSize (natAt d 24 1)
  [(decide (natAt d 24 1 ≤ 2), descOff 24 0), (natAt d 0 8 % size == 0, descOff 0 0),
    (natAt d 8 8 % size == 0, descOff 8 0), (natAt d 16 8 % 8 == 0, descOff 16 0), (descZero d 25 39, descOff 25 0)]

/-- The offset of the first 64 KiB of a frame that lies outside a Paddock's HBM ranges. -/
def PdkDesc.frameFault (p : PdkDesc) (frame size : Nat) : Option Nat :=
  ((upTo (size / 2 ^ 16)).find? fun k => !p.inHbm (frame + k * 2 ^ 16) (2 ^ 16)).map (· * 2 ^ 16)

/-- The new leaf entry of a paged-in page: TIER HBM, RES set, PAGE the frame. -/
def residentLeaf (e : Word) (frame : Nat) : Word :=
  ((BitVec.ofNat 28 (frame / 2 ^ 16) : BitVec 28) ++ (field e 9 27 : BitVec 27) ++ (1 : BitVec 1) ++ (0 : BitVec 2)
    ++ (field e 0 6 : BitVec 6) : BitVec 64)

/-- The access for which a PAGEIN walks: it asks no permission of the page. -/
def Acc.pagein : Acc := { Acc.read .paddock with rd := false, engine := true }

/-- The walk of a PAGEIN with the checks of Table ADR-5 (03 R50): the leaf entry that its descriptor names. -/
def State.pageinLeaf (s : State) (p : Paddock) (d : List Byte) : Except Stop Word :=
  let va := descWord d 0
  let bad : Except Stop Word := .error (.fault s .xlate 3 (some 16))
  if field va 48 16 ≠ 0 then bad
  else
    let fails (f : XFault) : Except Stop Word := if f.code = .xlate then bad else .error (.fault s f.code 3 none)
    match s.walk (some s.cur) p va with
    | .error f => fails f
    | .ok (at_, e, level) =>
      match (leafCheck p.desc p.num (s.ownDevice (leafDevice e)) e level Acc.pagein).filter fun f => f.code != .tierMiss with
      | some f => fails f
      | none =>
      if at_ ≠ natAt d 16 8 ∨ level ≠ pageinLevel (natAt d 24 1) then bad
      else if leafTier e = 1 ∨ (leafTier e = 0 ∧ bit e 8) then .ok e
      else bad

/-- A PAGEIN from its start to the shadow that awaits its publish. -/
def State.startPagein (s : State) (k : Cmd) (i : Instr) : Except Stop State := do
  let (s, d) ← s.readDesc k i
  checkDesc s i d (pageinChecks d)
  match s.paddock? k.owner.pdk with
  | none => .error (.fault s .xlate 3 (some 16))
  | some p =>
    let size := pageinSize (natAt d 24 1)
    let frame := natAt d 8 8
    let page : Extent := (natAt d 0 8, size)
    s.notHeld k [page]
    let e ← s.pageinLeaf p d
    match p.desc.frameFault frame size with
    | some off => .error (.fault s .perm 2 (some off))
    | none =>
      if leafTier e = 0 then .ok ((s.popBox .bte).succeed k 1 0)
      else if s.tierDown (leafPage e) then .error (.fault s .xlate 0 (some 0))
      else if (s.accessError (some s.cur) (.mem (leafPage e) none .wb false) size false).isSome then
        .error (.fault s .eccUncorr 0 (((s.accessError (some s.cur) (.mem (leafPage e) none .wb false) size false).map (·.2))))
      else
        let s ← s.track k page
        let slot : Option (BitVec 6) := if bit e 20 then some (field e 21 6) else none
        let data := s.readPhysBytes (s.keyOf slot) (leafPage e) size
        let run : Run := { tgt := .mem frame (s.keyOf slot) (leafCache e) false, bytes := data }
        let swap : LeafSwap := { pa := natAt d 16 8, old := e, new := residentLeaf e frame }
        let x := s.shadowOf k .package [run] page (some (k.ends .none (tokenWord .none 0 size)))
        .ok ((s.popBox .bte).addShadow { x with leaf := some swap })

/-- PAGEIN. -/
def execPagein (tok : Reg) (ext : BitVec 48) (s : State) : Out :=
  let k := s.headCmd .bte tok
  .next (s.settle .bte k ((s.resume k).startPagein k (.pagein tok ext)))

/-! ## PUBLISH (15 R335) -/

/-- The pending ranges of the focused core that share a byte with a range. -/
def State.rangesIn (s : State) (x : Extent) : List PendRange :=
  s.me.ranges.filter fun r => Extent.meets (r.start, r.len) x

/-- The writes that a PUBLISH of a range makes visible. -/
def State.runsIn (s : State) (x : Extent) : List Run :=
  let due := (s.rangesIn x).map (·.cmd)
  (s.shadows.filter fun y => y.core == s.cur && due.contains y.cmd).flatMap (·.runs)

/-- A set of shadow writes published by a PUBLISH: a join's is dropped, since it does not publish again at the commit,
and a BTE command ends as by its own publish. -/
def State.publishNow (s : State) (y : Shadow) : State :=
  let (s, done) := s.publishShadow y
  if y.isJoin then s.dropShadow y.id else s.endShadow y done

/-- The writes of the ranges that a PUBLISH names made visible in one step. -/
def State.publishIn (s : State) (x : Extent) : State :=
  let due := (s.rangesIn x).map (·.cmd)
  let s := (s.shadows.filter fun y => y.core == s.cur && due.contains y.cmd).foldl State.publishNow s
  s.mapMe fun c => { c with ranges := c.ranges.filter fun r => !due.contains r.cmd }

/-- Whether a command of the focused core, waiting or in progress, has still to write into a range. -/
def State.writesInto (s : State) (id : Nat) (x : Extent) : Bool :=
  ((s.unstarted id).any fun y => Extent.meets x y.2)
    || s.mcasts.any fun m => m.core == s.cur && (s.rangesIn x).any fun r => r.cmd == m.cmd.id

/-- PUBLISH: it waits for the commands that have still to write into the range, then publishes (15 R335) once no read
stands in the way (11 R219). -/
def execPublish (tok : Reg) (addr : BitVec 48) (len : BitVec 32) (_scope : Scope) (s : State) : Out :=
  let k := s.headCmd .bte tok
  let x : Extent := (addr.toNat, len.toNat)
  .next
    (if s.writesInto k.id x then
       s.settle .bte k (.error (.pause ((s.resume k).heldBy (.ranges [x]))))
     else if s.splits (s.runsIn x) then s
     else
       let n := (s.rangesIn x).length
       ((s.popBox .bte).publishIn x).succeed k 0 n)

/-! ## MCAST (06 R114, 15 R333) -/

/-- The checks on the fields of an MCAST descriptor. -/
def mcastChecks (d : List Byte) : List (Bool × Nat) :=
  [(descZero d 6 2, descOff 0 0), (decide (1 ≤ natAt d 8 4 ∧ natAt d 8 4 ≤ 2 ^ 21), descOff 8 0),
    (decide (natAt d 14 1 < 8), descOff 14 0), (natAt d 15 1 != 0, descOff 15 0),
    (descZero d 22 2 && natAt d 16 8 % 32 == 0, descOff 16 0), (descZero d 24 40, descOff 24 0)]

/-- Where a piece of an MCAST's source is not in WB pages (15 R333): the lowest faulting offset. -/
def State.sourceWb (s : State) (a : Agent) (off va n : Nat) : Nat → Except Stop State
  | 0 => .ok s
  | c + 1 =>
    if n = 0 then .ok s
    else
      let m := min n (4096 - va % 4096)
      match s.engTarget a va m false with
      | (s, .error f) => .error (stopOf s f 0 off va)
      | (s, .ok t) => if t.isWb then s.sourceWb a (off + m) (va + m) (n - m) c else .error (.fault s .perm 0 (some off))

/-- Whether a destination core fails at once: fused, outside the Paddock, or a request that its partition could never
grant (06 R114). -/
def State.mcastFails (s : State) (p : Option Paddock) (c : CoreNum) (part gran : Nat) : Bool :=
  match p with
  | none => true
  | some p => !(p.desc.ownsCore c && s.enabledCore c) || decide ((getAt p.desc.parts part (0, 0)).2 < gran)

/-- The request of one destination. -/
def McastRun.request (m : McastRun) (group : GroupNum) : LoftReq :=
  { who := .mcast m.core m.cmd.id, granules := granulesFor m.size, count := m.reads, part := m.part,
    pdk := m.cmd.owner.pdk, group := group, task := { pdk := m.cmd.owner.pdk, name := noTask, run := 0 } }

/-- Whether every destination has been granted or has failed. -/
def McastRun.decided (m : McastRun) : Bool :=
  (upTo 8).all fun d => !bit m.mask d || bit m.failed d || (getAt m.granted d none).isSome

/-- The tiles already granted to an MCAST released without counting down. -/
def State.releaseMcast (s : State) (m : McastRun) : State :=
  m.granted.foldl (fun s h =>
    match h with
    | some h => s.modLoft (handleCore h) fun l => l.release (handleSlot h)
    | none => s) s

/-- The handle table of an MCAST as bytes. -/
def McastRun.table (m : McastRun) : List Byte :=
  (upTo 8).flatMap fun d =>
    bytesOf (match getAt m.granted d none with | some h => if bit m.failed d then 0 else h.toNat | none => 0) 4

/-- Destinations that have succeeded. -/
def McastRun.served (m : McastRun) : Nat := ((upTo 8).filter fun d => bit m.mask d && !bit m.failed d).length

/-- The granules of a tile that meet an uncorrectable error when its first `n` bytes are written (06 R114). -/
def Loft.badIn (l : Loft) (slot n : Nat) : Bool :=
  match l.tile? slot with
  | some t => (t.granules.take (granulesFor n)).any l.bad.contains
  | none => false

/-- Some bytes delivered to one destination of an MCAST: a destination whose write meets an uncorrectable error fails,
and its tile is released without counting down (06 R114). -/
def State.deliverTo (x : State × McastRun) (bs : List Byte) (d : Nat) : State × McastRun :=
  let (s, m) := x
  match getAt m.granted d none with
  | none => (s, m)
  | some h =>
    if (s.loftAt (handleCore h)).badIn (handleSlot h) bs.length then
      (s.modLoft (handleCore h) fun l => l.release (handleSlot h),
        { m with granted := updAt m.granted d fun _ => none, failed := m.failed ||| (1#8 <<< d) })
    else (s.modLoft (handleCore h) fun l => l.writeBytes (handleSlot h) 0 bs, m)

/-- The delivery on the issuer's core (the focus): the source is read once and written into every granted tile, and the
handle table's shadow is left with the token's word (15 Table CMD-2). -/
def State.deliverMcast (s : State) (m : McastRun) : Except Stop State := do
  let a := s.keeperOf m.cmd
  let s ← s.sourceWb { a with kept := false } 0 m.src.toNat m.size (pieces m.src.toNat m.size)
  let (s, bs) ← s.readMem a 0 0 m.src.toNat m.size
  let (s, m) := (upTo 8).foldl (fun x d => State.deliverTo x bs d) (s, m)
  let (s, rs) ← s.spanMem a 2 0 m.htab.toNat m.table
  let code : Code := if m.failed = 0 then .none else .mcastPartial
  let word := tokenWord code m.failed.toNat (m.size * m.served)
  .ok (s.addShadow (s.shadowOf m.cmd .package rs (m.htab.toNat, 32) (some (m.cmd.ends code word))))

/-- An MCAST suspended on a tier page with its grants and what it has read (03 R59). -/
def State.suspendMcast (s : State) (m : McastRun) (f : FaultInfo) : State :=
  let k := { m.cmd with trail := s.journal.made ++ s.journal.left }
  let s : State := { s with mcasts := s.mcasts ++ [{ m with cmd := k, tier := some (f.val0.setWidth 48) }] }
  (s.tierEvent k.owner.pdk f.val0 k.addr).raiseFor s.cur k.owner f none

/-- An MCAST whose destinations are all decided goes on; a fault of its source or of its handle table releases the
granted tiles and ends it. -/
def State.concludeMcast (s : State) (m : McastRun) : State :=
  match (s.resume m.cmd).deliverMcast m with
  | .ok s' => s'.putDown
  | .error .wait | .error (.pause _) => s.putDown
  | .error (.tier s' f) => (s'.suspendMcast m f).putDown
  | .error (.fault s' code operand off) =>
    (((s'.releaseMcast m).dropWork m.cmd.id).refuse m.cmd code operand off).putDown

/-- An MCAST from its start to the requests of its destinations. -/
def State.startMcast (s : State) (k : Cmd) (i : Instr) : Except Stop State := do
  let (s, d) ← s.readDesc k i
  checkDesc s i d (mcastChecks d)
  let src := field (descWord d 0) 0 48
  let size := natAt d 8 4
  let htab := field (descWord d 16) 0 48
  s.notHeld k [(src.toNat, size)]
  let s ← s.sourceWb (s.agentOf k) 0 src.toNat size (pieces src.toNat size)
  let s ← s.track k (htab.toNat, 32)
  let part := natAt d 14 1
  let mask : Byte := BitVec.ofNat 8 (natAt d 15 1)
  let p := s.paddock? k.owner.pdk
  let cores := clusterCores s.cur
  let failed : Nat := ((upTo 8).map fun n =>
    if bit mask n && s.mcastFails p (getAt cores n 0) part (granulesFor size) then 2 ^ n else 0).sum
  let m : McastRun :=
    { cmd := { k with desc := some d }, core := s.cur, src := src, size := size, reads := natAt d 12 2, part := part, mask := mask,
      htab := htab, granted := List.replicate 8 none, failed := BitVec.ofNat 8 failed }
  let s := s.popBox .bte
  if m.decided then .ok (s.concludeMcast m)
  else
    let group := match s.record? k.owner with | some r => r.group | none => 0xFFFF
    let asks := (upTo 8).filter fun n => bit mask n && !bit m.failed n
    let s := asks.foldl (fun s n =>
      s.modLoft (getAt cores n 0) fun l => { l with incoming := l.incoming ++ [m.request group] }) s
    .ok { s with mcasts := s.mcasts ++ [m] }

/-- MCAST. -/
def execMcast (tok : Reg) (ext : BitVec 48) (s : State) : Out :=
  let k := s.headCmd .bte tok
  .next (s.settle .bte k ((s.resume k).startMcast k (.mcast tok ext)))

/-! ## Grants (06 R104) -/

/-- An MCAST in progress concluded once its destinations are all decided and it waits for no page. -/
def State.advanceMcast (s : State) (old m : McastRun) : State :=
  if m.decided && m.tier.isNone then
    let s := { s with mcasts := s.mcasts.filter fun x => x != old }
    s.onCore m.core fun s => s.concludeMcast m
  else { s with mcasts := s.mcasts.map fun x => if x = old then m else x }

/-- The grants that an MCAST has received on a core taken up, and the command concluded if it can be. -/
def State.collectMcast (s : State) (c : CoreNum) (m : McastRun) : State :=
  match (s.loftAt c).takeGrant (.mcast m.core m.cmd.id) with
  | none => s.advanceMcast m m
  | some (h, l) =>
    (s.modLoft c fun _ => l).advanceMcast m { m with granted := updAt m.granted (c.toNat % 8) fun _ => some h }

/-- LOFT_GRANT_CLK: one grant step of a core's Loft; a core that no Paddock owns grants nothing. -/
def execLoftGrantClk (core : CoreNum) (s : State) : Out :=
  .next
    (match s.paddockOf core with
     | none => s
     | some p =>
       let s := s.modLoft core fun l => l.grantClk core p.desc.parts
       (s.mcasts.filter fun m => clusterIx m.core == clusterIx core).foldl (fun s m => s.collectMcast core m) s)

end Sys2Proof.Machine
end

