-- ==== Sys2Proof/Machine/Launch.lean ====
section
/-!
DEFINITION. Launches and task groups: launch records (04 R63, R64), the forming of a group (R65), the generator, the
retirement of a group (R70, 06 R111), and the LAUNCH command (15 R341).
-/
namespace Sys2Proof.Machine

/-! ## Launch records (04 Tables SCH-1, SCH-2) -/

/-- DOMAIN of a level descriptor; the reserved codes are refused first. -/
def domainOf (n : Nat) : Domain :=
  match n with | 0 => .package | 1 => .die | 2 => .cluster | 3 => .core | _ => .sequence

/-- SCOPE of a level descriptor; the reserved codes are refused first. -/
def scopeOf (n : Nat) : Scope :=
  match n with | 0 => .core | 1 => .cluster | 2 => .die | 3 => .package | _ => .system

/-- The level descriptor in a word. -/
def levelDesc (w : Word) : LevelDesc :=
  { count := (field w 0 32).toNat, domain := domainOf (field w 32 3).toNat, scope := scopeOf (field w 35 3).toNat,
    qbound := (field w 38 17).toNat }

/-- The number of level descriptors in use. -/
def launchLevels (bs : List Byte) : Nat := natAt bs 2 1

/-- The refusals of R63 as conditions with the byte offset of each field, in ascending order. -/
def launchChecks (bs : List Byte) : List (Bool × Nat) :=
  [(decide (1 ≤ launchLevels bs ∧ launchLevels bs ≤ 8), 2),
    (natAt bs 8 8 % 4 == 0 && decide (natAt bs 8 8 < 2 ^ 48), 8),
    (natAt bs 24 4 % 64 == 0, 24), (natAt bs 32 8 % 8 == 0, 32)]
  ++ (upTo (min (launchLevels bs) 8)).map fun k =>
    let w := descWord bs (64 + 8 * k)
    (decide ((field w 32 3).toNat ≤ 4 ∧ (field w 35 3).toNat ≤ 4 ∧ (field w 38 17).toNat ≤ 65536), 68 + 8 * k)

/-- Units of a domain in a Paddock (04 R64). -/
def State.domainUnits (s : State) (p : Paddock) (d : Domain) : Nat :=
  match d with
  | .package | .sequence => 1
  | .die => ((upTo 4).filter fun k => (upTo 20).any fun c => bit p.desc.clusters (20 * k + c)).length
  | .cluster => ((upTo 80).filter fun c => bit p.desc.clusters c).length
  | .core => (s.coresOf p).length

/-- COUNT of a level resolved (04 R64). -/
def State.resolveCount (s : State) (p : Paddock) (l : LevelDesc) : Nat :=
  if l.count = 0 then s.domainUnits p l.domain else l.count

/-- The lowest group number that is not live (04 R65). -/
def Paddock.freeGroup (p : Paddock) : GroupNum :=
  BitVec.ofNat 16 (((upTo (Config.maxGroups + 1)).find? fun n => (p.group? (BitVec.ofNat 16 n)).isNone).getD 0)

/-- The group that an accepted launch record forms. -/
def State.groupOf (s : State) (p : Paddock) (bs : List Byte) (sink : GroupSink) : Group :=
  let levels := (upTo (launchLevels bs)).map fun k => levelDesc (descWord bs (64 + 8 * k))
  let flags : Byte := BitVec.ofNat 8 (natAt bs 3 1)
  { number := p.freeGroup, prio := natAt bs 1 1 % 4, rpl := bit flags 0, ute := bit flags 1, tile := bit flags 2,
    entry := BitVec.ofNat 48 (natAt bs 8 8), fbase := BitVec.ofNat 48 (natAt bs 16 6), fstride := natAt bs 24 4,
    doneFut := descWord bs 32, levels := levels, counts := levels.map (s.resolveCount p), next := 0, aborted := false,
    failed := false, firstFault := 0, abandoned := 0, replays := 0, seqCore := none, sink := sink }

/-- Whether a Paddock has as many live groups as it may have. -/
def Paddock.groupsFull (p : Paddock) : Bool := decide (Config.maxGroups ≤ p.groups.length)

/-- The generator of an accepted launch installed. -/
def State.installGroup (s : State) (p : Paddock) (bs : List Byte) (sink : GroupSink) : State :=
  s.modPaddock p.num fun x => { x with groups := x.groups ++ [s.groupOf p bs sink] }

/-! ## LAUNCH (15 R341) -/

/-- A LAUNCH from its start to the installation of its generator; it holds its inbox while 256 groups are live. -/
def State.startLaunch (s : State) (k : Cmd) (early : Bool) (addr : BitVec 48) : Except Stop State := do
  s.notHeld k [(addr.toNat, 256)]
  let (s, bs) ← s.readMem (s.keeperOf k) 0 0 addr.toNat 256
  require s (natAt bs 0 1 == k.owner.pdk.toNat) .illegalCmd 0 (some 0)
  match s.paddock? k.owner.pdk with
  | none => .error (.fault s .illegalCmd 0 (some 0))
  | some p =>
    match firstBad (launchChecks bs) with
    | some off => .error (.fault s .illegalCmd 0 (some off))
    | none =>
      if p.groupsFull then .error (.pause s)
      else
        let s := s.popBox .ostler
        if early then .ok ((s.installGroup p bs .none).succeed k 0 0)
        else .ok (s.installGroup p bs (.token s.cur (k.ends .none 0)))

/-- LAUNCH. -/
def execLaunch (tok : Reg) (early : Bool) (addr : BitVec 48) (s : State) : Out :=
  let k := s.headCmd .ostler tok
  .next (s.settle .ostler k ((s.resume k).startLaunch k early addr))

/-! ## The generator (04 R65) -/

/-- A record as it is made, before it is ready. -/
def Record.fresh (name : RecName) (code : BitVec 48) (level prio : Nat) (rpl ute tile : Bool) (frame : BitVec 48)
    (group : GroupNum) (parent : BitVec 48) (join : Nat) (q : QueueId) (core : CoreNum) : Record :=
  { name := name, code := code, level := level, prio := prio, rpl := rpl, ute := ute, tile := tile, ctx := false,
    frame := frame, group := group, parent := parent, join := join, wkind := .none, waddr := 0, replays := 0,
    hcode := 0, state := .joining, readyAt := 0, base := prio, order := 0, queue := q, lastCore := core, draw := none,
    saved := none, image := none, tied := none, phase := 0, horizon := false, triggered := false, waitTarget := none,
    run := 0, front := false, waitFrom := 0, slots := frame }

/-- The bound of a level's records in a queue: the smaller of the Paddock's and the level's (04 R68). -/
def Paddock.boundAt (p : Paddock) (l : LevelDesc) (q : QueueId) : Nat :=
  if l.qbound = 0 then p.queueBound q else min (p.queueBound q) l.qbound

/-- The queue of a group's level-0 record, and the core that a record of a SEQUENCE is tied to. -/
def State.generatorQueue (s : State) (p : Paddock) (g : Group) (l : LevelDesc) (i : Nat) :
    Option (QueueId × Option CoreNum) :=
  let pick (units : List Nat) (f : Nat → QueueId) : Option (QueueId × Option CoreNum) :=
    if units.isEmpty then none else some (f (getAt units (i % units.length) 0), none)
  match l.domain with
  | .package => some (.package, none)
  | .die => pick ((upTo 4).filter fun k => (upTo 20).any fun c => bit p.desc.clusters (20 * k + c))
      fun k => .die (BitVec.ofNat 2 k)
  | .cluster => pick ((upTo 80).filter fun c => bit p.desc.clusters c) .cluster
  | .core => pick ((s.coresOf p).map (·.toNat)) fun c => .deque (BitVec.ofNat 10 c)
  | .sequence =>
    if i = 0 then some (.package, none)
    else if p.records.any fun r => r.name == .level0 g.number (i - 1) then none
    else g.seqCore.map fun c => (.deque c, some c)

/-- The level-0 record of a generator's next index. -/
def Group.record (g : Group) (q : QueueId) (tied : Option CoreNum) : Record :=
  let frame := g.fbase + BitVec.ofNat 48 (g.next * g.fstride)
  { Record.fresh (.level0 g.number g.next) g.entry 0 g.prio g.rpl g.ute g.tile frame g.number 0 0 q
      (match q with | .deque c => c | _ => 0) with tied := tied }

/-- A new record enters its queue, and is ready at once when its JOIN is zero. -/
def State.addRecord (s : State) (pdk : PdkNum) (r : Record) (front : Bool) : State :=
  let s := s.modPaddock pdk fun p => { p with records := p.records ++ [r] }
  if r.join = 0 then s.makeReady (ownerOf pdk r.name) front else s

/-- GENERATOR_ENQUEUE: the next level-0 record, while its queue is below its bound. -/
def execGeneratorEnqueue (pdk : PdkNum) (group : GroupNum) (s : State) : Out :=
  .next
    (match s.paddock? pdk with
     | none => s
     | some p =>
       match p.group? group, (p.group? group).bind fun g => g.levels.head? with
       | some g, some l =>
         if getAt g.counts 0 0 ≤ g.next then s
         else
           match s.generatorQueue p g l g.next with
           | none => s
           | some (q, tied) =>
             if p.bounded q < p.boundAt l q then
               (s.modGroup pdk group fun g => { g with next := g.next + 1 }).addRecord pdk (g.record q tied) false
             else s
       | _, _ => s)

/-! ## Retirement (04 R70, 06 R111) -/

/-- STATUS of a group. -/
def Group.status (g : Group) : HStatus := if g.aborted then .aborted else if g.failed then .fault else .ok

/-- Bytes [3:0] of a completion: STATUS, first fault code and Paddock (02 R37). -/
def Group.head (g : Group) (pdk : PdkNum) : List Byte := [g.status.toByte, g.firstFault, pdk.setWidth 8, 0]

/-- The payload of a COMPLETION (02 R37). -/
def Group.payload (g : Group) (pdk : PdkNum) (tag : BitVec 32) (now : Nat) : List Byte :=
  g.head pdk ++ bytesOf tag.toNat 4 ++ bytesOf now 8 ++ bytesOf g.abandoned 4 ++ bytesOf g.replays 4

/-- A fault that ends a group; the first one's code is kept. -/
def Group.fail (g : Group) (code : Byte) : Group :=
  { g with failed := true, firstFault := if g.firstFault = 0 then code else g.firstFault }

/-- A tile of a group that still holds counts reported as abandoned: an event, or a supervisor trap. -/
def State.reportAbandoned (s : State) (p : Paddock) (h : BitVec 32) (left : Nat) : State :=
  let v0 : Word := h.setWidth 64
  let v1 : Word := BitVec.ofNat 64 left
  if p.desc.abandonTrap then s.raiseDetached p.num { code := .tileAbandoned, val0 := v0, val1 := v1 }
  else
    s.report .fault (some p.num) false { FaultRecord.blank s with
      code := Code.tileAbandoned.toByte, source := handleCore h, val0 := v0, val1 := v1 }

/-- One tile reclaimed: released without counting down, counted and reported. -/
def State.reclaimTile (s : State) (p : Paddock) (g : GroupNum) (c : CoreNum) (slot left : Nat) : State :=
  let h := mkHandle c slot ((s.loftAt c).gen slot)
  let s := s.modLoft c fun l =>
    { l.release slot with abandon := if l.abandon = BitVec.allOnes 32 then l.abandon else l.abandon + 1 }
  (s.modGroup p.num g fun x => { x with abandoned := x.abandoned + 1 }).reportAbandoned p h left

/-- The tiles that a group still holds, in ascending order of core and slot. -/
def State.tilesOf (s : State) (pdk : PdkNum) (g : GroupNum) : List (CoreNum × Nat × Tile) :=
  s.liveCores.flatMap fun e =>
    ((s.loftAt e.2).tiles.filter fun t => t.2.pdk == pdk && t.2.group == g).map fun t => (e.2, t.1, t.2)

/-- Tiles reclaimed in order up to the first with held reads; the flag says that none is left. -/
def State.reclaim (s : State) (p : Paddock) (g : GroupNum) : List (CoreNum × Nat × Tile) → State × Bool
  | [] => (s, true)
  | (c, slot, t) :: rest =>
    match t.state with
    | .counted _ (_ + 1) => (s, false)
    | .counted n 0 => (s.reclaimTile p g c slot n).reclaim p g rest
    | .pinned => (s.reclaimTile p g c slot 0).reclaim p g rest

/-- Bytes [7:4] of the value that DONEFUT gets. -/
def Group.doneTail (g : Group) : List Byte :=
  match g.sink with
  | .message tag => bytesOf tag.toNat 4
  | .token _ _ | .none => bytesOf g.number.toNat 4

/-- DONEFUT filled at PADDOCK privilege, as FPUT fills a future; a fault makes the group's STATUS FAULT. -/
def State.fillDone (s : State) (p : Paddock) (g : Group) : State :=
  let fails (c : Code) : State := s.modGroup p.num g.number fun x => x.fail c.toByte
  if g.doneFut = 0 then s
  else
    match (s.translate none p.num g.doneFut { Acc.both .paddock with future := true }).2 with
    | .ok t =>
      match s.accessError none t 8 true with
      | some (c, _) => fails c
      | none => s.fillFuture t (wordOf (g.head p.num ++ g.doneTail))
    | .error f => fails f.code

/-- The outcome of a group handed to whoever launched it. -/
def State.reportGroup (s : State) (p : Paddock) (g : Group) : State :=
  match g.sink with
  | .message tag =>
    s.post (laneOf (some p.num))
      { type := .completion, tag := tag, pdk := some p.num, payload := g.payload p.num tag s.clk, record := none }
  | .token c k => s.finish c { k with word := wordOf (g.head p.num ++ bytesOf g.number.toNat 4) }
  | .none => s

/-- Every command of a core that waits or runs in its engines. -/
def Core.commands (c : Core) : List Cmd :=
  let port (p : Port) : List Cmd := p.queue ++ p.run.toList.map (·.cmd) ++ p.finished.map (·.cmd)
  c.fabric.ingress.flatMap port ++ c.fabric.egress.flatMap port ++ c.fabric.control ++ c.join.inbox ++ c.bte ++ c.remote
    ++ c.ostler ++ c.suspended.map (·.cmd)
    ++ match c.fabric.config with
       | some g => g.paramWrites.filterMap (·.cmd) ++ g.arms.map (·.cmd) ++ g.halted.toList
       | none => []

/-- Whether an owner is a record that has ended, of a group unless the name says another. -/
def Paddock.ended (p : Paddock) (g : GroupNum) (o : Owner) : Bool :=
  o.pdk == p.num && o.name != noTask && (p.records.all fun r => r.name != o.name || r.run != o.run)
    && match o.name with | .level0 h _ => h == g | .spawned _ => true

/-- Whether an effect of a group with no live record is still to be published: a store, an atomic, a command or a set of
shadow writes that one of its records left behind (04 R70 step 2). -/
def State.lingers (s : State) (p : Paddock) (g : GroupNum) : Bool :=
  let left : Owner → Bool := p.ended g
  (s.liveCores.any fun e =>
      let c := s.coreAt e.2
      (c.pipe.stores.any fun x => left x.owner) || (c.pipe.atomics.any fun x => left x.owner)
        || c.commands.any fun k => left k.owner)
    || (s.mcasts.any fun m => left m.cmd.owner) || (s.shadows.any fun x => left x.owner)
    || s.hub.remoteWaits.any fun w => left w.completion.owner

/-- The steps of R70 for a group with no live record: it waits for held reads in the first and for its effects in the
second. -/
def State.retireGroup (s : State) (p : Paddock) (g : Group) : State :=
  let (s, clear) := s.reclaim p g.number (s.tilesOf p.num g.number)
  if !clear || s.lingers p g.number then s
  else
    let now (s : State) : Group := ((s.paddock? p.num).bind (·.group? g.number)).getD g
    let s := s.fillDone p (now s)
    let s := s.reportGroup p (now s)
    s.modPaddock p.num fun x => { x with groups := x.groups.filter fun y => y.number != g.number }

/-- A group retired; nothing happens while a record of the group is live. -/
def State.groupRetire (s : State) (pdk : PdkNum) (group : GroupNum) : State :=
  match s.paddock? pdk with
  | none => s
  | some p =>
    match p.group? group with
    | none => s
    | some g =>
      if g.next < getAt g.counts 0 0 || p.records.any fun r => r.group == group then s else s.retireGroup p g

end Sys2Proof.Machine
end

