-- ==== Sys2Proof/Machine/System.lean ====
section
/-!
DEFINITION. System registers, traps, events, instruction fetch and words that decode to nothing (13 R254 to
R256, R279 to R291; 12 R233).
-/
namespace Sys2Proof.Machine

/-! ## System registers (13 Table INT-6) -/

/-- STATUS as a word (13 Table INT-7). -/
def Status.word (t : Status) : Word :=
  BitVec.ofNat 64 (t.priv.toNat + t.ppriv.toNat * 4 + t.intrap.toNat * 16 + t.ute.toNat * 32 + t.tile.toNat * 64
    + t.rpl.toNat * 128 + t.horizon.toNat * 256 + t.event.toNat * 512)

/-- F8SEL as a word (07 Table FMT-2). -/
def Seq.f8sel (q : Seq) : Word := BitVec.ofNat 64 (q.f8va.toNat + q.f8vb.toNat * 256)

/-- Loop entry `n`, 0 the outermost. -/
def Seq.loopAt (q : Seq) (n : Nat) : Option LoopEntry := q.loops.reverse[n]?

/-- LPBND of an entry: start[47:2] and end (13 Table INT-6). -/
def LoopEntry.bounds (e : LoopEntry) : Word :=
  BitVec.ofNat 64 ((field e.start 2 46).toNat + ((e.last - e.start).toNat / 4 + 1) % 2 ^ 17 * 2 ^ 46)

/-- The device identifier as a word: 0xFFFF_FFFF when none is written (01 R14). -/
def State.deviceWord (s : State) : BitVec 32 :=
  match s.hub.devid with | some d => d.setWidth 32 | none => 0xFFFFFFFF

/-- The value of a system register (13 R279). -/
def State.readSys (s : State) (n : SysReg) : Word :=
  let q := s.me.seq
  match n with
  | .status => q.status.word
  | .trapcause => q.trapcause.setWidth 64
  | .trappc => q.trappc
  | .trapval0 => q.trapval0
  | .trapval1 => q.trapval1
  | .utvec => q.utvec
  | .stvec => q.stvec
  | .uscratch => q.uscratch
  | .sscratch => q.sscratch
  | .f8sel => q.f8sel
  | .fflags => q.fflags.setWidth 64
  | .cycle => BitVec.ofNat 64 s.clk
  | .corenum => BitVec.ofNat 64 (s.cur.toNat + s.herePdk.toNat * 2 ^ 16)
  | .devid => s.deviceWord.setWidth 64
  | .lpdepth => BitVec.ofNat 64 q.loops.length
  | .lpcnt k => match q.loopAt k.toNat with | some e => e.count | none => 0
  | .lpbnd k => match q.loopAt k.toNat with | some e => e.bounds | none => 0

/-- Registers that USER may not name (13 Table INT-6). -/
def supervisorReg : SysReg → Bool
  | .stvec | .sscratch => true
  | _ => false

/-- Registers that no privilege may write. -/
def readOnlyReg : SysReg → Bool
  | .cycle | .corenum | .devid | .lpdepth | .lpcnt _ | .lpbnd _ => true
  | _ => false

/-- A privilege field after a write of two bits: 2 and 3 leave it unchanged (13 R280). -/
def privField (old : Priv) (v : BitVec 2) : Priv :=
  match v with | 0 => .user | 1 => .paddock | _ => old

/-- STATUS after a write (13 R280). -/
def Status.write (t : Status) (v : Word) : Status :=
  match t.priv with
  | .user => { t with intrap := bit v 4 }
  | .paddock =>
    { t with priv := privField t.priv (field v 0 2), ppriv := privField t.ppriv (field v 2 2), intrap := bit v 4 }

/-- A binary8 variant field after a write: reserved numbers leave it unchanged (07 R116). -/
def variantField (old v : BitVec 5) : BitVec 5 := if v.toNat < 4 then old else v

/-- The sequencer after a system register is written; read-only registers are not written. -/
def Seq.writeSys (q : Seq) (n : SysReg) (v : Word) : Seq :=
  match n with
  | .status => { q with status := q.status.write v }
  | .trapcause => { q with trapcause := field v 0 14 }
  | .trappc => { q with trappc := v }
  | .trapval0 => { q with trapval0 := v }
  | .trapval1 => { q with trapval1 := v }
  | .utvec => { q with utvec := v }
  | .stvec => { q with stvec := v }
  | .uscratch => { q with uscratch := v }
  | .sscratch => { q with sscratch := v }
  | .f8sel => { q with f8va := variantField q.f8va (field v 0 5), f8vb := variantField q.f8vb (field v 8 5) }
  | .fflags => { q with fflags := field v 0 5 }
  | _ => q

/-- A system register number that USER may not name raises PRIVILEGE before sources are examined (12 R233). -/
def State.withSysReg (s : State) (word : IWord) (n : SysReg) (k : Out) : Out :=
  if supervisorReg n then s.privileged word (n.bits.setWidth 64) k else k

/-- MFS (13 R289). -/
def execMfs (sd : Reg) (n : SysReg) (s : State) : Out :=
  s.withSysReg (encode (.mfs sd n)) n (s.withOps [] [sd] (s.put sd (s.readSys n)).done)

/-- MTS (13 R289). -/
def execMts (o : SOps) (n : SysReg) (s : State) : Out :=
  s.withSysReg (encode (.mts o n)) n
    (s.withOps [(o.sa, o.ea)] []
      (if readOnlyReg n then s.illegal ((encode (.mts o n)).setWidth 64) 0x13
       else (s.mapSeq fun q => q.writeSys n (s.reg o.sa)).done))

/-! ## Traps and returns -/

/-- TRAP: a service request, with TRAPPC after it (13 R287). -/
def execTrap (n : BitVec 11) (s : State) : Out :=
  .next (s.takeTrap { code := .none, val0 := n.setWidth 64, val1 := 0 } (s.pc + 4) false)

/-- BKPT (13 R288). -/
def execBkpt (s : State) : Out := s.trap .brk 0 0

/-- ERET (13 R286). -/
def execEret (s : State) : Out :=
  let st := s.me.seq.status
  let word := (encode .eret).setWidth 64
  if !st.intrap then s.illegal word 0x12
  else if st.priv.toNat < st.ppriv.toNat then s.trap .privilege word 0
  else s.returnFromTrap

/-- HALT (13 R291); at RUNQ depth 1 or more it is illegal (14 R309). -/
def execHalt (s : State) : Out :=
  s.privileged (encode .halt) 0
    (if s.me.callers.isEmpty then .next (s.holdTask 0)
     else s.illegal ((encode .halt).setWidth 64) 0x23)

/-- A word that decodes to nothing raises ILLEGAL with its reason (12 R233). -/
def execUndecodableInstruction (word : IWord) (reason : IllegalReason) (s : State) : Out :=
  let r : Word := match reason with | .opcode => 0 | .fn => 1 | .unusedField => 2 | .reservedValue => 3
  s.illegal (word.setWidth 64) r

/-! ## Events (13 R290, 14 R300) -/

/-- The event flag of a core set: it completes every pending FEMPTY, or else ends a WFE, or else stays set. -/
def State.signal (s : State) (c : CoreNum) : State :=
  let k := s.coreAt c
  if !k.pipe.fempties.isEmpty then
    let s := s.modCore c fun k => { k with pipe := { k.pipe with fempties := [] } }
    k.pipe.fempties.foldl (fun s f => s.onCore c fun s => s.fillFor f.owner f.reg 1 fun s _ => s) s
  else if k.sleeping.isSome then s.modCore c fun k => { k with sleeping := none }
  else s.modCore c fun k => { k with seq := { k.seq with status := { k.seq.status with event := true } } }

/-- SEV: every core of the issuer's cluster (13 R290). -/
def execSev (s : State) : Out :=
  ((clusterCores s.cur).foldl (fun s c => if s.enabledCore c then s.signal c else s) s).done

/-- WFE: a set flag is cleared; otherwise the core sleeps, to resume after the WFE (13 R290). -/
def execWfe (s : State) : Out :=
  if s.me.seq.status.event then
    (s.mapSeq fun q => { q with status := { q.status with event := false } }).done
  else .next (s.advance.mapMe fun c => { c with sleeping := some s.clk })

/-- A core that has slept for 65,536 clk sleeps no more. -/
def Core.endSleep (c : Core) (now : Nat) : Core :=
  if c.sleeping.any fun since => decide (since + Config.waitLimit ≤ now) then { c with sleeping := none } else c

/-- WFE_TIMEOUT: a sleep ends without an event (13 R290). -/
def execWfeTimeout (core : CoreNum) (s : State) : Out := .next (s.modCore core fun c => c.endSleep s.clk)

/-! ## Instruction fetch (13 R254, R256; 05 Table COR-1) -/

/-- The line of the instruction buffer that holds an address. -/
def Core.lineOf (c : Core) (pc : Word) : Option FetchLine :=
  if field pc 48 16 != 0 then none else c.ibuf.find? fun l => l.tag == field pc 8 40

/-- A core whose line at an address counts as the one used last. -/
def Core.useLine (c : Core) (pc : Word) : Core :=
  match takeFirst (fun l => l.tag == field pc 8 40) c.ibuf with
  | some (l, rest) => { c with ibuf := l :: rest }
  | none => c

/-- The instruction word at an address of a line. -/
def FetchLine.word (l : FetchLine) (pc : Word) : IWord := field l.bytes (8 * (pc.toNat % 256)) 32

/-- The bytes of a line as one value. -/
def lineBytes (bs : List Byte) : BitVec 2048 := BitVec.ofNat 2048 (natOf bs)

/-- The target of the first byte of the 256-byte block that holds an access. -/
def Target.blockStart (t : Target) : Target :=
  match t with
  | .mem pa k c f => .mem (pa / 256 * 256) k c f
  | .loft c k off => .loft c k (off / 256 * 256)
  | .ctrl p d off => .ctrl p d (off / 256 * 256)
  | .remote d pa c => .remote d (pa / 256 * 256) c

/-- The missing line at the focused core's pc is read into its instruction buffer in place of the one used longest
ago, and the instruction waits for it until a later clk (kind 12, 14 Table SYN-5), or the fetch traps. -/
def State.fetchLine (s : State) : State :=
  let pc := s.pc
  let a := Acc.instr s.priv
  if pc.toNat % 4 ≠ 0 then s.takeTrap { code := .misalign, val0 := pc, val1 := 4 } pc false
  else
    match s.translate (some s.cur) s.herePdk pc a with
    | (s', .error f) => s'.takeTrap f pc false
    | (s', .ok t) =>
      match s'.endError false t.blockStart 256 false with
      | some c => let (f, u) := s'.errorInfo pc pc c; u.takeTrap f pc false
      | none =>
      let line : FetchLine := { tag := field pc 8 40, bytes := lineBytes (s'.readTarget t.blockStart 256) }
      (s'.afterRead t).mapMe fun c => { c.blockOn s.clk Block.unit with ibuf := (line :: c.ibuf).take Config.ibufLines }

/-- Whether the focused core runs instructions now. -/
def State.running (s : State) : Bool := (s.me.task.isSome || s.me.detached.isSome) && s.me.sleeping.isNone

/-- INSTRUCTION_FETCH: a core whose next line is missing reads it (13 R254). -/
def execInstructionFetch (core : CoreNum) (s : State) : Out :=
  .next (s.onCore core fun s =>
    if s.running && ((s.me.lineOf s.pc).isNone || s.pc.toNat % 4 != 0) then s.fetchLine else s)

end Sys2Proof.Machine
end

