-- ==== Sys2Proof/Machine/Schedule.lean ====
section
/-!
DEFINITION. Starting and saving tasks (04 R66, R69, R77, R82; 13 R279, R282, R283; 05 R88), the dispatch step of a
die's Ostler (04 R72 to R75; 05 R95, R96), and RUNQ (14 R309).
-/
namespace Sys2Proof.Machine

/-! ## The 640-byte save area (04 R77, 13 Table INT-9) -/

/-- Bytes [639:528] of a save area. -/
def Seq.systemBytes (q : Seq) : List Byte :=
  let first := (q.status.word.toNat % 2 ^ 9) + q.trapcause.toNat * 2 ^ 16 + q.f8sel.toNat * 2 ^ 32 + q.fflags.toNat * 2 ^ 48
  let entry (f : LoopEntry → Word) (n : Nat) : Nat := match q.loopAt n with | some e => (f e).toNat | none => 0
  bytesOf first 8 ++ bytesOf q.utvec.toNat 8 ++ bytesOf q.uscratch.toNat 8 ++ bytesOf q.trappc.toNat 8
    ++ bytesOf q.trapval0.toNat 8 ++ bytesOf q.trapval1.toNat 8
    ++ (upTo 4).flatMap (fun n => bytesOf (entry (·.count) n) 8)
    ++ (upTo 4).flatMap (fun n => bytesOf (entry LoopEntry.bounds n) 8)

/-- A whole save area: registers, full bits, resume address and system state. -/
def Seq.saveArea (q : Seq) : List Byte :=
  (upTo 64).flatMap (fun n => bytesOf (q.reg (BitVec.ofNat 6 n)).toNat 8) ++ bytesOf q.full.toNat 8
    ++ bytesOf q.pc.toNat 8 ++ q.systemBytes

/-- A loop entry from its saved count and bounds. -/
def loopFrom (count bounds : Word) : LoopEntry :=
  let start : Word := (field bounds 0 46).setWidth 64 <<< 2
  { start := start, last := start + BitVec.ofNat 64 (4 * ((field bounds 46 17).toNat - 1)), count := count }

/-- The loop stack of a save area, innermost entry first: the entries with nonzero bounds, of which entry 0 is the
outermost. -/
def loopsFrom (b : List Byte) : List LoopEntry :=
  ((upTo 4).reverse.filter fun n => descWord b (608 + 8 * n) != 0).map fun n =>
    loopFrom (descWord b (576 + 8 * n)) (descWord b (608 + 8 * n))

/-- A sequencer restored from a save area on a core, whose own registers stay (13 R282). PRIV and PPRIV hold a legal
level. -/
def Seq.fromArea (own : Seq) (b : List Byte) : Seq :=
  let w := descWord b 528
  let st : Status := { Status.reset with priv := privField .user (field w 0 2), ppriv := privField .user (field w 2 2),
                                         intrap := bit w 4 }
  { own with
    regs := Vector.ofFn fun n => descWord b (8 * n.val)
    full := descWord b 512 ||| 1
    pc := descWord b 520
    status := st
    trapcause := field w 16 14, trappc := descWord b 552, trapval0 := descWord b 560, trapval1 := descWord b 568
    utvec := descWord b 536, uscratch := descWord b 544
    f8va := field w 32 5, f8vb := field w 40 5, fflags := field w 48 5
    loops := loopsFrom b }

/-! ## Starting a task (04 R69, 13 R279, R283) -/

/-- The registers at a fresh start (04 Table SCH-4). -/
def freshRegs (r : Record) (counts : List Nat) : List (Reg × Word) :=
  let frame : Word := r.frame.setWidth 64
  let addr : Word := match r.name with | .spawned a => a.setWidth 64 | .level0 _ _ => 0
  let index : Word := match r.name with | .spawned _ => 0 | .level0 _ i => BitVec.ofNat 64 i
  [(1, frame), (2, addr), (3, index), (12, BitVec.ofNat 64 (r.group.toNat + r.level * 2 ^ 16)), (63, frame)]
    ++ (upTo 8).map fun k => (BitVec.ofNat 6 (4 + k), BitVec.ofNat 64 (getAt counts k 0))

/-- The sequencer at a fresh start on a core: STVEC and SSCRATCH are the core's, UTVEC the Paddock's. -/
def Seq.start (own : Seq) (p : Paddock) (r : Record) (counts : List Nat) : Seq :=
  let q : Seq := { Seq.reset with
    pc := r.code.setWidth 64, stvec := own.stvec, sscratch := own.sscratch, utvec := p.desc.utvec
    status := { Status.reset with ute := r.ute, tile := r.tile, rpl := r.rpl } }
  (freshRegs r counts).foldl (fun q x => q.put x.1 x.2) q

/-- The sequencer of a record that resumes: UTE, TILE, RPL and HORIZON come from the record and the task's history,
the event flag is clear (13 R282, R283). -/
def Seq.resume (own : Seq) (saved : Seq) (r : Record) : Seq :=
  { saved with
    stvec := own.stvec, sscratch := own.sscratch
    status := { saved.status with ute := r.ute, tile := r.tile, rpl := r.rpl, horizon := r.horizon, event := false } }

/-- A stretch of memory read by the Ostler at PADDOCK privilege. No rule states a second value for an access that ends
with an error, and it is free (notes/assumptions/92.md). -/
def State.ostlerRead (s : State) (pdk : PdkNum) (va n : Nat) : Except FaultInfo (List Byte) :=
  match s.readMem { core := none, pdk := pdk, priv := .paddock } 0 0 va n with
  | .ok (_, bs) => .ok bs
  | .error (.tier _ f) => .error f
  | .error (.fault _ c _ _) => .error { code := c, val0 := BitVec.ofNat 64 va, val1 := Config.freeWord s.freeIx }
  | .error .wait | .error (.pause _) => .error { code := .xlate, val0 := BitVec.ofNat 64 va, val1 := 0 }

/-- The first fault of a stretch that the Ostler would touch, with its detail word; it may be an error that the access meets
(01 R9, R11). -/
def State.ostlerFault (s : State) (pdk : PdkNum) (va n : Nat) (a : Acc) : Option FaultInfo :=
  ((upTo (pieces va n)).findSome? fun k =>
    let at_ := if k = 0 then va else (va / 4096 + k) * 4096
    match (s.translate none pdk (BitVec.ofNat 64 at_) a).2 with
    | .ok t =>
      (s.accessError none t (min (va + n) ((va / 4096 + k + 1) * 4096) - at_) a.wr).map fun (c, _) =>
        { code := c, val0 := BitVec.ofNat 64 at_, val1 := Config.freeWord s.freeIx }
    | .error f => some f)

/-- Bytes written by the Ostler at PADDOCK privilege, where every page allows it. -/
def State.ostlerWrite (s : State) (pdk : PdkNum) (va : Nat) (bs : List Byte) : State :=
  match s.spanMem { core := none, pdk := pdk, priv := .paddock } 0 0 va bs with
  | .ok (s', rs) => s'.applyRuns rs
  | .error _ => s

/-- The 32 bytes of a record (04 Table SCH-3). -/
def Record.bytes (r : Record) : List Byte :=
  let w0 := r.code.toNat + r.level * 2 ^ 48 + r.prio * 2 ^ 51 + r.rpl.toNat * 2 ^ 53 + r.ute.toNat * 2 ^ 54
    + r.tile.toNat * 2 ^ 55 + r.ctx.toNat * 2 ^ 56
  let kind := match r.wkind with | .none => 0 | .future => 1 | .barrier => 2 | .held => 3
  let waddr := match r.wkind with | .future | .barrier => r.waddr.toNat / 8 * 8 | .none | .held => 0
  bytesOf w0 8 ++ bytesOf (r.frame.toNat + r.group.toNat * 2 ^ 48) 8 ++ bytesOf (r.parent.toNat + r.join * 2 ^ 48) 8
    ++ bytesOf (kind + waddr + r.replays * 2 ^ 48 + r.hcode.toNat * 2 ^ 56) 8

/-- The write-back of a dispatched record (04 R66): a record that SPAWN made is written at its address. -/
def State.writeBack (s : State) (pdk : PdkNum) (r : Record) : Except FaultInfo State :=
  match r.name with
  | .level0 _ _ => .ok s
  | .spawned a =>
    match s.ostlerFault pdk a.toNat 32 (Acc.write .paddock) with
    | some f => .error f
    | none => .ok (s.ostlerWrite pdk a.toNat r.bytes)

/-- The sequencer with which a record starts or resumes on the focused core. -/
def State.seqFor (s : State) (p : Paddock) (r : Record) : Except FaultInfo Seq :=
  let own := s.me.seq
  if !r.ctx then .ok (own.start p r (match p.group? r.group with | some g => g.counts | none => []))
  else
    match r.saved with
    | some x => .ok (own.resume x.seq r)
    | none =>
      match s.ostlerFault p.num r.frame.toNat 640 (Acc.read .paddock) with
      | some f => .error f
      | none =>
        match s.ostlerRead p.num r.frame.toNat 640 with
        | .ok b => .ok (own.resume (own.fromArea b) r)
        | .error f => .error f

/-- The engines of the focused core at a start: a saved image restored, or everything empty; the counters are zeroed at the
fresh start of a tile task (05 R88, 10 R202). -/
def Core.withImage (c : Core) (tile : Bool) (i : Option SavedImage) : Core :=
  match i with
  | some x =>
    { c with
      fabric := { c.fabric with config := x.config, ingress := x.ingress, egress := x.egress, lastCount := x.lastCount,
                                lastCounters := x.lastCounters, control := x.control }
      join := { x.join with power := .idle }
      loft := { c.loft with incoming := c.loft.incoming ++ x.asks, granted := c.loft.granted ++ x.grants }
      consumes := c.consumes ++ x.consumes }
  | none =>
    if tile then { c with fabric := { c.fabric with lastCount := 0, lastCounters := [] }, join := Join.reset }
    else { c with fabric := { c.fabric with lastCount := 0 }, join := c.join.vacate }

/-- The task of a record on a core. -/
def Record.task (r : Record) (pdk : PdkNum) (run effPrio draw : Nat) : Task :=
  { owner := { pdk := pdk, name := r.name, run := run }, group := r.group, level := r.level, prio := r.prio,
    effPrio := effPrio, parent := r.parent, draw := draw, triggered := r.triggered, noVictim := false }

/-- Record 0 of a SEQUENCE ties the group to the core that runs it (04 R65). -/
def State.noteSequence (s : State) (pdk : PdkNum) (r : Record) : State :=
  match r.name with
  | .level0 g 0 => s.modGroup pdk g fun x => { x with seqCore := x.seqCore.or (some s.cur) }
  | _ => s

/-- A record started on the focused core: written back, then begun or resumed. `inline` keeps the engines for a task
that RUNQ starts beside its caller. A write-back or a save area that faults holds the record, and the flag is false
(04 R66, R69). -/
def State.startTask (s : State) (p : Paddock) (r : Record) (inline_ : Bool) : State × Bool :=
  let o := ownerOf p.num r.name
  let bad (f : FaultInfo) : State × Bool := (s.drew.holdRecord o { f with val0 := r.name.toWord }, false)
  match s.writeBack p.num r with
  | .error f => bad f
  | .ok s =>
    match s.seqFor p r with
    | .error f => bad f
    | .ok q =>
      let run := if r.run ≠ 0 ∧ r.ctx then r.run else p.order + 1
      let draw := if r.tile then r.draw.getD 0 else 0
      let t := r.task p.num run (s.effOf p r) draw
      let s := s.modPaddock p.num fun x => { x with order := x.order + 1 }
      let s := s.modRecord o fun x =>
        { x with state := .running s.cur, lastCore := s.cur, run := run, saved := none, image := none, tied := none,
                 front := false }
      let s := s.noteSequence p.num r
      let s := s.mapMe fun c =>
        let c := { c with seq := q, task := some t, ibuf := [], sleeping := none, detached := none, stopping := none }
        if inline_ then c else c.withImage r.tile r.image
      (s, true)

/-! ## Eligibility (04 R72, 05 R95) -/

/-- The draw test of a tile task on a die; what tasks returned in this clk counts as admitted still (05 R95;
notes/assumptions/20.md). -/
def State.drawFits (s : State) (p : Paddock) (d : DieNum) (draw : Nat) : Bool :=
  decide (s.admitted d (some p.num) + s.returning d (some p.num) + draw ≤ getAt p.desc.draw d.toNat 0
    ∧ s.admitted d none + s.returning d none + draw + 7 * (s.die d).jtok ≤ (s.die d).pool)

/-- Whether a record's draw fits on a die; a task without tiles draws nothing. -/
def State.fits (s : State) (p : Paddock) (d : DieNum) (r : Record) : Bool := !r.tile || s.drawFits p d (r.draw.getD 0)

/-- Whether a core runs nothing and has run nothing in this clk, is powered and ready, and may take a task (04 R72; 01 R18,
R21). -/
def State.coreFree (s : State) (c : CoreNum) : Bool :=
  (s.coreAt c).idle && (s.inClk.left.all fun x => x.1 != c) && s.enabledCore c && s.mgmt.main && s.hub.ready && !(s.die (dieOf c)).tripped
    && (s.coreAt c).pipe.traps.all fun t => !t.detached

/-- Whether a core may take a record now. -/
def State.eligible (s : State) (p : Paddock) (r : Record) (c : CoreNum) : Bool :=
  s.coreFree c && r.tied.all (· == c) && s.fits p (dieOf c) r

/-- The cores of a queue's domain unit. -/
def State.unitCores (s : State) (p : Paddock) (q : QueueId) : List CoreNum :=
  (s.coresOf p).filter fun c =>
    match q with
    | .package => true
    | .die d => dieOf c == d
    | .cluster k => clusterIx c == k
    | .deque d => c == d

/-- The record that a die sees at the head of a queue: the front of the foremost sublist whose front passes the draw
test there (04 R72), among those that `ok` admits. -/
def State.headFor (s : State) (p : Paddock) (d : DieNum) (q : QueueId) (ok : Record → Bool) : Option Record :=
  let a := p.agingExp q.dieNum
  let rs := (p.ready q).filter ok
  (upTo 4).findSome? fun e =>
    match foremost s.clk a false (rs.filter fun r => r.eff s.clk a == e) with
    | some r => if s.fits p d r then some r else none
    | none => none

/-- The shared queues that a core serves. -/
def sharedQueues (c : CoreNum) : List QueueId := [.package, .die (dieOf c), .cluster (clusterIx c)]

/-- The lowest effective priority number among the heads of the shared queues that a core serves. -/
def State.bestShared (s : State) (p : Paddock) (c : CoreNum) (ok : Record → Bool) : Option Nat :=
  ((sharedQueues c).filterMap fun q => (s.headFor p (dieOf c) q ok).map (s.effOf p)).min?

/-- The deque entry that a core pops in step 1 of R73. -/
def State.ownPop (s : State) (p : Paddock) (c : CoreNum) (ok : Record → Bool) : Option Record :=
  match s.headFor p (dieOf c) (.deque c) fun r => ok r && r.tied.all (· == c) with
  | none => none
  | some r =>
    match s.bestShared p c ok with
    | none => some r
    | some e => if s.effOf p r ≤ e then some r else none

/-! ## Placement from the shared queues (04 R73, R74) -/

/-- Weight of a queue on a die: the package queue's from die 0's page (04 Table SCH-5). -/
def Paddock.weight (p : Paddock) (q : QueueId) : Nat :=
  match p.ctrlOf q.dieNum with
  | none => 1
  | some k => (match q with | .package => k.pkgw | .die _ => k.diew | .cluster _ | .deque _ => k.clw).toNat

/-- The shared queues visible to a die in rotation order: package, die, then cluster queues. -/
def State.rotation (s : State) (d : DieNum) : List (PdkNum × QueueId) :=
  let here := s.paddocks.filter fun p => (s.coresOf p).any fun c => dieOf c == d
  here.map (fun p => (p.num, .package)) ++ here.map (fun p => (p.num, .die d))
    ++ (upTo 20).flatMap fun k =>
      let n := 20 * d.toNat + k
      (here.filter fun p => bit p.desc.clusters n).map fun p => (p.num, .cluster n)

/-- The queues with a placeable head on a die: the head, its effective priority and its eligible cores. -/
def State.placeable (s : State) (d : DieNum) : List (PdkNum × QueueId × Record × Nat × List CoreNum) :=
  (s.rotation d).filterMap fun (n, q) =>
    (s.paddock? n).bind fun p =>
      (s.headFor p d q fun _ => true).bind fun r =>
        let cores := (s.unitCores p q).filter fun c => dieOf c == d && s.eligible p r c
        if cores.isEmpty then none else some (n, q, r, s.effOf p r, cores)

/-- wrr_next over the queues with heads of the best priority (04 R73). -/
def State.wrrNext (s : State) (d : DieNum) (qs : List (PdkNum × QueueId)) : Option (PdkNum × QueueId) × Nat :=
  let again : Option ((PdkNum × QueueId) × Nat) := (s.die d).wrr.bind fun w =>
    (s.paddock? w.pdk).bind fun p =>
      if qs.contains (w.pdk, w.queue) && decide (w.times < p.weight w.queue) then some ((w.pdk, w.queue), w.times + 1)
      else none
  match again with
  | some (q, n) => (some q, n)
  | none =>
    let rot := s.rotation d
    let at_ := match (s.die d).wrr with
      | some w => match rot.findIdx? (· == (w.pdk, w.queue)) with | some i => i + 1 | none => 0
      | none => 0
    (((rot.drop at_) ++ (rot.take at_)).find? fun x => qs.contains x, 1)

/-- The round-robin pointer of a queue. -/
def Paddock.pointerOf (p : Paddock) (q : QueueId) : CoreNum :=
  match p.pointers.find? fun x => x.queue == q with | some x => x.pointer | none => 0

/-- A queue's pointer moved. -/
def Paddock.setPointer (p : Paddock) (q : QueueId) (c : CoreNum) : Paddock :=
  { p with pointers := { queue := q, pointer := c } :: p.pointers.filter fun x => x.queue != q }

/-- Score of a candidate core: TEMP + K × DROOP of its latest sample. -/
def State.score (s : State) (k : Nat) (c : CoreNum) : Int :=
  (s.coreAt c).sensor.temp.toInt + (k * (s.coreAt c).sensor.droop.toNat : Nat)

/-- The earliest candidate with the lowest score. -/
def State.lowestScore (s : State) (k : Nat) : List CoreNum → Option CoreNum
  | [] => none
  | c :: rest =>
    match s.lowestScore k rest with
    | none => some c
    | some x => if s.score k c ≤ s.score k x then some c else some x

/-- The core that place chooses and the core that the pointer proposed (04 R74). -/
def State.choose (s : State) (p : Paddock) (q : QueueId) (cores : List CoreNum) : Option (CoreNum × CoreNum) :=
  let ptr := p.pointerOf q
  let order := cores.filter (fun c => ptr.toNat ≤ c.toNat) ++ cores.filter fun c => c.toNat < ptr.toNat
  let (dev, k) := match p.ctrlOf q.dieNum with | some x => (x.devD.toNat, x.droopK.toNat) | none => (0, 4)
  match order, s.lowestScore k (order.take (dev + 1)) with
  | first :: _, some c => some (c, first)
  | _, _ => none

/-- A record dispatched on a core. -/
def State.dispatchOn (s : State) (pdk : PdkNum) (n : RecName) (c : CoreNum) : State :=
  s.onCore c fun s =>
    match s.paddock? pdk with
    | some p => match p.record? n with | some r => (s.startTask p r false).1 | none => s
    | none => s

/-- Step 1 of R73 on one core. -/
def State.popOwn (s : State) (c : CoreNum) : State :=
  match s.paddockOf c with
  | none => s
  | some p =>
    if !s.coreFree c then s
    else match s.ownPop p c fun _ => true with
      | some r => s.dispatchOn p.num r.name c
      | none => s

/-- The device with the package heads that other dies have taken in this clk back in their queues: what every die sees when
it selects in the clk (04 R73). -/
def State.asSeen (s : State) : State :=
  s.inClk.taken.foldl (fun s x => s.modRecord (ownerOf x.1 x.2.name) fun _ => x.2) s

/-- What a die selects in step 2: Paddock, queue, record, its cores, and the rotation's new count. -/
def State.selection (s : State) (d : DieNum) : Option (PdkNum × QueueId × Record × List CoreNum × Nat) :=
  let all := s.asSeen.placeable d
  match (all.map fun x => x.2.2.2.1).min? with
  | none => none
  | some e =>
    let best := all.filter fun x => x.2.2.2.1 == e
    let (q, n) := s.wrrNext d (best.map fun x => (x.1, x.2.1))
    (q.bind fun q => best.find? fun x => (x.1, x.2.1) == q).map fun x => (x.1, x.2.1, x.2.2.1, x.2.2.2.2, n)

/-- The dies in the order in which they take a contested package head (04 R73). -/
def State.takers (s : State) : List DieNum := (upTo 4).map fun k => s.lastTaker + 1 + BitVec.ofNat 2 k

/-- Whether another die has taken a package head in this clk, or an earlier die of that order that has still to move in it
selects the same head. -/
def State.contested (s : State) (d : DieNum) (pdk : PdkNum) (n : RecName) : Bool :=
  (s.inClk.taken.any fun x => x.1 == pdk && x.2.name == n)
    || (s.takers.takeWhile (· != d)).any fun e =>
      !s.inClk.moved.contains e &&
        match s.selection e with
        | some (m, .package, _) => m == pdk
        | _ => false

/-- A package head taken by a die (04 R73). -/
def State.takeHead (s : State) (d : DieNum) (pdk : PdkNum) (r : Record) : State :=
  { s with lastTaker := d, inClk := { s.inClk with taken := s.inClk.taken ++ [(pdk, r)] } }

/-- Step 2 of R73: one placement from the shared queues of a die, which selects again in the next clk when another die takes
the head that it selects. -/
def State.placeOne (s : State) (d : DieNum) : State :=
  match s.selection d with
  | none => s
  | some (n, q, r, cores, times) =>
    if q == .package && s.contested d n r.name then s
    else
      match (s.paddock? n).bind fun p => s.choose p q cores with
      | none => s
      | some (c, first) =>
        let s := if q == .package then s.takeHead d n r else s
        let s := s.modDie d fun x => { x with wrr := some { pdk := n, queue := q, times := times } }
        (s.modPaddock n fun p => p.setPointer q (first + 1)).dispatchOn n r.name c

/-! ## Stealing (04 R75) -/

/-- The victim of a thief: the next core of its cluster whose deque is not empty. -/
def State.victim (s : State) (p : Paddock) (c : CoreNum) : Option CoreNum :=
  let mates := (clusterCores c).filter fun x => p.desc.ownsCore x && s.enabledCore x && x != c
  let order := mates.filter (fun x => c.toNat < x.toNat) ++ mates.filter fun x => x.toNat < c.toNat
  order.find? fun x => !(p.ready (.deque x)).isEmpty

/-- The top entry of a victim's deque, a record tied to another core passed over. -/
def Paddock.topFor (p : Paddock) (now : Nat) (victim thief : CoreNum) : Option Record :=
  foremost now (p.agingExp (dieOf victim)) true ((p.ready (.deque victim)).filter fun r => r.tied.all (· == thief))

/-- Step 3 of R73 on one core: it takes the top entry of its victim's deque. The victim is the one that it sees in the
clk, `seen` being the Paddocks before the owners' pops and the other thieves: a thief that finds no entry left there
tries its next victim in the next clk (04 R75). -/
def State.steal (seen : List Paddock) (s : State) (c : CoreNum) : State :=
  match s.paddockOf c with
  | none => s
  | some p =>
    if !s.coreFree c || !(p.ready (.deque c)).isEmpty then s
    else
      match (seen.find? fun x => x.num == p.num).bind fun x => s.victim x c with
      | none => s
      | some v =>
        match p.topFor s.clk v c with
        | some r => if s.eligible p r c then s.dispatchOn p.num r.name c else s
        | none => s

/-! ## DISPATCH_CLK -/

/-- Whether a ready tile task of a Paddock at the head of a queue that a die serves fails the draw test (05 R96). -/
def State.throttled (s : State) (p : Paddock) (d : DieNum) : Bool :=
  let queues := ((s.rotation d).filter fun x => x.1 == p.num).map (·.2)
    ++ ((s.coresOf p).filter fun c => dieOf c == d).map .deque
  queues.any fun q =>
    match p.head s.clk q with
    | some r => r.tile && !s.fits p d r
    | none => false

/-- THROTTLE of every Paddock on a die counted. -/
def State.countThrottle (s : State) (d : DieNum) : State :=
  s.paddocks.foldl (fun s p =>
    if s.throttled p d then s.modCtrl p.num d fun k => { k with throttle := satAdd32 k.throttle 1 } else s) s

/-- Ready records that have an eligible core after the step begin to count their wait anew (04 R82). -/
def State.noteWaits (s : State) : State :=
  { s with paddocks := s.paddocks.map fun p =>
      { p with records := p.records.map fun r =>
          if r.state == .queued && (s.unitCores p r.queue).any fun c => s.eligible p r c then { r with waitFrom := s.clk }
          else r } }

/-- DISPATCH_CLK: own-deque pops, one placement, and stealing (04 R73). -/
def execDispatchClk (die : DieNum) (s : State) : Out :=
  .next
    (let seen := s.paddocks
     let s := s.countThrottle die
     let s := (dieCores die).foldl State.popOwn s
     let s := s.placeOne die
     let s := ((dieCores die).foldl (State.steal seen) s).noteWaits
     { s with inClk := { s.inClk with moved := s.inClk.moved ++ [die] } })

/-! ## RUNQ (14 R309) -/

/-- The record that steps 1 and 2 of R73 would give the focused core, tile tasks passed over. -/
def State.runqRecord (s : State) (p : Paddock) : Option Record :=
  let ok (r : Record) : Bool := !r.tile && r.tied.all (· == s.cur)
  match s.ownPop p s.cur ok with
  | some r => some r
  | none =>
    match s.bestShared p s.cur ok with
    | none => none
    | some e =>
      (sharedQueues s.cur).findSome? fun q =>
        match s.headFor p (dieOf s.cur) q ok with
        | some r => if s.effOf p r == e then some r else none
        | none => none

/-- RUNQ: a record runs inline, and sd says whether one did. -/
def execRunq (sd : Reg) (s : State) : Out :=
  s.withOps [] [sd] <| s.afterAcquire <|
    match s.me.task, s.paddock? s.herePdk with
    | some t, some p =>
      if Config.maxRunq ≤ s.me.callers.length then (s.put sd 0).done
      else
        match s.runqRecord p with
        | none => (s.put sd 0).done
        | some r =>
          let caller : SavedCaller := { seq := s.me.seq, task := t, dst := sd }
          match s.startTask p r true with
          | (s', false) => (s'.put sd 0).done
          | (s', true) => .next (s'.mapMe fun c => { c.unblock s.clk with callers := caller :: c.callers })
    | _, _ => (s.put sd 0).done

/-- The caller of an inline task restored after its RUNQ, with sd = 1. -/
def Core.restoreCaller (c : Core) (x : SavedCaller) (rest : List SavedCaller) : Core :=
  { c with seq := (x.seq.advance).put x.dst 1, task := some x.task, callers := rest, ibuf := [], sleeping := none }

end Sys2Proof.Machine
end

