-- ==== Sys2Proof/Machine/Sync.lean ====
section
/-!
DEFINITION. Futures and register state (14 R298 to R301; 04 R76) and phase barriers (14 R302, R303; 04 R78).
-/
namespace Sys2Proof.Machine

/-! ## Futures -/

/-- The access that a future instruction makes. -/
def State.futureAcc (s : State) (wr : Bool) : Acc := { Acc.read s.priv with wr := wr, future := true }

/-- The full bit at a target; only HBM words carry one (04 R76). -/
def State.fullAt (s : State) : Target → Bool
  | .mem pa _ _ _ => s.fullBit pa
  | _ => false

/-- LDF: a full future's value as an acquire, or FUTURE_EMPTY (14 R298). Later issue is held until the home
answers, so an LDF waits here for the task's own accesses to the word and is then answered in one step. One that finds the
future empty reads nothing (11 R222). -/
def execLdf (o : UOps) (s : State) : Out :=
  s.withOps [(o.sa, o.ea)] [o.sd] <| s.afterAcquire <|
    s.withTarget (s.reg o.sa) 8 (s.futureAcc false) fun s' t =>
      if s'.ownPending t 8 then s'.stall Block.unit
      else
        s'.withRead (s.reg o.sa) t 8 fun v =>
          if s'.fullAt t then (v.put o.sd (wordOf (s'.readTarget t 8))).done
          else s'.trap .futureEmpty (s.reg o.sa) (o.sd.setWidth 64)

/-- FPUT: a store-queue entry that is a release, and fills the future (14 R298). -/
def execFput (o : PairOps) (s : State) : Out :=
  s.withOps [(o.sa, o.ea), (o.sb, o.eb)] [] <| s.afterAcquire <| s.needStores 1 <|
    s.withTarget (s.reg o.sa) 8 (s.futureAcc true) fun s' t =>
      (s'.passHorizon.addStore (s.reg o.sa) t 8 (s.reg o.sb) .fput true).done

/-- FCLR: a relaxed store-queue entry that empties the future (14 R298). -/
def execFclr (o : SOps) (s : State) : Out :=
  s.withOps [(o.sa, o.ea)] [] <| s.afterAcquire <| s.needStores 1 <|
    s.withTarget (s.reg o.sa) 8 (s.futureAcc true) fun s' t =>
      (s'.passHorizon.addStore (s.reg o.sa) t 8 0 .fclr false).done

/-- FTEST: the full bit, filled as a load is (14 R298). -/
def execFtest (o : UOps) (s : State) : Out :=
  s.withOps [(o.sa, o.ea)] [o.sd] <| s.afterAcquire <| s.needLoads 1 <|
    s.withTarget (s.reg o.sa) 8 (s.futureAcc false) fun s' t =>
      (s'.addLoad (s.reg o.sa) t 8 o.sd .fullBit false).done

/-- FEMPTY: the register waits for an event (14 R300). An event flag that is already set fills it at once. -/
def execFempty (sd : Reg) (s : State) : Out :=
  s.withOps [] [sd]
    (if s.me.seq.status.event then
      ((s.mapSeq fun q => { q with status := { q.status with event := false } }).put sd 1).done
     else
      let e : PendEmpty := { reg := sd, since := s.clk, owner := s.here }
      ((s.mapPipe fun p => { p with fempties := p.fempties ++ [e] }).setEmpty sd).done)

/-- FEMPTY_TIMEOUT: 65,536 clk after issue the register fills with 0 (14 R300). -/
def execFemptyTimeout (core : CoreNum) (reg : Reg) (s : State) : Out :=
  .next (s.onCore core fun s =>
    match s.me.pipe.fempties.find? fun e => e.reg == reg with
    | some e =>
      if e.since + Config.waitLimit ≤ s.clk then
        (s.mapPipe fun p => { p with fempties := p.fempties.filter fun x => x.reg != reg }).fillTask s.cur e.owner reg 0
      else s
    | none => s)

/-- RFULL: whether a register is full, without examining it (14 R301). -/
def execRfull (sd sa : Reg) (s : State) : Out := s.withOps [] [sd] (s.put sd (ofBool (s.me.seq.isFull sa))).done

/-! ## Barriers -/

/-- The checks on a barrier's address (14 R302): NONCANON, a multiple of 16, translation with RD and WR, and a
page that counts as WB. The detail of the last carries level 0 (notes/assumptions/21.md). -/
def State.withBarrier (s : State) (va : Word) (go : State → Target → Out) : Out :=
  s.withTarget va 16 (Acc.both s.priv) fun s' t =>
    if t.isWb then go s' t
    else s'.trap .perm va (detail 0 .access (Acc.both s.priv))

/-- BARARR: an arrival, a release (14 R302). -/
def execBararr (o : SOps) (_scope : Scope) (s : State) : Out :=
  s.withOps [(o.sa, o.ea)] [] <| s.afterAcquire <| s.needStores 1 <|
    s.withBarrier (s.reg o.sa) fun s' t =>
      (s'.passHorizon.addStore (s.reg o.sa) t 16 0 .bararr true).done

/-- BAREXP: n more arrivals expected (14 R302). -/
def execBarexp (o : PairOps) (_scope : Scope) (s : State) : Out :=
  s.withOps [(o.sa, o.ea), (o.sb, o.eb)] [] <| s.afterAcquire <| s.needStores 1 <|
    s.withBarrier (s.reg o.sa) fun s' t =>
      if field (s.reg o.sb) 32 32 ≠ 0 then s'.illegal (s.reg o.sa) 0x22
      else (s'.passHorizon.addStore (s.reg o.sa) t 16 0 (.barexp (field (s.reg o.sb) 0 32)) false).done

/-- BARTOK: a token that fills when PHASE first differs from the value read here (14 R302). It reads PHASE after
the task's own accesses to the object (11 R208 rule 1). -/
def execBartok (o : UOps) (_scope : Scope) (s : State) : Out :=
  s.withOps [(o.sa, o.ea)] [o.sd] <| s.afterAcquire <|
    s.withBarrier (s.reg o.sa) fun s' t =>
      if s'.ownPending t 16 then s'.stall Block.unit
      else
        s'.withRead (s.reg o.sa) t 16 fun s' =>
          let b : PendBar := { dst := o.sd, va := s.reg o.sa, target := t, phase := s'.word32 t, owner := s.here }
          if o.sd = 0 then s'.done
          else ((s'.mapPipe fun p => { p with bartoks := p.bartoks ++ [b] }).setEmpty o.sd).done

end Sys2Proof.Machine
end

