-- ==== Sys2Proof/Machine/TaskOps.lean ====
section
/-!
DEFINITION. The task instructions SPAWN, RETIRE, ETRIG and YIELD (14 R307, R308, R310) and TSEND (14 R306), with the
commit of a task's join writes and consumes (10 R181, 06 R106, 11 R218).
-/
namespace Sys2Proof.Machine

/-! ## SPAWN (14 R307, 04 R68) -/

/-- The number of a queue as a blocked-state register names it (04 R81, kind 2). -/
def QueueId.number : QueueId → Nat
  | .package => 0 | .die d => 1 + d.toNat | .cluster k => 8 + k | .deque c => 128 + c.toNat

/-- The wait of a SPAWN for room in a queue (04 Table SCH-7 kind 2). -/
def queueBlock (q : QueueId) : Block := { okind := 2, detail := 0, object := BitVec.ofNat 48 q.number }

/-- The queue of a record that the focused core spawns (04 R68). -/
def State.spawnQueue (s : State) (l : LevelDesc) : QueueId :=
  match l.domain with
  | .package => .package
  | .die => .die (dieOf s.cur)
  | .cluster => .cluster (clusterIx s.cur)
  | .core | .sequence => .deque s.cur

/-- The record that SPAWN makes from the 32 bytes at an address. -/
def State.spawned (s : State) (t : Task) (a : BitVec 48) (bs : List Byte) (rpl ute tile : Bool) (q : QueueId) : Record :=
  Record.fresh (.spawned a) (field (descWord bs 0) 0 48) (t.level + 1) t.prio rpl ute tile (field (descWord bs 8) 0 48)
    t.group (field (descWord bs 16) 0 48) (field (descWord bs 16) 48 16).toNat q s.cur

/-- A checked SPAWN: it is a release, waits for room in the queue or traps, and enqueues its record. -/
def State.spawn (s : State) (p : Paddock) (t : Task) (l : LevelDesc) (a : Word) (bs : List Byte)
    (trap rpl ute tile : Bool) : Out :=
  let q := s.spawnQueue l
  let b := p.boundAt l q
  if !s.quiet then s.stall Block.unit
  else if b ≤ p.bounded q then
    if trap then s.trap .queueFull a (BitVec.ofNat 64 b) else s.stall (queueBlock q)
  else
    let r := s.spawned t (a.setWidth 48) bs rpl ute tile q
    (s.passHorizon.addRecord p.num r (match q with | .deque _ => true | _ => false)).done

/-- SPAWN. A handler with no task belongs to no level, so its SPAWN has no next level. -/
def execSpawn (o : SOps) (trap rpl ute tile : Bool) (s : State) : Out :=
  let word : Word := (encode (.spawn o trap rpl ute tile)).setWidth 64
  let a := s.reg o.sa
  s.withOps [(o.sa, o.ea)] [] <| s.afterAcquire <|
    s.withTarget a 32 (Acc.both s.priv) fun s' t =>
      match s'.me.task, s'.paddock? s'.herePdk with
      | some k, some p =>
        match p.levelOf k.group (k.level + 1) with
        | none => s'.illegal word 0x20
        | some l =>
          if (p.record? (.spawned (a.setWidth 48))).isSome then s'.illegal word 0x21
          else
            s'.withRead a t 32 fun s' =>
              let bs := s'.readTarget t 32
              if (field (descWord bs 0) 0 2 : BitVec 2) ≠ 0 then s'.illegal word 0x29
              else (s'.afterRead t).spawn p k l a bs trap rpl ute tile
      | _, _ => s'.illegal word 0x20

/-! ## TSEND (14 R306, 04 R67) -/

/-- ILLEGAL of 04 R67: TRAPVAL0 is the target address; no rule states TRAPVAL1 (notes/assumptions/24.md). -/
def State.noTarget (s : State) (a : Word) : Out :=
  let (w, s) := s.anyWord
  s.illegal a w

/-- TSEND: the handle is written into the target's port slot and the target's JOIN decremented, as a release. -/
def execTsend (o : PairOps) (port : BitVec 4) (s : State) : Out :=
  let a := s.reg o.sa
  let pdk := s.herePdk
  s.withOps [(o.sa, o.ea), (o.sb, o.eb)] [] <| s.afterAcquire <|
    if field (s.reg o.sb) 32 32 ≠ 0 then s.illegal ((encode (.tsend o port)).setWidth 64) 0x27
    else if !s.quiet then s.stall Block.unit
    else
      match (if field a 48 16 = 0 then s.record? (ownerOf pdk (.spawned (a.setWidth 48))) else none) with
      | none => s.noTarget a
      | some r =>
        if r.join = 0 then s.noTarget a
        else
          let slot := r.frame.toNat + 4 * port.toNat
          match s.ostlerFault pdk slot 4 (Acc.write .paddock) with
          | some f => .next (s.drew.takeTrap f s.pc false)
          | none =>
            let s := s.passHorizon.ostlerWrite pdk slot (bytesOf (field (s.reg o.sb) 0 32 : BitVec 32).toNat 4)
            ((s.decJoin pdk (a.setWidth 48)).getD s).done

/-! ## What a RETIRE or an ETRIG waits for (14 R308) -/

/-- The completions that the device still owes: of commands that ended, of shadow writes, of remote commands and of
launched groups. -/
def State.owed (s : State) : List Completion :=
  s.cores.flatMap (·.done) ++ s.shadows.filterMap (·.completion) ++ s.hub.remoteWaits.map (·.completion)
    ++ s.paddocks.flatMap fun p => p.groups.filterMap fun g =>
      match g.sink with | .token _ k => some k | .message _ | .none => none

/-- The token registers of a task that are still to fill. -/
def State.tokensOut (s : State) (o : Owner) : List Reg :=
  let cmds := s.cores.flatMap (·.commands) ++ s.mcasts.map (·.cmd)
  let tok (k : Cmd) : List Reg := [k.tok] ++ k.followTok.toList
  let follow := s.shadows.filterMap (·.followOn)
  (((cmds ++ follow).filter (·.owner == o)).flatMap tok ++ ((s.owed.filter (·.owner == o)).map (·.tok))).filter (· != 0)

/-- The join writes that the commit of a task publishes. -/
def State.joinRuns (s : State) (o : Owner) : List Run := (s.shadows.filter fun x => x.isJoin && x.owner == o).flatMap (·.runs)

/-- What the running task's RETIRE or ETRIG waits for now. -/
def State.retireBlock (s : State) : Option Block :=
  let o := s.here
  let ps := s.cores.map (·.pipe)
  let reg (n : Reg) : Block := { okind := 9, detail := n.setWidth 8, object := n.setWidth 48 }
  if !s.allIn then some Block.unit
  else
    match (ps.flatMap (·.fences)).find? (·.owner == o), (ps.flatMap (·.bartoks)).find? (·.owner == o),
        (ps.flatMap (·.fempties)).find? (·.owner == o), s.tokensOut o with
    | some f, _, _, _ => some { okind := 4, detail := 0, object := f.dst.setWidth 48 }
    | _, some b, _, _ => some { okind := 7, detail := 0, object := b.va.setWidth 48 }
    | _, _, some e, _ => some (reg e.reg)
    | _, _, _, t :: _ => some (reg t)
    | none, none, none, [] =>
      if s.configHere then some { okind := 11, detail := 0, object := 0 }
      else if (s.isTileTask && s.me.joinBusy o s.me.pipe.nextId) || s.splits (s.joinRuns o) then some Block.unit
      else none

/-! ## Committing a task (10 R181, 11 R218, 06 R106) -/

/-- The join writes of a task published in one step and its consumes counted. -/
def State.commitTask (s : State) (o : Owner) : State :=
  let mine (x : Shadow) : Bool := x.isJoin && x.owner == o
  let due := s.shadows.filter mine
  let kept : State := { s with shadows := s.shadows.filter fun x => !mine x }
  let s := kept.applyRuns (s.joinRuns o)
  let s := due.foldl (fun s x => s.modCore x.core fun c => { c with ranges := c.ranges.filter fun r => r.cmd != x.cmd }) s
  s.commitConsumes s.cur fun k => k.passed && !k.byConfig

/-- The parent's JOIN decremented unless an ETRIG has done so or there is no parent; none when the parent's address
holds no record known to the Ostler or its JOIN is zero (04 R67, R79). -/
def State.leaveParent (s : State) (t : Task) : Option State :=
  if t.triggered || t.parent = 0 then some s else s.decJoin t.owner.pdk t.parent

/-! ## RETIRE and ETRIG (14 R308, R309; 04 R79) -/

/-- The focused core after its task has ended: the caller of an inline task goes on, else the core becomes idle. -/
def State.endTask (s : State) (t : Task) : State :=
  let s := s.dropRecord t.owner
  match s.me.callers with
  | x :: rest => s.mapMe fun c => (c.unblock s.clk).restoreCaller x rest
  | [] => (if s.isTileTask then s.dropEngines s.cur else s).leaveCore

/-- RETIRE. A handler with no task has nothing to end: its core becomes idle. -/
def execRetire (s : State) : Out :=
  s.afterAcquire <|
    match s.me.task with
    | none => .next s.leaveCore
    | some t =>
      match s.retireBlock with
      | some b => s.stall b
      | none =>
        let s := s.commitTask t.owner
        match s.leaveParent t with
        | some s => .next (s.endTask t)
        | none => s.noTarget (t.parent.setWidth 64)

/-- ETRIG: a second one only publishes. -/
def execEtrig (s : State) : Out :=
  s.afterAcquire <|
    match s.me.task with
    | none => s.done
    | some t =>
      match s.retireBlock with
      | some b => s.stall b
      | none =>
        let s := s.commitTask t.owner
        match s.leaveParent t with
        | some s => (s.passHorizon.mapMe fun c => { c with task := some { t with triggered := true } }).done
        | none => s.noTarget (t.parent.setWidth 64)

/-! ## YIELD (14 R310, 04 R77) -/

/-- The targets of a 640-byte save area with the lengths of their pieces. -/
def State.withArea (s : State) (va : Word) (go : State → List (Target × Nat) → Out) : Out :=
  s.withTarget va 64 (Acc.write s.priv) fun s' t =>
    let first := min 640 (4096 - va.toNat % 4096)
    if first = 640 then go s' [(t, 640)]
    else
      match s'.translate (some s'.cur) s'.herePdk (va + BitVec.ofNat 64 first) (Acc.write s.priv) with
      | (s'', .error f) => .next (s''.takeTrap f s.pc false)
      | (s'', .ok u) => go s'' [(t, first), (u, 640 - first)]

/-- Bytes written piece by piece. -/
def State.writePieces (s : State) : List (Target × Nat) → List Byte → State
  | [], _ => s
  | (t, n) :: rest, bs => (s.perform t (bs.take n)).writePieces rest (bs.drop n)

/-- The running task's results that are still in a unit written, and its FEMPTY results filled with 0 (14 R300). -/
def State.settleUnits (s : State) : State :=
  let o := s.here
  let take (s : State) (u : Option PendResult) : State :=
    match u with | some r => if r.owner = o then s.put r.dst r.value else s | none => s
  let s := take (take s s.me.pipe.divUnit) s.me.pipe.fpUnit
  let keep (u : Option PendResult) : Option PendResult := u.filter fun r => r.owner != o
  let due := s.me.pipe.fempties.filter fun e => e.owner == o
  let s := s.mapPipe fun p =>
    { p with divUnit := keep p.divUnit, fpUnit := keep p.fpUnit, fempties := p.fempties.filter fun e => e.owner != o }
  due.foldl (fun s e => s.put e.reg 0) s

/-- The sequencer as YIELD saves it: from a handler as ERET would return it, else at the next instruction. -/
def Seq.yielded (q : Seq) : Seq :=
  if q.status.intrap then
    { q with pc := q.trappc, status := { q.status with priv := q.status.ppriv, intrap := false } }
  else q.advance

/-- The bytes of an image (05 R88): a header, 16,384 for each USED element, 256 for each FIFO entry, 16 for each
Corral entry and 64 of join state. -/
def SavedImage.bytes (i : SavedImage) : Nat :=
  let es := match i.config with | some g => g.elems | none => []
  let entries := (es.map fun e => (e.fifos.map List.length).sum).sum + (i.egress.map fun p => p.slots.length).sum
  256 + 16384 * es.length + 256 * entries + 16 * i.join.entries.length + 64

/-- The requests of the focused core's MTALLOC elements that wait in its Loft, and their grants that are not taken up. -/
def State.elemRequests (s : State) : List LoftReq × List (Requester × BitVec 32) :=
  let l := s.me.loft
  ((l.incoming ++ l.fifos.flatten).filter fun r => r.who.isElement, l.granted.filter fun g => g.1.isElement)

/-- The engines of the focused core as a saved image, and the core without them (05 R88, 04 Table SCH-8). The requests of
MTALLOC elements leave the Loft with it (06 R105). -/
def State.takeImage (s : State) : SavedImage × State :=
  let s := s.releasePower s.cur
  let c := s.me
  let (asks, grants) := s.elemRequests
  let img : SavedImage :=
    { config := c.fabric.config, ingress := c.fabric.ingress, egress := c.fabric.egress, lastCount := c.fabric.lastCount,
      lastCounters := c.fabric.lastCounters, control := c.fabric.control, join := c.join, consumes := c.consumes,
      asks := asks, grants := grants, size := 0 }
  ({ img with size := img.bytes }, s.mapMe fun c =>
    { c with
      fabric := { c.fabric with loading := none, config := none, ingress := List.replicate 16 Port.reset,
                                egress := List.replicate 16 Port.reset, control := [], drain := none }
      loft := (c.loft.withdraw Requester.isElement).forget Requester.isElement
      join := c.join.vacate, consumes := [] })

/-- The wait that a YIELD asks for, with its target: none for one that asks for nothing. -/
def State.withWait (s : State) (v : Word) (kind : YieldKind) (go : State → Option Target → Out) : Out :=
  match kind with
  | .none => go s none
  | .future => s.withTarget v 8 (s.futureAcc false) fun s' t => go s' (some t)
  | .barrier => s.withBarrier v fun s' t => go s' (some t)

/-- The record of a task that has yielded: it parks behind those parked before it, or is ready at once for a full future or
no wait at all (04 R77). -/
def State.park (s : State) (o : Owner) (kind : YieldKind) (v : Word) (t : Option Target) : State :=
  let set (w : WaitKind) (s : State) : State :=
    let n := match s.paddock? o.pdk with | some p => p.order | none => 0
    (s.modRecord o fun r =>
      { r with state := .parked, wkind := w, waddr := v.setWidth 48, waitTarget := t, order := n,
               phase := match t with | some t => s.word32 t | none => 0 }).modPaddock o.pdk fun p => { p with order := n + 1 }
  match kind, t with
  | .future, some x => if s.fullAt x then (set .future s).wake o else set .future s
  | .barrier, some _ => set .barrier s
  | _, _ => (set .none s).wake o

/-- A YIELD whose checks have passed. -/
def State.yieldNow (s : State) (t : Task) (area : Word) (pieces : List (Target × Nat)) (kind : YieldKind) (v : Word)
    (w : Option Target) : State :=
  let s := s.settleUnits
  let tile := s.isTileTask
  let hz := s.me.seq.status.horizon
  let s := s.writePieces pieces s.me.seq.yielded.saveArea
  let (img, s) := if tile then (let (i, s) := s.takeImage; (some i, s)) else (none, s)
  let s := s.modRecord t.owner fun r =>
    { r with ctx := true, frame := area.setWidth 48, saved := none, image := img, horizon := hz, triggered := t.triggered,
             base := r.prio }
  s.leaveCore.park t.owner kind v w

/-- The error that a write of some pieces meets (01 R9, R11). -/
def State.piecesError (s : State) (l : List (Target × Nat)) : Option Code :=
  l.findSome? fun (t, n) => s.endError false t n true

/-- YIELD. At RUNQ depth 1 or more, and in a handler with no task, it is illegal (14 R309); so it is for a tile task
with a configuration or join commands (14 R310). It waits for the task's loads and atomics, as a save does (04 R82). -/
def execYield (o : PairOps) (kind : YieldKind) (s : State) : Out :=
  let word : Word := (encode (.yield o kind)).setWidth 64
  let srcs := [(o.sa, o.ea)] ++ (match kind with | .none => [] | .future | .barrier => [(o.sb, o.eb)])
  s.withOps srcs [] <| s.afterAcquire <|
    match s.me.task, s.me.callers with
    | none, _ => s.illegal word 0x23
    | some _, _ :: _ => s.illegal word 0x23
    | some t, [] =>
      if s.isTileTask && (s.configHere || s.me.joinBusy t.owner s.me.pipe.nextId) then s.illegal word 0x24
      else
        s.withArea (s.reg o.sa) fun s pieces =>
          s.withWait (s.reg o.sb) kind fun s w =>
            if !s.allIn then s.stall Block.unit
            else
              match s.piecesError pieces with
              | some c => let (f, s) := s.errorInfo (s.reg o.sa) s.pc c; .next (s.takeTrap f s.pc false)
              | none => .next (s.yieldNow t (s.reg o.sa) pieces kind (s.reg o.sb) w)

end Sys2Proof.Machine
end

