-- ==== Sys2Proof/Machine/Load.lean ====
section
/-!
DEFINITION. CFG (14 R313; 08 R152, R154 to R158), the start of a loaded configuration (08 R143, R152; 05 R88; 16 R343)
and the end of the mapper's time (08 R158).
-/
namespace Sys2Proof.Machine

/-! ## Fault words and the CFG token (08 Tables FAB-3, FAB-4) -/

/-- The fabric fault word (08 Table FAB-3). -/
def fabricWord (code : Code) (elem : Nat) (more : Bool) (port lane instant : Nat) : Word :=
  BitVec.ofNat 64 (code.toByte.toNat + elem * 2 ^ 8 + more.toNat * 2 ^ 15 + port * 2 ^ 16 + lane * 2 ^ 20
    + instant % 2 ^ 32 * 2 ^ 32)

/-- The CFG token of a load or a configuration that ends with a fault word: it fills, or, for s0, the fault goes to the
supervisor (08 R145). -/
def State.failCfg (s : State) (id : Nat) (addr : Word) (tok : Reg) (o : Owner) (code : Code) (w v0 : Word) : State :=
  if tok = 0 then s.raiseFor s.cur o { code := code, val0 := w, val1 := v0, sup := true } none
  else s.finish s.cur { id := id, tok := tok, word := w, code := code, addr := addr, owner := o }

/-- The fault registers overwritten (08 R146). -/
def State.noteFabric (s : State) (w v0 v1 : Word) (addr : Word) : State :=
  s.mapMe fun c =>
    { c with fabric := { c.fabric with ffword := w, ffval0 := v0, ffval1 := v1, ffcmd := addr.setWidth 48 } }

/-- A load that is refused (08 R152): nothing starts. A second detail that no rule states is free. -/
def State.refuseLoad (s : State) (id : Nat) (addr : Word) (tok : Reg) (o : Owner) (code : Code) (elem : Nat) (v0 : Word)
    (v1 : Option Word) : State :=
  let w := fabricWord code elem false 0 0 0
  let (v1, s) := match v1 with | some v => (v, s) | none => s.anyWord
  (s.noteFabric w v0 v1 addr).failCfg id addr tok o code w v0

/-! ## Reading an image or a graph -/

/-- Bytes read through L2 for a load, piece by piece, or the fault of the first piece that cannot be read. -/
def State.loadPieces (s : State) (va n : Nat) : Nat → State × Except FaultInfo (List Byte)
  | 0 => (s, .ok [])
  | c + 1 =>
    if n = 0 then (s, .ok [])
    else
      let m := min n (4096 - va % 4096)
      match s.translate (some s.cur) s.herePdk (BitVec.ofNat 64 va) (Acc.read s.priv) with
      | (s, .error f) => (s, .error f)
      | (s, .ok t) =>
        match s.accessError (some s.cur) t m false with
        | some (c, i) => let (f, s) := s.errorInfo (BitVec.ofNat 64 (va + i)) s.pc c; (s, .error f)
        | none =>
        match (s.afterRead t).loadPieces (va + m) (n - m) c with
        | (s', .error f) => (s', .error f)
        | (s', .ok bs) => (s', .ok (s.readTarget t m ++ bs))

/-- `n` bytes at an address for a load. -/
def State.loadBytes (s : State) (va n : Nat) : State × Except FaultInfo (List Byte) := s.loadPieces va n (pieces va n)

/-- What the reading of an image finds: its columns, a refusal, or a fault of an access. -/
inductive ImageRead where
  | columns (cols : List (List ColWord))
  | refused (f : LoadFault)
  | faulted (f : FaultInfo)

/-- The words of a column from the bytes of its stream. -/
def columnOf (cmp : Bool) (dict : List Word) (col len : Nat) (bs : List Byte) : Except LoadFault (List ColWord) :=
  if cmp then
    match expandColumn dict 721 0 [] bs with
    | .error off => .error (columnFault col off)
    | .ok ws => if 721 < len then .error (columnFault col 721) else .ok ws
  else .ok (plainColumn bs)

/-- The columns read and expanded in ascending order; no column that expands is longer than 720 bytes. -/
def State.readColumns (s : State) (va : Nat) (cmp : Bool) (dict : List Word) : List (Nat × Nat × Nat) → State × ImageRead
  | [] => (s, .columns [])
  | (col, start, len) :: rest =>
    match s.loadBytes (va + start) (min len 721) with
    | (s, .error f) => (s, .faulted f)
    | (s, .ok bs) =>
      match columnOf cmp dict col len bs with
      | .error f => (s, .refused f)
      | .ok ws =>
        match s.readColumns va cmp dict rest with
        | (s, .columns cs) => (s, .columns (ws :: cs))
        | x => x

/-- The dictionary of an image, read once per load (08 R156). -/
def State.readDict (s : State) (h : List Byte) : State × Except FaultInfo (List Word) :=
  let n := natAt h 7 1
  match s.loadBytes (natAt h 8 8) (8 * n) with
  | (s, .error f) => (s, .error f)
  | (s, .ok bs) => (s, .ok ((upTo n).map fun k => wordOf ((bs.drop (8 * k)).take 8)))

/-- Whether a dictionary in use has an address that is no multiple of 8 (08 Table FAB-5). -/
def dictMisaligned (h : List Byte) : Bool := natAt h 7 1 != 0 && natAt h 8 8 % 8 != 0

/-- The columns of an image whose header has been read. -/
def State.readImage (s : State) (va : Nat) (h : List Byte) : State × ImageRead :=
  match firstBad (headerChecks h ++ [(!dictMisaligned h, 8)]) with
  | some off => (s, .refused (headerFault off))
  | none =>
    match s.readDict h with
    | (s, .error f) => (s, .faulted f)
    | (s, .ok dict) =>
      let lens := (upTo 12).map fun c => natAt h (32 + 4 * c) 4
      s.readColumns va (natAt h 3 1 / 2 % 2 == 1) dict ((upTo 12).map fun c => (c, getAt (columnStarts h) c 0, getAt lens c 0))

/-! ## CFG (14 R313) -/

/-- A load under way on the focused core (08 R152). -/
def State.startLoading (s : State) (sd : Reg) (g : Image) (key : Option (List Byte)) : State :=
  let l : Loading := { id := s.me.pipe.nextId, addr := s.pc, tok := sd, owner := s.here, priv := s.priv, image := g,
                       isGraph := key.isSome, hash := key.getD [], since := s.clk }
  s.mapMe fun c => { c with fabric := { c.fabric with loading := some l } }

/-- A load refused in its own CFG. -/
def State.refuseHere (s : State) (sd : Reg) (code : Code) (elem : Nat) (v0 : Word) (v1 : Option Word) : State :=
  s.refuseLoad s.me.pipe.nextId s.pc sd s.here code elem v0 v1

/-- A load whose later bytes could not be read. -/
def State.faultHere (s : State) (sd : Reg) (f : FaultInfo) : State := s.refuseHere sd f.code noElem f.val0 (some f.val1)

/-- The load of a placed image whose header has been read. -/
def State.loadImage (s : State) (sd : Reg) (va : Nat) (h : List Byte) : State :=
  match s.readImage va h with
  | (s, .faulted f) => s.faultHere sd f
  | (s, .refused f) => s.refuseHere sd f.code f.elem (BitVec.ofNat 64 f.val0) (f.val1.map (BitVec.ofNat 64))
  | (s, .columns cols) =>
    match imageOf h cols with
    | .error f => s.refuseHere sd f.code f.elem (BitVec.ofNat 64 f.val0) (f.val1.map (BitVec.ofNat 64))
    | .ok g => s.startLoading sd g none

/-- An entry of a die's cache of placed images, and the others (08 R158). -/
def Die.cached (d : Die) (pdk : PdkNum) (hash : List Byte) : Option (CachedImage × List CachedImage) :=
  takeFirst (fun (x : CachedImage) => x.pdk == pdk && x.hash == hash) d.images

/-- An image put first in a die's cache, the least recently used one dropped when it is full. -/
def Die.cache (d : Die) (x : CachedImage) : Die :=
  let rest := d.images.filter fun y => !(y.pdk == x.pdk && y.hash == x.hash)
  { d with images := (x :: rest).take Config.maxCachedImages }

/-- The load of a canonical graph whose header has been read (08 R158). -/
def State.loadGraph (s : State) (sd : Reg) (va : Nat) (h : List Byte) : State :=
  match s.loadBytes (va + 64) (graphBody h) with
  | (s, .error f) => s.faultHere sd f
  | (s, .ok body) =>
    let hash := h.take 32
    if sha256 body ≠ hash then s.refuseHere sd .cfgHash noElem 0 none
    else
      match (s.die (dieOf s.cur)).cached s.herePdk hash with
      | some (x, _) => (s.modDie (dieOf s.cur) (·.cache x)).startLoading sd x.image none
      | none =>
        match mapGraph h body with
        | .error (reason, at_) =>
          s.refuseHere sd .cfgKind noElem (BitVec.ofNat 64 reason) (at_.map (BitVec.ofNat 64))
        | .ok g => s.startLoading sd g (some hash)

/-- The draw that a header declares. -/
def headerDraw (graph : Bool) (h : List Byte) : Nat := natAt h (if graph then 36 else 4) 2

/-- The draw admitted with the running task (05 R95). -/
def State.hereDraw (s : State) : Nat := match s.me.task with | some t => t.draw | none => 0

/-- CFG after its checks: it waits while a configuration loads or runs and until the task's earlier stores are
acknowledged, reads the header and loads. -/
def State.configure (s : State) (sd : Reg) (graph : Bool) (va : Word) : Out :=
  if s.me.fabric.loading.isSome || s.me.fabric.config.isSome then s.stall { okind := 11, detail := 0, object := 0 }
  else if !s.storesDone then s.stall Block.unit
  else
    match s.loadBytes va.toNat (if graph then 64 else 128) with
    | (s, .error f) => .next (s.takeTrap f s.pc false)
    | (s, .ok h) =>
      let draw := headerDraw graph h
      if s.hereDraw < draw then s.illegal (BitVec.ofNat 64 draw) (BitVec.ofNat 64 s.hereDraw)
      else
        let s := if graph then s.loadGraph sd va.toNat h else s.loadImage sd va.toNat h
        ((s.setEmpty sd).mapPipe fun p => { p with nextId := p.nextId + 1 }).done

/-- CFG. -/
def execCfg (o : UOps) (graph : Bool) (s : State) : Out :=
  let word : Word := (encode (.cfg o graph)).setWidth 64
  s.withOps [(o.sa, o.ea)] [o.sd] <| s.afterAcquire <|
    if !s.isTileTask then s.illegal word 0x24
    else if (s.reg o.sa).toNat % 8 ≠ 0 then s.trap .misalign (s.reg o.sa) 8
    else s.configure o.sd graph (s.reg o.sa)

/-! ## CONFIGURATION_START -/

/-- Counters at 0. -/
def ElemCounters.zero : ElemCounters := { fired := 0, noopnd := 0, nospace := 0, killed := 0, throttle := 0, allocw := 0 }

/-- An element before instant 0: enabled when it has no enable source (16 R345). -/
def ElemState.start (e : ElemRec) : ElemState :=
  { desc := e, fifos := [[], [], [], []], bases := [0, 0, 0, 0], groups := [], buf := [], outq := [],
    nums := List.replicate 16 0, predLive := 0, vec := 0, counters := ElemCounters.zero,
    enabled := e.enab == .none, waitTier := none, lead := 0,
    marked := [false, false, false, false], saved := false }

/-- A configuration before instant 0. -/
def RunConfig.start (l : Loading) : RunConfig :=
  { id := l.id, addr := l.addr, tok := l.tok, owner := l.owner, priv := l.priv, image := l.image, instant := 0,
    elems := l.image.elems.map ElemState.start, kills := [], marks := [], held := [], touches := [], paramWrites := [],
    arms := [], parmCmds := [], rootDone := false, halted := none, ingTokens := 0 }

/-- A port with the sequence numbers and data of an earlier configuration gone; its commands wait on. -/
def Port.fresh (p : Port) : Port := { p with slots := [], seq := 0, hdrs := [], digits := [], marked := false }

/-- CONFIGURATION_START: the configuration that has loaded is before its instant 0; what the mapper made is cached. -/
def execConfigurationStart (core : CoreNum) (s : State) : Out :=
  .next (s.onCore core fun s =>
    match s.me.fabric.loading with
    | none => s
    | some l =>
      let s := if l.isGraph then
          s.modDie (dieOf s.cur) (·.cache { pdk := l.owner.pdk, hash := l.hash, image := l.image })
        else s
      s.mapMe fun c =>
        let f := c.fabric
        { c with
          fabric := { f with loading := none, config := some (RunConfig.start l), ingress := f.ingress.map (·.fresh),
                             egress := f.egress.map (·.fresh), lastCounters := [] } })

/-- MAPPING_TIMEOUT: a graph that the mapper has not placed within 2^22 clk is refused (08 R158 reason 6). -/
def execMappingTimeout (core : CoreNum) (s : State) : Out :=
  .next (s.onCore core fun s =>
    match s.me.fabric.loading with
    | none => s
    | some l =>
      if l.isGraph && decide (l.since + Config.mapperLimitClk ≤ s.clk) then
        (s.mapMe fun c => { c with fabric := { c.fabric with loading := none } }).refuseLoad l.id l.addr l.tok l.owner
          .cfgKind noElem 6 none
      else s)

end Sys2Proof.Machine
end

