-- ==== Sys2Proof/Machine/Online.lean ====
section
/-!
DEFINITION. Online digit arithmetic (09 R161 to R178; 07 R128 to R130): lanes, the recurrences, classes, normalisation,
comparators, the conversions between words and lanes, and the exponential and logarithm of 16 R353.
-/
namespace Sys2Proof.Machine

/-! ## Lanes (07 R129, R130) -/

/-- CLASS of a lane header (07 Table FMT-7). -/
inductive LaneClass where
  | fin | nan | pinf | ninf
  deriving DecidableEq, Repr

/-- A lane of a value group: class, exponent and its digits, the first one first. -/
structure LaneVal where
  cls : LaneClass
  e : Int
  ds : List Int
  deriving DecidableEq, Repr

/-- Digit of a 2-bit code; the invalid code counts as 0. -/
def digitOfCode (c : BitVec 2) : Int := if c = 1 then 1 else if c = 3 then -1 else 0
/-- Code of a digit. -/
def codeOfDigit (d : Int) : BitVec 2 := if d = 1 then 1 else if d = -1 then 3 else 0

/-- Class bits of a header. -/
def LaneClass.bits : LaneClass → BitVec 2 | .fin => 0 | .nan => 1 | .pinf => 2 | .ninf => 3
/-- Class of its bits. -/
def laneClassOf (b : BitVec 2) : LaneClass :=
  match b.toNat with | 0 => .fin | 1 => .nan | 2 => .pinf | _ => .ninf

/-- Class and exponent of a 16-bit header. -/
def headerOf (h : BitVec 16) : LaneClass × Int := (laneClassOf (field h 2 2), (field h 4 12).toInt)

/-- The header of lane `i` in a group's header instants. -/
def headerAt (hs : List (BitVec 1024)) (i : Nat) : BitVec 16 := field (getAt hs (i / 64) 0) (16 * (i % 64)) 16

/-- A lane from a group's header and digit instants; digits not there are 0. -/
def laneAt (digits : Nat) (hs ds : List (BitVec 1024)) (i : Nat) : LaneVal :=
  let (c, e) := headerOf (headerAt hs i)
  let got := ds.map fun d => digitOfCode (field d (2 * i) 2)
  { cls := c, e := e, ds := got ++ List.replicate (digits - got.length) 0 }

/-- D digits that are 0. -/
def zeroDigits (n : Nat) : List Int := List.replicate n 0
/-- The zero lane (08 R138). -/
def LaneVal.zero (n : Nat) : LaneVal := { cls := .fin, e := -2048, ds := zeroDigits n }
/-- A lane of a class that is not finite: its digits are produced as 0 (07 R129). Its exponent stands outside the range of
a header: the header's field E is free. -/
def LaneVal.special (n : Nat) (c : LaneClass) : LaneVal := { cls := c, e := 4096, ds := zeroDigits n }

/-- A finite result with its exponent checked (07 R129). -/
def LaneVal.checked (n : Nat) (e : Int) (ds : List Int) : LaneVal :=
  if 2047 < e then LaneVal.special n .nan
  else if e < -2048 then LaneVal.zero n
  else { cls := .fin, e := e, ds := ds }

/-- The exact value of a digit string times 2^n. -/
def digitSum (ds : List Int) : Int := ds.foldl (fun a d => 2 * a + d) 0

/-- Digits shifted to lower weights, those beyond the last position dropped (09 R163). -/
def shiftDigits (n sh : Nat) (ds : List Int) : List Int := (zeroDigits (min sh n) ++ ds).take n

/-- Digits with `k` zeros behind them. -/
def extended (ds : List Int) (k : Nat) : List Int := ds ++ zeroDigits k

/-! ## Recurrences (09 R164 to R169) -/

/-- The selection of R164 for a quantity whose unit is `one`. -/
def selAdd (v one : Int) : Int := if one ≤ 2 * v then 1 else if 2 * v < -one then -1 else 0

/-- ADD from a residual in eighths: the first `skip` steps only build it. -/
def addSteps : Nat → Int → List (Int × Int) → List Int
  | _, _, [] => []
  | skip, w, x :: rest =>
    let v := 2 * w + x.1 + x.2
    match skip with
    | k + 1 => addSteps k v rest
    | 0 => let z := selAdd v 8; z :: addSteps 0 (v - 8 * z) rest

/-- The digits of an aligned sum. -/
def addDigits (a b : List Int) : List Int := addSteps 2 0 ((extended a 2).zip (extended b 2))

/-- MUL: residual in units of 2^−(D+3), prefixes in units of 2^−D, and the weight of the next digit. -/
def mulSteps (one : Int) : Nat → Int → Int → Int → Int → List (Int × Int) → List Int
  | _, _, _, _, _, [] => []
  | skip, w, px, py, wt, x :: rest =>
    let px' := px + x.1 * wt
    let v := 2 * w + px' * x.2 + py * x.1
    let py' := py + x.2 * wt
    match skip with
    | k + 1 => mulSteps one k v px' py' (wt / 2) rest
    | 0 => let z := selAdd v one; z :: mulSteps one 0 (v - z * one) px' py' (wt / 2) rest

/-- The digits of a product. -/
def mulDigits (n : Nat) (x y : List Int) : List Int :=
  mulSteps (2 ^ (n + 3)) 3 0 0 0 (2 ^ (n - 1)) ((extended x 3).zip (extended y 3))

/-- DIV: residual in units of 2^−(D+8), quotient and divisor prefixes in units of 2^−D, the weight of the next divisor
digit, and the weight of the next quotient digit. -/
def divSteps (one σ : Int) : Nat → Int → Int → Int → Int → Int → List (Int × Int) → List Int
  | _, _, _, _, _, _, [] => []
  | skip, w, q, pd, wt, wq, x :: rest =>
    let pd' := pd + x.2 * wt
    let v := 2 * w + x.1 * (2 * one) - q * x.2 * 16
    match skip with
    | k + 1 => divSteps one σ k v q pd' (wt / 2) wq rest
    | 0 =>
      let h : Int := 256 * (pd'.natAbs : Int)
      let z := if h ≤ 2 * σ * v then σ else if 2 * σ * v < -h then -σ else 0
      z :: divSteps one σ 0 (v - z * pd' * 256) (q + z * wq) pd' (wt / 2) (wq / 2) rest

/-- The digits of a quotient. -/
def divDigits (n : Nat) (x d : List Int) : List Int :=
  divSteps (2 ^ n) (getAt d 0 0) 4 0 0 0 (2 ^ (n - 1)) (2 ^ (n - 1)) ((extended x 4).zip (extended d 4))

/-- SQRT: residual and root in units of 2^−(D+1), and 2^−j in the same units. -/
def sqrtSteps (unit : Int) : Nat → Int → Int → Int → List Int → List Int
  | _, _, _, _, [] => []
  | skip, w, r, wt, x :: rest =>
    let v := 2 * w + x * unit
    match skip with
    | k + 1 => sqrtSteps unit k v r wt rest
    | 0 =>
      let t := wt / 2
      let z := if r = 0 then (if t ≤ v then 1 else 0)
        else if r + t ≤ v then 1 else if v < -r + t then -1 else 0
      z :: sqrtSteps unit 0 (v - z * (2 * r + z * wt)) (r + z * wt) (wt / 2) rest

/-- The digits of a root. -/
def sqrtDigits (n : Nat) (f : List Int) : List Int := sqrtSteps (2 ^ (n - 5)) 4 0 0 (2 ^ n) (extended f 4)

/-! ## Results of lanes (09 R161, R170 Table ONL-2) -/

/-- Whether a lane is finite. -/
def LaneVal.isFin (a : LaneVal) : Bool := a.cls == .fin

/-- ADD before its exponent is checked. -/
def addRaw (n : Nat) (a b : LaneVal) : LaneVal :=
  match a.cls, b.cls with
  | .fin, .fin =>
    let top := max a.e b.e
    { cls := .fin, e := top + 1,
      ds := addDigits (shiftDigits n (top - a.e).toNat a.ds) (shiftDigits n (top - b.e).toNat b.ds) }
  | .nan, _ => LaneVal.special n .nan
  | _, .nan => LaneVal.special n .nan
  | .fin, c => LaneVal.special n c
  | c, .fin => LaneVal.special n c
  | .pinf, .pinf => LaneVal.special n .pinf
  | .ninf, .ninf => LaneVal.special n .ninf
  | _, _ => LaneVal.special n .nan

/-- A lane with its exponent checked. -/
def LaneVal.fix (n : Nat) (a : LaneVal) : LaneVal := if a.isFin then LaneVal.checked n a.e a.ds else a

/-- ADD of two lanes. -/
def addLane (n : Nat) (a b : LaneVal) : LaneVal := (addRaw n a b).fix n

/-- A lane negated. -/
def negLane (a : LaneVal) : LaneVal :=
  { a with ds := a.ds.map (- ·), cls := match a.cls with | .pinf => .ninf | .ninf => .pinf | c => c }

/-- MUL of two lanes. -/
def mulLane (n : Nat) (a b : LaneVal) : LaneVal :=
  if a.isFin && b.isFin then LaneVal.checked n (a.e + b.e) (mulDigits n a.ds b.ds) else LaneVal.special n .nan

/-- Whether a finite divisor lane is normalised (09 R166). -/
def normalised (d : LaneVal) : Bool :=
  d.e != -2048 && getAt d.ds 0 0 != 0 && getAt d.ds 1 0 != -(getAt d.ds 0 0)

/-- DIV of two lanes. -/
def divLane (n : Nat) (a d : LaneVal) : LaneVal :=
  if !a.isFin || d.cls == .nan then LaneVal.special n .nan
  else if !d.isFin then LaneVal.zero n
  else if !normalised d then LaneVal.special n .nan
  else LaneVal.checked n (a.e - d.e + 3) (divDigits n a.ds d.ds)

/-- The dividend 1 (09 R161). -/
def oneLane (n : Nat) : LaneVal := { cls := .fin, e := 1, ds := 1 :: zeroDigits (n - 1) }

/-- Whether a finite radicand that is not zero has the form of 09 R168. -/
def radicandOk (r : LaneVal) : Bool :=
  let d := fun k => getAt r.ds k 0
  r.e % 2 == 0 && ((d 0 == 1 && d 1 != -1) || (d 0 == 0 && d 1 == 1 && d 2 != -1))

/-- SQRT of a lane. -/
def sqrtLane (n : Nat) (r : LaneVal) : LaneVal :=
  match r.cls with
  | .pinf => LaneVal.special n .pinf
  | .nan | .ninf => LaneVal.special n .nan
  | .fin =>
    if r.e = -2048 then LaneVal.zero n
    else if radicandOk r then LaneVal.checked n (r.e / 2 + 1) (sqrtDigits n r.ds)
    else LaneVal.special n .nan

/-- SCALE of a lane by 2^k (16 R352). -/
def scaleLane (n : Nat) (k : Int) (a : LaneVal) : LaneVal :=
  if a.isFin && a.e != -2048 then LaneVal.checked n (a.e + k) a.ds else a

/-- RELU of a lane (09 R175). -/
def reluLane (n : Nat) (a : LaneVal) : LaneVal :=
  match a.cls with
  | .ninf => LaneVal.zero n
  | .nan => LaneVal.special n .nan
  | .pinf => LaneVal.special n .pinf
  | .fin => match a.ds.find? (· != 0) with | some d => if d < 0 then { a with ds := zeroDigits n } else a | none => a

/-! ## Normalisation (09 R172) -/

/-- The shift that `norm_lane` finds and the digits after its rewrites: `s` positions lie behind, which all hold 0. -/
def normFind : Nat → Nat → List Int → Option (Nat × List Int)
  | 0, _, _ => none
  | k + 1, s, a :: b :: rest =>
    if a ≠ 0 ∧ b ≠ -a then some (s, a :: b :: rest)
    else if a ≠ 0 then normFind k (s + 1) (a :: rest)
    else normFind k (s + 1) (b :: rest)
  | _ + 1, _, _ => none

/-- NORM of a lane with window L; none when the lane is flushed. -/
def normShift (n l : Nat) (even : Bool) (a : LaneVal) : Option LaneVal :=
  (normFind l 0 (extended a.ds (l + 1))).map fun (s, found) =>
    let at_ (s : Nat) (ds : List Int) : LaneVal := LaneVal.checked n (a.e - s) ((ds ++ zeroDigits n).take n)
    let kept := found.take (n - s)
    if even && (a.e - s) % 2 != 0 then
      if 1 ≤ s then at_ (s - 1) (0 :: kept) else LaneVal.checked n (a.e + 1) ((0 :: kept).take n)
    else at_ s kept

/-- NORM of a lane. -/
def normLane (n l : Nat) (even : Bool) (a : LaneVal) : LaneVal :=
  if a.isFin && a.e != -2048 then (normShift n l even a).getD (LaneVal.zero n) else a

/-! ## Segments of LSUM (16 R349) -/

/-- Neighbours combined. -/
def addPairs (n : Nat) : List LaneVal → List LaneVal
  | a :: b :: rest => addRaw n a b :: addPairs n rest
  | l => l

/-- A segment's lanes combined in `g` levels. -/
def addTree (n : Nat) : Nat → List LaneVal → List LaneVal
  | 0, l => l
  | g + 1, l => addTree n g (addPairs n l)

/-- The sum of a segment of 2^g lanes. -/
def segSum (n g : Nat) (seg : List LaneVal) : LaneVal :=
  let has (c : LaneClass) : Bool := seg.any fun a => a.cls == c
  if has .nan || (has .pinf && has .ninf) then LaneVal.special n .nan
  else if has .pinf then LaneVal.special n .pinf
  else if has .ninf then LaneVal.special n .ninf
  else ((addTree n g seg).headD (LaneVal.zero n)).fix n

/-- A list cut into parts of `k` elements; the first argument bounds the number of parts. -/
def partsOf {α : Type} (k : Nat) : Nat → List α → List (List α)
  | 0, _ => []
  | m + 1, l => l.take k :: partsOf k m (l.drop k)

/-! ## Comparators (09 R173 to R176) -/

/-- The value of a lane times 2^(n − lo), for an exponent `lo` not above its own. -/
def exactAt (lo : Int) (a : LaneVal) : Int := digitSum a.ds * (2 ^ (a.e - lo).toNat : Nat)

/-- The first position below the last at which a scaled difference of prefixes reaches 2, with its sign. -/
def firstLead : Nat → Int → List Int → Option (Nat × Int)
  | _, _, [] => none
  | _, _, [_] => none
  | j, q, d :: rest =>
    let q := 2 * q + d
    if 2 ≤ q then some (j, 1) else if q ≤ -2 then some (j, -1) else firstLead (j + 1) q rest

/-- Sign of an integer. -/
def signOf (v : Int) : Int := if 0 < v then 1 else if v < 0 then -1 else 0

/-- Rank of a class that is not NaN. -/
def LaneClass.rank : LaneClass → Int | .ninf => -1 | .pinf => 1 | _ => 0

/-- The outcome of a comparison: deciding digit and sign of a − b; no sign with a NaN. A class decides at digit 1. -/
def compareLanes (n : Nat) (a b : LaneVal) : Nat × Option Int :=
  if a.cls == .nan || b.cls == .nan then (1, none)
  else if !a.isFin || !b.isFin then (1, some (signOf (a.cls.rank - b.cls.rank)))
  else
    let top := max a.e b.e
    let diff := ((shiftDigits n (top - a.e).toNat a.ds).zip (shiftDigits n (top - b.e).toNat b.ds)).map fun x => x.1 - x.2
    match firstLead 1 0 diff with
    | some (j, sg) => (j, some sg)
    | none => let lo := min a.e b.e; (n, some (signOf (exactAt lo a - exactAt lo b)))

/-- Whether MAX2 or MIN2 takes input 0; false with a NaN. -/
def winsFirst (max_ : Bool) (sg : Option Int) : Bool := match sg with | some v => if max_ then 0 ≤ v else v ≤ 0 | none => false

/-- A finite lane aligned to an exponent. -/
def aligned (n : Nat) (top : Int) (a : LaneVal) : LaneVal := { a with e := top, ds := shiftDigits n (top - a.e).toNat a.ds }

/-- MAX2 or MIN2 of two lanes (09 R174). -/
def pickLane (n : Nat) (max_ : Bool) (a b : LaneVal) : LaneVal :=
  match (compareLanes n a b).2 with
  | none => LaneVal.special n .nan
  | some sg =>
    let w := if winsFirst max_ (some sg) then a else b
    if !w.isFin then LaneVal.special n w.cls
    else if a.isFin && b.isFin then aligned n (max a.e b.e) w
    else w

/-- The inputs that MAX2 or MIN2 kills in a lane: input 0, input 1. -/
def pickKills (n : Nat) (max_ : Bool) (a b : LaneVal) : Bool × Bool :=
  if (pickLane n max_ a b).isFin then
    let first := winsFirst max_ (compareLanes n a b).2
    (!first, first)
  else (true, true)

/-- Whether a lane is at least THR's threshold (16 R351). -/
def atLeast (n : Nat) (a t : LaneVal) : Bool := match (compareLanes n a t).2 with | some v => 0 ≤ v | none => false

/-- A lane of an LMAX segment: lane number and value. -/
abbrev Runner := Nat × LaneVal

/-- The steps of LMAX below the last digit: the lanes still live with their prefixes and the digits to come, and the lanes
that lose with their deciding digit. -/
def lmaxSteps : Nat → Nat → List (Nat × Int × List Int) → List (Nat × Nat) → List Nat × List (Nat × Nat)
  | 0, _, live, lost => (live.map (·.1), lost)
  | k + 1, j, live, lost =>
    let live := live.map fun (i, p, ds) => (i, 2 * p + ds.headD 0, ds.tail)
    let top := live.foldl (fun m x => max m x.2.1) ((live.headD (0, 0, [])).2.1)
    let out := live.filter fun x => 2 ≤ top - x.2.1
    lmaxSteps k (j + 1) (live.filter fun x => !(2 ≤ top - x.2.1)) (lost ++ out.map fun x => (x.1, j))

/-- What LMAX makes of a segment's participants: the winner, the value, and the lanes killed with their digits. -/
structure LmaxResult where
  winner : Option Nat
  value : LaneVal
  kills : List (Nat × Nat)

/-- The first participant of a class. -/
def firstOf (c : LaneClass) (ps : List Runner) : Option Nat := (ps.find? fun p => p.2.cls == c).map (·.1)

/-- LMAX over the finite participants of a segment, the others lost at digit 1. -/
def lmaxFinite (n : Nat) (ps fin : List Runner) : LmaxResult :=
  let top := fin.foldl (fun m p => max m p.2.e) (-2048)
  let lo := fin.foldl (fun m p => min m p.2.e) 2047
  let (live, lost) := lmaxSteps (n - 1) 1 (fin.map fun p => (p.1, 0, shiftDigits n (top - p.2.e).toNat p.2.ds)) []
  let able := fin.filter fun p => live.contains p.1
  match able.foldl (fun (best : Option (Nat × LaneVal)) p =>
      match best with
      | some b => if exactAt lo b.2 < exactAt lo p.2 then some p else some b
      | none => some p) none with
  | none => { winner := none, value := LaneVal.zero n, kills := [] }
  | some b =>
    { winner := some b.1, value := aligned n top b.2
      kills := ((ps.filter fun p => !p.2.isFin).map fun p => (p.1, 1)) ++ lost
        ++ ((able.filter fun p => p.1 != b.1).map fun p => (p.1, n)) }

/-- LMAX of a segment's participants (09 R176). -/
def lmaxSegment (n : Nat) (ps : List Runner) : LmaxResult :=
  let all := ps.map fun p => (p.1, 1)
  let special (c : LaneClass) (w : Option Nat) : LmaxResult := { winner := w, value := LaneVal.special n c, kills := all }
  if ps.isEmpty then { winner := none, value := LaneVal.zero n, kills := [] }
  else if (firstOf .nan ps).isSome then special .nan (firstOf .nan ps)
  else if (firstOf .pinf ps).isSome then special .pinf (firstOf .pinf ps)
  else
    let fin := ps.filter (·.2.isFin)
    if fin.isEmpty then special .ninf (firstOf .ninf ps) else lmaxFinite n ps fin

/-! ## Conversion (09 R177, R178) -/

/-- An exact value as a lane of n digits. -/
def laneOfNum (n : Nat) (x : Num) : LaneVal :=
  match x with
  | .nan => LaneVal.special n .nan
  | .inf neg => LaneVal.special n (if neg then .ninf else .pinf)
  | .fin neg m e =>
    if m = 0 then LaneVal.zero n
    else
      let top := Num.log m e + 1
      let (k, _) := roundTo .rne neg m e (top - n)
      let (k, top) := if 2 ^ n ≤ k then (2 ^ (n - 1), top + 1) else (k, top)
      let sg : Int := if neg then -1 else 1
      LaneVal.checked n top ((upTo n).map fun i => if k.testBit (n - 1 - i) then sg else 0)

/-- A lane as an exact value. -/
def LaneVal.num (n : Nat) (a : LaneVal) : Num :=
  match a.cls with
  | .nan => .nan
  | .pinf => .inf false
  | .ninf => .inf true
  | .fin => let v := digitSum a.ds; if v = 0 then Num.zero else .fin (decide (v < 0)) v.natAbs (a.e - n)

/-- A value rounded to a word format, with its flags. -/
def AnyFmt.ofNum (f : AnyFmt) (x : Num) (rm : Rounding) (sat : Bool) : Nat × FpFlags :=
  match f with
  | .fp f => f.round x rm sat
  | .int t => let (v, fl) := t.ofNum x rm; (lowBits v t.width, fl)

/-- The constant operand of ADDK, MULK and THR (16 R347). -/
def constLane (n : Nat) (v : BitVec 32) : LaneVal := laneOfNum n (Fmt.fp32.decode v.toNat)

/-! ## Exponential and logarithm (16 R353) -/

/-- Bits kept of 2^x and of log2(x), and steps of the logarithm: far more than lie between such a value and the nearest
rounding boundary (notes/assumptions/26.md). -/
def expBits : Nat := 256
/-- See `expBits`. -/
def logBits : Nat := 128

/-- The product of those roots 2^(2^−i) whose bit is set in a fraction; `c` is the root before the next one, both scaled
by 2^expBits. -/
def expSteps : Nat → Nat → Nat → Nat → Nat
  | 0, _, r, _ => r
  | k + 1, f, r, c =>
    let c := isqrt (c * 2 ^ expBits)
    expSteps k f (if f.testBit k then r * c / 2 ^ expBits else r) c

/-- A finite value as a multiple of 2^−149 that lies within ±2^10; beyond that every format has overflowed or
underflowed. -/
def expArg (neg : Bool) (m : Nat) (e : Int) : Int :=
  let big : Nat := 2 ^ (149 + 10)
  let v := if 11 < Num.log m e then big else min big (m * 2 ^ (e + 149).toNat)
  if neg then -(v : Int) else v

/-- 2^x of a finite value: exact for an integer, else between two neighbours of the kept bits. -/
def exp2Num (neg : Bool) (m : Nat) (e : Int) : Num :=
  let x := expArg neg m e
  let f := (x % (2 ^ 149 : Nat)).toNat
  let n := x / (2 ^ 149 : Nat)
  if f = 0 then .fin false 1 n
  else .fin false (2 * expSteps 149 f (2 ^ expBits) (2 ^ (expBits + 1)) + 1) (n - expBits - 1)

/-- Bits of log2 of a value in [1, 2) scaled by 2^512, the first one first. -/
def logSteps : Nat → Nat → Nat → Nat
  | 0, _, acc => acc
  | k + 1, z, acc =>
    let z := z * z / 2 ^ 512
    if 2 ^ 513 ≤ z then logSteps k (z / 2) (2 * acc + 1) else logSteps k z (2 * acc)

/-- log2 of a positive value: exact for a power of two, else between two neighbours of the kept bits. -/
def log2Num (m : Nat) (e : Int) : Num :=
  let n := Num.log m e
  if m = 2 ^ m.log2 then Num.ofInt n
  else
    let frac := logSteps logBits (m * 2 ^ 512 / 2 ^ m.log2) 0
    let v : Int := n * (2 ^ (logBits + 1) : Nat) + (2 * frac + 1 : Nat)
    .fin (decide (v < 0)) v.natAbs (-(logBits + 1 : Nat))

/-- EXP2 of a value: the value and the flags of its special cases. -/
def exp2Of (x : Num) : Num × FpFlags :=
  match x with
  | .nan => (.nan, FpFlags.none)
  | .inf neg => (if neg then Num.zero else .inf false, FpFlags.none)
  | .fin neg m e => (if m = 0 then Num.one else exp2Num neg m e, FpFlags.none)

/-- LOG2 of a value: the value and the flags of its special cases. -/
def log2Of (x : Num) : Num × FpFlags :=
  match x with
  | .nan => (.nan, FpFlags.none)
  | .inf neg => if neg then (.nan, FpFlags.invalid) else (.inf false, FpFlags.none)
  | .fin neg m e =>
    if m = 0 then (.inf true, FpFlags.divZero)
    else if neg then (.nan, FpFlags.invalid)
    else (log2Num m e, FpFlags.none)

/-- Flags of two operations together. -/
def FpFlags.join (a b : FpFlags) : FpFlags :=
  { nx := a.nx || b.nx, uf := a.uf || b.uf, of := a.of || b.of, dz := a.dz || b.dz, nv := a.nv || b.nv }

/-- One word of EXP2 or LOG2. -/
def transcend (log_ : Bool) (v : BitVec 32) (w : BitVec 32) : BitVec 32 × FpFlags :=
  let f := fmtOfWord v
  let (x, fl) := (if log_ then log2Of else exp2Of) (f.decode (w.toNat % 2 ^ (8 * f.bytes)))
  let (c, fl') := f.ofNum x (rmOfWord v) (satOfWord v)
  (BitVec.ofNat 32 c, fl.join fl')

end Sys2Proof.Machine
end

