-- ==== Sys2Proof/Machine/Channels.lean ====
section
/-!
DEFINITION. Channels of the fabric as an element sees them within an instant (08 R137 to R142, R147, R149): data words,
heads and takes, room, and what a reaction is.
-/
namespace Sys2Proof.Machine

/-! ## Data of an instant (07 R124) -/

/-- The 32 words of a W instant. -/
def wordsOf (d : BitVec 1024) : List (BitVec 32) := (upTo 32).map fun j => field d (32 * j) 32

/-- A number from parts of `w` bits, the lowest first. -/
def packParts (w : Nat) (ps : List Nat) : Nat := ps.foldr (fun p a => a * 2 ^ w + p) 0

/-- A W instant from at most 32 words; the rest is 0. -/
def ofWords (ws : List (BitVec 32)) : BitVec 1024 := BitVec.ofNat 1024 (packParts 32 (ws.map (·.toNat)))

/-- An instant without anything. -/
def Item.blank : Item := { valid := false, data := 0, hdr := none, gword := none, marker := none, last := false }
/-- A data instant. -/
def Item.ofData (d : BitVec 1024) : Item := { Item.blank with valid := true, data := d }
/-- An end-of-fibre marker. -/
def Item.mark (l : BitVec 3) : Item := { Item.blank with marker := some l }
/-- Whether an instant is one of a group's digits, or says that it has no more. -/
def Item.digits (x : Item) : Bool := x.valid || x.last

/-- An item as a channel carries it whose SEQ 0 is the number `base` at the output (08 R151). -/
def Item.numbered (x : Item) (base : BitVec 8) : Item :=
  { x with gword := x.gword.map fun w => (field w 8 8 : BitVec 8) ++ ((field w 0 8 : BitVec 8) - base) }

/-- Coordinate of a hole (16 R357). -/
def hole : BitVec 32 := 0xFFFFFFFF

/-! ## A core's fabric at the start of an instant -/

/-- What the elements react on: the configuration, the egress ports, the core and the clk. -/
structure Env where
  cfg : RunConfig
  egress : List Port
  core : CoreNum
  clk : Nat

/-- The element of an index in a running configuration. -/
def RunConfig.elem? (g : RunConfig) (i : Nat) : Option ElemState := g.elems.find? fun e => e.desc.index == i

/-- A parameter. -/
def ElemState.p (e : ElemState) (k : Nat) : BitVec 32 := paramAt e.desc.params k
/-- A mode register. -/
def ElemState.num (e : ElemState) (k : Nat) : Nat := getAt e.nums k 0
/-- A mode register set. -/
def ElemState.setNum (e : ElemState) (k v : Nat) : ElemState := { e with nums := updAt e.nums k fun _ => v }
/-- A parameter set. -/
def ElemState.setP (e : ElemState) (k : Nat) (v : BitVec 32) : ElemState :=
  { e with desc := { e.desc with params := updAt e.desc.params k fun _ => v } }
/-- Flags of the status word set (16 R343). -/
def ElemState.flag (e : ElemState) (m : BitVec 32) : ElemState := e.setP 7 (e.p 7 ||| m)
/-- Whether an input is used and has a source. -/
def ElemState.has (e : ElemState) (i : Nat) : Bool := e.desc.uses.contains i
/-- The source name of an output. -/
def ElemState.src (e : ElemState) (o : Nat) : Src := .elem e.desc.index o
/-- DL (16 Table ELM-1). -/
def ElemState.doneLevel (e : ElemState) : BitVec 3 := Machine.doneLevel e.desc.params

/-- The item at the head of an input, unless a pre-empt marker holds the input back (08 R151). -/
def ElemState.head (e : ElemState) (t i : Nat) : Option Item :=
  if getAt e.marked i false then none
  else
    match (getAt e.fifos i []).head? with
    | some x => if x.ready ≤ t then some x.item else none
    | none => none

/-- The item at the head of an input at the start of the instant. -/
def Env.head (v : Env) (e : ElemState) (i : Nat) : Option Item := e.head v.cfg.instant i

/-- The head of an input taken. -/
def ElemState.take (e : ElemState) (i : Nat) : ElemState := { e with fifos := updAt e.fifos i List.tail }

/-- By how many clk what an element takes in an instant had come before it: of what it takes from several inputs the last
counts, and what stood there already waits for the instant's start (08 R160). An element that takes nothing works on what it
had taken. -/
def ElemState.leadFrom (e e0 : ElemState) (t : Nat) : Nat :=
  let took := (upTo 4).filterMap fun i =>
    if (getAt e.fifos i []).length < (getAt e0.fifos i []).length then
      ((getAt e0.fifos i []).head?).map fun x => if x.ready = t then x.lead else 0
    else none
  match took with | [] => e0.lead | x :: xs => xs.foldl min x
/-- The heads of several inputs taken. -/
def ElemState.takes (e : ElemState) (is : List Nat) : ElemState := is.foldl ElemState.take e

/-- Whether an output drives an input or a port. -/
def Env.driven (v : Env) (e : ElemState) (o : Nat) : Bool :=
  !(v.cfg.image.consumers (e.src o)).isEmpty || !(v.cfg.image.egressOf (e.src o)).isEmpty

/-- The data outputs in use. -/
def Env.outs (v : Env) (e : ElemState) : List Nat := (upTo 4).filter (v.driven e)

/-- Capacity of an input: its window on a branch, else 8 (08 R149). -/
def Image.capacity (g : Image) (src : Src) (window : Nat) : Nat := if g.isBranch src then window else 8

/-- Whether a FIFO has room, with the data in flight toward it, counted as the examples of 08 R149 and 18 R383 count
it: what the producer's pipeline and the hops hold at full rate is the entry that arrives (notes/assumptions/28.md).
-/
def hasRoom (slots : List Slot) (cap delay : Nat) : Bool := decide (slots.length < cap + delay - 1)

/-- Whether every input that a source drives has room (08 R149). -/
def Env.roomFor (v : Env) (src : Src) : Bool :=
  let g := v.cfg.image
  (g.consumers src).all (fun c =>
      match v.cfg.elem? c.1 with
      | some e => hasRoom (getAt e.fifos c.2.1 []) (g.capacity src c.2.2.window) (g.delay src 0 (posOf c.1)).1
      | none => true)
    && (g.egressOf src).all fun p =>
      match getAt g.egress p none with
      | some d => hasRoom (getAt v.egress p Port.reset).slots (g.capacity src d.window) (g.delay src 0 (egressPos p)).1
      | none => true

/-- Whether an element may fire: every input that it drives has room. -/
def Env.room (v : Env) (e : ElemState) : Bool := (upTo 4).all fun o => v.roomFor (e.src o)

/-! ## Reactions (08 R139, R145, R147) -/

/-- The instant signals at an element: its predicate mask, its enable and its body's done; an absent one is none or
false. -/
structure Sees where
  pred : Option (BitVec 512)
  enab : Bool
  body : Bool
  deriving DecidableEq, Repr

/-- Outcome of a reaction (08 R139): rest, a firing that only takes input, a firing, or a stall with NOOPND, NOSPACE or
ALLOCW. -/
inductive How where
  | rest | took | fired | noopnd | nospace | allocw
  deriving DecidableEq, Repr

/-- An element fault: a detail that no rule gives is none. -/
structure ElemFault where
  code : Code
  elem : Nat
  port : Nat
  lane : Nat
  val0 : Option Word
  val1 : Option Word
  deriving DecidableEq, Repr

/-- A reaction: the element after it, its outcome, what it emits on data outputs, its predicate and done outputs, kills,
and faults. -/
structure Reaction where
  e : ElemState
  how : How
  emits : List (Nat × Item)
  pred : Option (BitVec 512)
  done : Bool
  kills : List Kill
  faults : List ElemFault
  deriving DecidableEq, Repr

/-- A reaction that emits nothing. -/
def Reaction.plain (e : ElemState) (how : How) : Reaction :=
  { e := e, how := how, emits := [], pred := none, done := false, kills := [], faults := [] }

/-- Only input was taken. -/
def ElemState.took (e : ElemState) : Reaction := Reaction.plain e .took
/-- A needed operand is absent. -/
def ElemState.waits (e : ElemState) : Reaction := Reaction.plain e .noopnd

/-- An element that emits on those of some data outputs that are in use; with none it only takes. -/
def Env.sends (v : Env) (e : ElemState) (xs : List (Nat × Item)) : Reaction :=
  let ys := xs.filter fun x => v.driven e x.1
  { Reaction.plain e (if ys.isEmpty then .took else .fired) with emits := ys }

/-- An element that emits one item on each data output in use. -/
def Env.emitAll (v : Env) (e : ElemState) (x : Item) : Reaction := v.sends e ((upTo 4).map fun o => (o, x))

/-- A reaction that emits done as well. -/
def Reaction.withDone (r : Reaction) : Reaction := { r with done := true, how := .fired }

/-- An element that emits a marker on each data output in use, or takes it if there is none; done by R345. -/
def Env.emitMark (v : Env) (e : ElemState) (l : BitVec 3) : Reaction :=
  let r := v.emitAll e (Item.mark l)
  if e.doneLevel.toNat ≤ l.toNat then r.withDone else r

/-- A reaction that ends in faults; its other effects fall with the configuration. -/
def ElemState.faults (e : ElemState) (fs : List ElemFault) : Reaction := { Reaction.plain e .took with faults := fs }

/-- A fault of an element. -/
def ElemState.fault (e : ElemState) (code : Code) (port lane : Nat) (v0 v1 : Option Word) : ElemFault :=
  { code := code, elem := e.desc.index, port := port, lane := lane, val0 := v0, val1 := v1 }

/-- The level of a marker. -/
def Item.level (x : Item) : BitVec 3 := x.marker.getD 0

/-- The highest of several levels. -/
def highest (ls : List (BitVec 3)) : BitVec 3 := ls.foldl (fun a b => if a.toNat < b.toNat then b else a) 0

/-- The level that the markers at an element's inputs count as when it takes them at once: the highest, or that of IN0
when no data output is in use (16 R345). -/
def Env.markLevel (v : Env) (e : ElemState) (is : List Nat) : BitVec 3 :=
  let l (i : Nat) : BitVec 3 := match v.head e i with | some x => x.level | none => 0
  if (v.outs e).isEmpty then l 0 else highest (is.map l)

/-! ## Predicates on W vectors (08 R138) -/

/-- The mask of the W instant at hand: taken in the first instant of a vector, kept for the others; all lanes without a
predicate input; none when it is absent. -/
def ElemState.maskNow (e : ElemState) (sees : Sees) : Option (BitVec 512) :=
  if e.desc.pred.isNone then some (BitVec.allOnes 512)
  else if e.vec % 16 = 0 then sees.pred
  else some e.predLive

/-- One more instant of the vector, under its mask. -/
def ElemState.nextVec (e : ElemState) (m : BitVec 512) : ElemState := { e with predLive := m, vec := (e.vec + 1) % 16 }

/-- The vector in progress ended by a marker. -/
def ElemState.endVec (e : ElemState) : ElemState := { e with vec := 0 }

/-- Whether lane `j` of the instant at hand is on. -/
def ElemState.laneOn (e : ElemState) (m : BitVec 512) (j : Nat) : Bool := bit m (32 * (e.vec % 16) + j)

/-- The words of the instant at hand with those of lanes that are off replaced by 0. -/
def ElemState.masked (e : ElemState) (m : BitVec 512) (ws : List (BitVec 32)) : List (BitVec 32) :=
  (upTo ws.length).map fun j => if e.laneOn m j then getAt ws j 0 else 0

end Sys2Proof.Machine
end

