-- ==== Sys2Proof/Machine/DEngine.lean ====
section
/-!
DEFINITION. The elements that take or emit value groups on D channels (08 R138, R147, R148; 09 R161 to R178; 16 R345 to
R356): what they take in an instant, the steps of their groups, their output digits and headers, kills, decisions and
predicate masks.
-/
namespace Sys2Proof.Machine

/-! ## Groups -/

/-- Every lane. -/
def allLanes : BitVec 512 := BitVec.allOnes 512

/-- The lanes whose numbers satisfy a test. -/
def lanesWhere (p : Nat → Bool) : BitVec 512 := BitVec.ofNat 512 (packParts 1 ((upTo 512).map fun i => (p i).toNat))

/-- A group of which nothing has been taken. -/
def GroupRun.new (src out : Nat) (seq : BitVec 8) (pred : Option (BitVec 512)) : GroupRun :=
  { marker := none, src := src, index := 0, seqs := [0, 0, 0, 0], fin := true, hdrs := [[], [], [], []], digits := [[], [], [], []],
    ended := [false, false, false, false], killed := [0, 0, 0, 0], pred := pred, steps := 0, out := out, outSeq := seq,
    outHdrs := 0, outDigits := 0, outDone := false, passed := 0 }

/-- A marker behind the groups before it. -/
def GroupRun.ofMarker (l : BitVec 3) : GroupRun := { GroupRun.new 0 0 0 none with marker := some l }

/-- A marker with which an element emits done whatever its level (16 R360). -/
def GroupRun.ofDone (l : BitVec 3) : GroupRun := { GroupRun.ofMarker l with index := 1 }

/-- The output of a group that has not been selected yet (16 R355, R356). -/
def unselected : Nat := 9

/-- Digits per group at the inputs, or, for UNPK, at the output. -/
def Env.digits (v : Env) (e : ElemState) : Nat :=
  let g := v.cfg.image
  if e.desc.mode = .unpk then
    match (g.consumers (e.src 0)).head?, (g.egressOf (e.src 0)).head? with
    | some c, _ => c.2.2.digits
    | none, some p => ((getAt g.egress p none).map (·.digits)).getD 8
    | none, none => 8
  else ((e.desc.ins.head?).map (·.digits)).getD 8

/-- Whether a mode takes each group from one input of its own choice or has only one. -/
def ElemState.single (e : ElemState) : Bool :=
  match e.desc.mode with | .steer | .fork | .mrgi | .mrga | .ctlm => true | _ => false

/-- Whether a mode selects the input of its next group (16 R355, R356). -/
def ElemState.selects (e : ElemState) : Bool := match e.desc.mode with | .mrgi | .mrga => true | _ => false

/-- The inputs whose digits a group needs. -/
def ElemState.groupIns (e : ElemState) (g : GroupRun) : List Nat := if e.single then [g.src] else e.desc.uses

/-- Whether an input still delivers digits of a group. -/
def GroupRun.live (n : Nat) (g : GroupRun) (i : Nat) : Bool :=
  !getAt g.ended i false && decide ((getAt g.digits i []).length < n)

/-- Whether everything of a group has been taken. -/
def ElemState.takenAll (e : ElemState) (n : Nat) (g : GroupRun) : Bool :=
  g.marker.isSome || (e.groupIns g).all fun i => !g.live n i && (getAt g.hdrs i []).length == 8

/-- The first group whose digits are being taken: the oldest selected one that an input still delivers. -/
def ElemState.curGroup (e : ElemState) (n : Nat) : Option Nat :=
  findIx (fun _ g => g.marker.isNone && g.out != unselected && (e.groupIns g).any (g.live n)) e.groups

/-- The group to which the next header instant at an input belongs, if it has begun. -/
def ElemState.hdrGroup (e : ElemState) (i : Nat) : Option Nat :=
  findIx (fun _ g => g.marker.isNone && (e.groupIns g).contains i && decide ((getAt g.hdrs i []).length < 8)) e.groups

/-- Header instants taken of the group to which the next header instant at an input belongs. -/
def ElemState.hdrCount (e : ElemState) (i : Nat) : Nat :=
  match e.hdrGroup i with
  | some n => match e.groups[n]? with | some g => (getAt g.hdrs i []).length | none => 0
  | none => 0

/-- Online delay (09 Table ONL-1; 16 R349, R350, R352, R354, R356). -/
def ElemState.lag (e : ElemState) (n : Nat) : Nat :=
  match e.desc.mode with
  | .add | .sub | .addk => 2
  | .lsum => 2 * (e.p 0).toNat
  | .mul | .mulk | .sqr => 3
  | .div | .rcp | .sqrt => 4
  | .norm => (field (e.p 0) 0 5).toNat
  | .max2 | .min2 | .thr | .lmax => n
  | _ => 0

/-- Look-ahead H of R171; for UNPK a group begins when its last word has been taken (16 R352). -/
def ElemState.lookAhead (e : ElemState) (n : Nat) : Option Nat :=
  match e.desc.mode with
  | .norm => some (min ((field (e.p 0) 0 5).toNat + 1) n)
  | .div | .rcp => some 2
  | .sqrt => some 3
  | .unpk => some 0
  | _ => none

/-- Lanes that a group's predicate leaves out (08 R138). -/
def ElemState.offLanes (e : ElemState) (g : GroupRun) : BitVec 512 :=
  match e.desc.mode, g.pred with
  | .steer, _ | .mrgp, _ | _, none => 0
  | _, some m => ~~~m

/-! ## Taking headers and digits -/

/-- Whether an element needs a predicate: STEER and MRGP do (16 R354, R356), others when it is routed to them. -/
def ElemState.needsPred (e : ElemState) : Bool :=
  match e.desc.mode with | .steer | .mrgp => true | _ => e.desc.pred.isSome

/-- Whether a new group can begin at an input: its predicate is present, and fewer than four groups are in progress
(notes/assumptions/29.md). -/
def ElemState.mayBegin (e : ElemState) (sees : Sees) : Bool :=
  (!e.needsPred || sees.pred.isSome) && decide (e.groups.length < 4)

/-- Whether the header instant at an input can be taken now: its group has begun or may begin. -/
def ElemState.hdrOk (e : ElemState) (sees : Sees) (i : Nat) : Bool := (e.hdrGroup i).isSome || e.mayBegin sees

/-- The output of a new group and its predicate. -/
def ElemState.outOf (e : ElemState) (sees : Sees) : Nat :=
  match e.desc.mode with
  | .steer => if (sees.pred.getD 0).getLsbD (field (e.p 0) 0 9).toNat then 0 else 1
  | .mrgi | .mrga => unselected
  | _ => 0

/-- A group begun at an input: the sequence number counts the groups of its output (07 R131), STEER's index all of them. -/
def ElemState.begin (e : ElemState) (sees : Sees) (i out : Nat) : ElemState :=
  let pred := if e.needsPred then sees.pred else none
  let g := { GroupRun.new i out (BitVec.ofNat 8 (e.num (8 + out))) pred with index := e.num 0 }
  let e' : ElemState := { e with groups := e.groups ++ [g] }
  let e' := if e.desc.mode = .steer then e'.setNum 0 ((e.num 0 + 1) % 2 ^ 32) else e'
  if out = unselected then e' else e'.setNum (8 + out) (e.num (8 + out) + 1)

/-- A header instant taken into a group. -/
def GroupRun.addHdr (g : GroupRun) (i : Nat) (h : BitVec 1024) (gw : Option (BitVec 16)) : GroupRun :=
  let w := gw.getD 0
  { g with
    hdrs := updAt g.hdrs i (· ++ [h])
    seqs := if (getAt g.hdrs i []).isEmpty then updAt g.seqs i (fun _ => field w 0 8) else g.seqs
    fin := if (getAt g.hdrs i []).isEmpty then g.fin && bit w 8 else g.fin }

/-- The header part of an item taken: into its group, or into a new one. -/
def ElemState.takeHdr (e : ElemState) (sees : Sees) (i : Nat) (x : Item) : ElemState :=
  match x.hdr with
  | none => e
  | some h =>
    let e' := if (e.hdrGroup i).isSome then e else e.begin sees i (e.outOf sees)
    match e'.hdrGroup i with
    | some n => { e' with groups := updAt e'.groups n fun g => g.addHdr i h x.gword }
    | none => e'

/-- The digit part of an item taken into a group. -/
def GroupRun.addDigits (g : GroupRun) (i : Nat) (x : Item) : GroupRun :=
  if x.valid then { g with digits := updAt g.digits i (· ++ [x.data]) } else { g with ended := updAt g.ended i fun _ => true }

/-- The inputs that take a digit instant now, with the group: all that still deliver it, or none. -/
def Env.digitTakes (v : Env) (e : ElemState) (sees : Sees) (n : Nat) : Option (Nat × List Nat) :=
  match e.curGroup n with
  | none => none
  | some k =>
    match e.groups[k]? with
    | none => none
    | some g =>
      let is := (e.groupIns g).filter (g.live n)
      let ok (i : Nat) : Bool :=
        (getAt g.hdrs i []).length == 8
          && match v.head e i with
             | some x => x.digits && (x.hdr.isNone || e.hdrOk sees i)
             | none => false
      if is.all ok then some (k, is) else none

/-- Whether the head of an input is a header instant by itself. -/
def Env.hdrOnly (v : Env) (e : ElemState) (i : Nat) : Bool :=
  match v.head e i with | some x => x.hdr.isSome && !x.digits | none => false

/-- The inputs that take a header instant by itself now: together with the other inputs of the group, unless those are
ahead (17 Table PGA-9). -/
def Env.hdrTakes (v : Env) (e : ElemState) (sees : Sees) : List Nat :=
  let same (i j : Nat) : Bool := e.hdrGroup i == e.hdrGroup j && e.hdrCount i == e.hdrCount j
  let ahead (i j : Nat) : Bool :=
    match e.hdrGroup i with
    | some n => match e.groups[n]? with | some g => e.hdrCount i < (getAt g.hdrs j []).length | none => false
    | none => false
  let selected (i : Nat) : Bool :=
    !e.selects || match e.hdrGroup i with
      | some n => match e.groups[n]? with | some g => g.out != unselected | none => false
      | none => false
  e.desc.uses.filter fun i =>
    v.hdrOnly e i && e.hdrOk sees i && selected i
      && (e.single || e.desc.uses.all fun j => j == i || ahead i j || (same i j && v.hdrOnly e j))

/-- The faults of the lanes of a digit instant whose code is invalid although they are finite and not killed (07 R128). -/
def ElemState.badLanes (e : ElemState) (g : GroupRun) (i : Nat) (x : Item) : List ElemFault :=
  if !x.valid then []
  else
    ((upTo 512).filter fun l =>
        field x.data (2 * l) 2 == (2 : BitVec 2) && !bit (getAt g.killed i 0) l
          && (headerOf (headerAt (getAt g.hdrs i []) l)).1 == .fin).map fun l =>
      e.fault .digitInvalid i l none none

/-! ## Values of a group's lanes -/

/-- The lanes of a group at an input, with the digits taken so far. -/
def GroupRun.lanes (n : Nat) (g : GroupRun) (i : Nat) : List LaneVal :=
  (upTo 512).map (laneAt n (getAt g.hdrs i []) (getAt g.digits i []))

/-- A function of two lists of lanes, lane by lane. -/
def zipLanes (f : LaneVal → LaneVal → LaneVal) (as bs : List LaneVal) : List LaneVal := List.zipWith f as bs

/-- Lanes that are off replaced by the zero lane. -/
def withZeros (n : Nat) (off : BitVec 512) (ls : List LaneVal) : List LaneVal :=
  if off = 0 then ls else List.zipWith (fun i a => if bit off i then LaneVal.zero n else a) (upTo 512) ls

/-- The participants of LMAX by segments of 2^g lanes: all lanes but those that are off. -/
def segments (g : Nat) (off : BitVec 512) (ls : List LaneVal) : List (List Runner) :=
  (partsOf (2 ^ g) (512 / 2 ^ g) ((upTo 512).zip ls)).map fun seg => seg.filter fun r => !bit off r.1

/-- What LMAX makes of each segment. -/
def ElemState.lmax (e : ElemState) (n : Nat) (g : GroupRun) : List LmaxResult :=
  (segments (e.p 0).toNat (e.offLanes g) (g.lanes n 0)).map (lmaxSegment n)

/-- The output lanes of a group from what has been taken of it; a lane that is off is the zero lane (08 R138). -/
def ElemState.results (e : ElemState) (n : Nat) (g : GroupRun) : List LaneVal :=
  let a := g.lanes n 0
  let b := g.lanes n 1
  let c := constLane n (e.p 0)
  let seg := 2 ^ (e.p 0).toNat
  let off := e.offLanes g
  let all : List LaneVal :=
    match e.desc.mode with
    | .add => zipLanes (addLane n) a b
    | .sub => zipLanes (fun x y => addLane n x (negLane y)) a b
    | .addk => a.map fun x => addLane n x c
    | .lsum =>
      if seg = 1 then a
      else (partsOf seg (512 / seg) (withZeros n off a)).flatMap fun s =>
        List.replicate seg (segSum n (e.p 0).toNat s)
    | .mul => zipLanes (mulLane n) a b
    | .mulk => a.map fun x => mulLane n x c
    | .sqr => a.map fun x => mulLane n x x
    | .div => zipLanes (divLane n) a b
    | .rcp => a.map (divLane n (oneLane n))
    | .sqrt => a.map (sqrtLane n)
    | .norm => a.map (normLane n (field (e.p 0) 0 5).toNat (bit (e.p 0) 5))
    | .scale => a.map (scaleLane n (field (e.p 0) 0 12).toInt)
    | .relu => a.map (reluLane n)
    | .max2 => zipLanes (pickLane n true) a b
    | .min2 => zipLanes (pickLane n false) a b
    | .thr => a.map fun x => if atLeast n x c then x else LaneVal.zero n
    | .lmax => (e.lmax n g).flatMap fun r => List.replicate seg r.value
    | .mrgp => List.zipWith (fun i p => if bit (g.pred.getD 0) i then p.1 else p.2) (upTo 512) (a.zip b)
    | _ => g.lanes n g.src
  withZeros n off all

/-- A lane header in 16 bits; the field E of a lane that is not finite and was formed here is free. -/
def Env.headerBits (v : Env) (e : ElemState) (lane : Nat) (a : LaneVal) : Nat :=
  let exp : BitVec 12 :=
    if a.e = 4096 then Config.nonFiniteE v.clk v.core.toNat e.desc.index lane else BitVec.ofInt 12 a.e
  exp.toNat * 16 + a.cls.bits.toNat * 4

/-- A header instant of 64 lanes. -/
def Env.headerInstant (v : Env) (e : ElemState) (k : Nat) (ls : List LaneVal) : BitVec 1024 :=
  BitVec.ofNat 1024 (packParts 16 (((upTo 64).zip ((ls.drop (64 * k)).take 64)).map fun x =>
    v.headerBits e (64 * k + x.1) x.2))

/-- A digit instant: digit `j` (from 1) of every lane, with 0 in the lanes that are stopped or not finite. -/
def digitInstant (j : Nat) (stopped : BitVec 512) (ls : List LaneVal) : BitVec 1024 :=
  BitVec.ofNat 1024 (packParts 2 (((upTo 512).zip ls).map fun x =>
    if bit stopped x.1 || !x.2.isFin then 0 else (codeOfDigit (getAt x.2.ds (j - 1) 0)).toNat))

/-- The header and digit instants of an output group that UNPK has formed from the words of a vector (09 R177). -/
def Env.unpack (v : Env) (e : ElemState) (n : Nat) (ls : List LaneVal) : List (BitVec 1024) × List (BitVec 1024) :=
  ((upTo 8).map fun k => v.headerInstant e k ls, (upTo n).map fun j => digitInstant (j + 1) 0 ls)

/-! ## Decisions at a digit step (09 R174 to R176; 16 Table ELM-3) -/

/-- The lanes of an input that a comparator kills in the instant of step `k`. -/
def ElemState.decided (e : ElemState) (n : Nat) (g : GroupRun) (k i : Nat) : BitVec 512 :=
  let on (l : Nat) : Bool := !bit (e.offLanes g) l
  let pairs : List (Nat × LaneVal × LaneVal) := (upTo 512).zip ((g.lanes n 0).zip (g.lanes n 1))
  let pick (p : LaneVal → LaneVal → Bool) : BitVec 512 :=
    BitVec.ofNat 512 (packParts 1 (pairs.map fun x => (on x.1 && p x.2.1 x.2.2).toNat))
  let c := constLane n (e.p 0)
  match e.desc.mode with
  | .max2 | .min2 =>
    let max_ := e.desc.mode == .max2
    pick fun a b =>
      (compareLanes n a b).1 == k && (if i = 0 then (pickKills n max_ a b).1 else (pickKills n max_ a b).2)
  | .gtp => pick fun a b => (compareLanes n a b).1 == k
  | .thr => pick fun a _ => (compareLanes n a c).1 == k && !atLeast n a c
  | .relu => pick fun a _ => a.isFin && (a.ds.findIdx? (· != 0)) == some (k - 1) && getAt a.ds (k - 1) 0 == -1
  | .lmax =>
    let ks := (e.lmax n g).flatMap (·.kills)
    lanesWhere fun l => ks.any fun x => x.1 == l && x.2 == k
  | _ => 0

/-- The predicate mask of a group after step D (16 R350, R351; 09 R174). -/
def ElemState.mask (e : ElemState) (n : Nat) (g : GroupRun) : Option (BitVec 512) :=
  let off := e.offLanes g
  match e.desc.mode with
  | .gtp =>
    let ls := (g.lanes n 0).zip (g.lanes n 1)
    some (BitVec.ofNat 512 (packParts 1 (ls.map fun x => ((compareLanes n x.1 x.2).2 == some 1).toNat)) &&& ~~~off)
  | .thr =>
    let c := constLane n (e.p 0)
    some (BitVec.ofNat 512 (packParts 1 ((g.lanes n 0).map fun a => (atLeast n a c).toNat)) &&& ~~~off)
  | .lmax =>
    let ws := (e.lmax n g).filterMap (·.winner)
    some (lanesWhere fun l => ws.contains l)
  | _ => none

/-- The flags of a group once its look-ahead digits are known (16 Table ELM-1). -/
def ElemState.groupFlags (e : ElemState) (n : Nat) (g : GroupRun) : BitVec 32 :=
  let any (i : Nat) (p : LaneVal → Bool) : Bool :=
    ((upTo 512).zip (g.lanes n i)).any fun x => !bit (e.offLanes g ||| getAt g.killed i 0) x.1 && p x.2
  match e.desc.mode with
  | .div => if any 1 fun d => d.isFin && !normalised d then 1 else 0
  | .rcp => if any 0 fun d => d.isFin && !normalised d then 1 else 0
  | .sqrt => if any 0 fun r => r.cls == .ninf || (r.isFin && r.e != -2048 && !radicandOk r) then 2 else 0
  | .norm =>
    if any 0 fun a => a.isFin && a.e != -2048
        && (normShift n (field (e.p 0) 0 5).toNat (bit (e.p 0) 5) a).isNone then 4 else 0
  | _ => 0

/-- Flags of a conversion in P7 (16 Table ELM-1). -/
def p7Flags (f : FpFlags) : BitVec 32 :=
  BitVec.ofNat 32 (f.nx.toNat * 8 + f.uf.toNat * 16 + f.of.toNat * 32 + f.dz.toNat * 64 + f.nv.toNat * 128)

/-- PACK: the 16 W instants of a group whose digits have all been taken, and their flags (09 R178). -/
def ElemState.packed (e : ElemState) (n : Nat) (g : GroupRun) : List (List (Nat × Item)) × BitVec 32 :=
  let d := e.p 0
  let off := e.offLanes g
  let vals := ((upTo 512).zip (g.lanes n 0)).map fun x =>
    if bit off x.1 then (0, FpFlags.none) else (fmtOfWord d).ofNum (x.2.num n) (rmOfWord d) (satOfWord d)
  let fl := vals.foldl (fun m x => m ||| p7Flags x.2) 0
  ((partsOf 32 16 (vals.map fun x => BitVec.ofNat 32 x.1)).map fun ws => [(0, Item.ofData (ofWords ws))], fl)

/-! ## Kills (08 R147) -/

/-- Lanes gathered by segments: a segment counts when every lane of it does. -/
def bySegments (g : Nat) (m : BitVec 512) : BitVec 512 :=
  if g = 0 then m
  else
    let full := (upTo (512 / 2 ^ g)).map fun s => field m (2 ^ g * s) (2 ^ g) == BitVec.allOnes (2 ^ g)
    lanesWhere fun l => getAt full (l / 2 ^ g) false

/-- The lanes that a consumer has killed of an output's group, by the kills that have arrived. -/
def Env.killedBy (v : Env) (idx out : Nat) (seq : BitVec 8) (c : Nat × Nat) : BitVec 512 :=
  v.cfg.kills.foldl (fun m k =>
    if k.at_ ≤ v.cfg.instant && k.elem == idx && k.out == out && k.seq == seq && k.fromElem == c.1 && k.fromPort == c.2
    then m ||| k.lanes else m) 0

/-- The lanes of a group that every consumer of its output has killed; an egress port never kills. FORK's outputs count
together. -/
def Env.stopped (v : Env) (e : ElemState) (g : GroupRun) : BitVec 512 :=
  let img := v.cfg.image
  let outs := if e.desc.mode = .fork then v.outs e else [g.out]
  let cs := outs.flatMap fun o => (img.consumers (e.src o)).map fun c => (o, c.1, c.2.1)
  if cs.isEmpty || (outs.any fun o => !(img.egressOf (e.src o)).isEmpty) = true then 0
  else
    let m := cs.foldl (fun m c => m &&& v.killedBy e.desc.index c.1 g.outSeq c.2) allLanes
    match e.desc.mode with
    | .lsum | .lmax => bySegments (e.p 0).toNat m
    | _ => m

/-- Which lanes of an input stopped output lanes kill (16 R345, R350, R356): with LMAX those that are still live. -/
def ElemState.mapKill (e : ElemState) (g : GroupRun) (i : Nat) (m : BitVec 512) : BitVec 512 :=
  match e.desc.mode with
  | .lmax => m &&& ~~~(getAt g.killed i 0)
  | .mrgp => if i = 0 then m &&& g.pred.getD 0 else m &&& ~~~(g.pred.getD 0)
  | _ => m

/-- A kill of lanes of a group at an input, on its way to the producing output, which knows the group by its own number; no
kill goes to an ingress port or through a W input. -/
def ElemState.killTo (e : ElemState) (g : GroupRun) (i at_ : Nat) (lanes : BitVec 512) : List Kill :=
  match e.desc.ins[i]? with
  | some d =>
    match d.src with
    | .elem j o =>
      if d.isD && lanes != 0 then
        [{ at_ := at_, elem := j, out := o, fromElem := e.desc.index, fromPort := i,
           seq := getAt g.seqs i 0 + getAt e.bases i 0, lanes := lanes }]
      else []
    | _ => []
  | none => []

/-- Kills of new lanes of a group at its inputs, which arrive in instant `at_`. -/
def ElemState.sendKills (e : ElemState) (g : GroupRun) (at_ : Nat) (lanes : Nat → BitVec 512) : GroupRun × List Kill :=
  (e.groupIns g).foldl (fun (x : GroupRun × List Kill) i =>
    let fresh := lanes i &&& ~~~(getAt x.1.killed i 0)
    ({ x.1 with killed := updAt x.1.killed i (· ||| fresh) }, x.2 ++ e.killTo g i at_ fresh)) (g, [])

/-! ## Steps -/

/-- What an element gathers in an instant besides its own state. -/
structure Gather where
  e : ElemState
  kills : List Kill
  pred : Option (BitVec 512)

/-- What happens in the instant in which a group makes step `k` (at most D): flags, decisions, the predicate mask, and
PACK's words. -/
def Env.atStep (v : Env) (n : Nat) (x : Gather) (ix : Nat) : Gather :=
  match x.e.groups[ix]? with
  | none => x
  | some g =>
    let k := g.steps
    let e := match x.e.lookAhead n with | some h => if k = h then x.e.flag (x.e.groupFlags n g) else x.e | none => x.e
    let (g, ks) := e.sendKills g (v.cfg.instant + 1) fun i => e.decided n g k i
    let e : ElemState := { e with groups := updAt e.groups ix fun _ => g }
    let e := if e.desc.mode = .pack && k == n then
        let (ws, fl) := e.packed n g
        ({ e with outq := e.outq ++ ws } : ElemState).flag fl
      else e
    { e := e, kills := x.kills ++ ks, pred := if k = n then (e.mask n g <|> x.pred) else x.pred }

/-- The groups that make a step in this instant: the one whose digits were taken, unless its last input has just ended,
and those that no input delivers any more. -/
def ElemState.stepping (e0 e : ElemState) (n : Nat) (taken : Option Nat) : List Nat :=
  (upTo e.groups.length).filter fun ix =>
    match e.groups[ix]? with
    | none => false
    | some g =>
      g.marker.isNone && g.out != unselected
        && (if taken == some ix then
              (e.groupIns g).any fun i =>
                (getAt g.digits i []).length != (((e0.groups[ix]?).map fun h => (getAt h.digits i []).length).getD 0)
            else decide (g.steps < n + e.lag n) && ix < e0.groups.length && e.takenAll n g)

/-- The steps of an instant. -/
def Env.steps (v : Env) (n : Nat) (ixs : List Nat) (e : ElemState) : Gather :=
  let e : ElemState := { e with groups := ixs.foldl (fun gs ix => updAt gs ix fun g => { g with steps := g.steps + 1 }) e.groups }
  ixs.foldl (fun (x : Gather) ix =>
    match x.e.groups[ix]? with
    | some g => if g.steps ≤ n then v.atStep n x ix else x
    | none => x) { e := e, kills := [], pred := none }

/-! ## Emitting -/

/-- The last header instant that output header instant `k` depends on: LSUM and LMAX need whole segments. -/
def ElemState.needHdr (e : ElemState) (k : Nat) : Nat :=
  match e.desc.mode with
  | .lsum | .lmax => let w := 2 ^ (e.p 0).toNat; if w ≤ 64 then k else (64 * k / w * w + w) / 64 - 1
  | _ => k

/-- Whether the next header instant of the group at `ix` can leave: for a look-ahead mode its look-ahead digits were taken
in an earlier instant (09 R171), and UNPK knows what follows (07 R131); THR has decided every lane. -/
def ElemState.hdrReady (e e0 : ElemState) (n ix : Nat) (g : GroupRun) : Bool :=
  let full := (e.groupIns g).all fun i => e.needHdr g.outHdrs < (getAt g.hdrs i []).length
  g.marker.isNone && g.out != unselected && decide (g.outHdrs < 8) && full
    && (match e.lookAhead n with
        | some h => match e0.groups[ix]? with | some b => decide (h ≤ b.steps) | none => false
        | none => true)
    && (match e.desc.mode with
        | .thr => decide (n ≤ g.steps)
        | .unpk => !e.buf.isEmpty || decide (ix + 1 < e.groups.length)
        | _ => true)

/-- Whether the next digit of the group at `ix` can leave: its step has been made, and a look-ahead mode knows enough of the
group that follows, unless none does (09 R171). -/
def ElemState.digitReady (e e0 : ElemState) (n ix : Nat) (g : GroupRun) : Bool :=
  let follows : Bool :=
    match e.lookAhead n with
    | none => true
    | some h =>
      g.outDigits != 0 || g.fin
        || match e.groups[ix + 1]? with
           | some x => x.marker.isSome || (match e0.groups[ix + 1]? with | some b => decide (h ≤ b.steps) | none => false)
           | none => false
  decide (g.outDigits + 1 + e.lag n ≤ g.steps) && follows

/-- Whether the other inputs that MRGI or MRGA merges are closed; registers 2 and up hold the level + 1 of a closed arm or
input. -/
def ElemState.othersClosed (e : ElemState) (i : Nat) : Bool :=
  match e.desc.mode with
  | .mrgi => e.num (2 + (2 - i) / 2) != 0
  | _ => e.desc.uses.all fun j => j == i || e.num (2 + j) != 0

/-- The header instant that leaves with or before a group: its bits, with the group word in the first. -/
def Env.headerItem (v : Env) (e : ElemState) (n ix : Nat) (g : GroupRun) (x : Item) : Item :=
  let fin := match e.desc.mode with
    | .unpk => (match e.groups[ix + 1]? with | some y => y.marker.isSome | none => false)
    | .mrgi | .mrga => g.fin && e.othersClosed g.src
    | _ => g.fin
  let bits := if e.desc.mode = .unpk then getAt (getAt g.hdrs 0 []) g.outHdrs 0
    else v.headerInstant e g.outHdrs (e.results n g)
  { x with
    hdr := some bits
    gword := if g.outHdrs = 0 then some (BitVec.ofNat 16 (g.outSeq.toNat + fin.toNat * 256)) else none }

/-- STEER's index of a group, which leaves with its first header instant (16 R354; notes/assumptions/30.md). -/
def ElemState.indexItem (e : ElemState) (o : Nat) (g : GroupRun) : List (Nat × Item) :=
  if e.desc.mode = .steer && g.outHdrs == 0 then [(o + 2, Item.ofData (ofWords [BitVec.ofNat 32 g.index]))] else []

/-- A group after its header instant has left. -/
def GroupRun.sentHdr (g : GroupRun) : GroupRun := { g with outHdrs := g.outHdrs + 1 }

/-- Whether all lanes of a group are stopped or finished (08 R148). -/
def ElemState.allStopped (e : ElemState) (g : GroupRun) (stop : BitVec 512) : Bool := (stop ||| e.offLanes g) == allLanes

/-- The digit instant of a group that leaves, or the notice that it ends early; none when it cannot leave. -/
def Env.digitItem (v : Env) (e e0 : ElemState) (n ix : Nat) (g : GroupRun) : Option (Item × GroupRun) :=
  let stop := v.stopped e g
  if g.outHdrs < 8 then none
  else if e.allStopped g stop then some ({ Item.blank with last := true }, { g with outDone := true })
  else if e.digitReady e0 n ix g then
    let j := g.outDigits + 1
    let bits := if e.desc.mode = .unpk then
        let d := getAt (getAt g.digits 0 []) g.outDigits 0
        (if stop = 0 then d else digitInstant j stop (g.lanes n 0))
      else digitInstant j stop (e.results n g)
    some (Item.ofData bits, { g with outDigits := j, outDone := decide (j = n) })
  else none

/-- What leaves on an output in this instant (07 R130): a digit of its oldest group, with the next header instant of the
group behind it when those began with the first digit, or a header instant by itself. -/
def Env.emitOn (v : Env) (e0 : ElemState) (n : Nat) (x : ElemState × List (Nat × Item)) (o : Nat) :
    ElemState × List (Nat × Item) :=
  let e := x.1
  let mine (g : GroupRun) : Bool := g.marker.isSome || (g.out == o && !g.outDone)
  match findIx (fun _ g => mine g) e.groups with
  | none => x
  | some ix =>
    match e.groups[ix]? with
    | none => x
    | some g =>
      if g.marker.isSome then x
      else
        match v.digitItem e e0 n ix g with
        | some (item, g') =>
          let next := findIx (fun m h => decide (ix < m) && mine h) e.groups
          let rider := next.bind fun m => (e.groups[m]?).bind fun h =>
            if h.marker.isNone && h.outHdrs == g.outDigits && e.hdrReady e0 n m h then some (m, h) else none
          let gs := updAt e.groups ix fun _ => g'
          let early := if g'.outDone && g'.outDigits == g.outDigits then 1 else 0
          let e' : ElemState :=
            { e with groups := gs, counters := { e.counters with killed := satAdd32 e.counters.killed early } }
          match rider with
          | some (m, h) =>
            ({ e' with groups := updAt gs m fun _ => h.sentHdr }, x.2 ++ [(o, v.headerItem e n m h item)] ++ e.indexItem o h)
          | none => (e', x.2 ++ [(o, item)])
        | none =>
          if e.hdrReady e0 n ix g then
            ({ e with groups := updAt e.groups ix fun _ => g.sentHdr },
              x.2 ++ [(o, v.headerItem e n ix g Item.blank)] ++ e.indexItem o g)
          else x

/-- The outputs on which a mode's groups leave. -/
def ElemState.groupOuts (e : ElemState) : List Nat :=
  match e.desc.mode with | .gtp | .pack => [] | .steer => [0, 1] | _ => [0]

/-- Groups that have been taken and have left, removed from the front. -/
def ElemState.dropDone (e : ElemState) (n : Nat) : List GroupRun → List GroupRun
  | [] => []
  | g :: rest =>
    if g.marker.isNone && g.out != unselected && e.takenAll n g && decide (n ≤ g.steps)
        && (g.outDone || e.groupOuts.isEmpty) then e.dropDone n rest
    else g :: rest

/-! ## An instant of the engine -/

/-- A marker taken at every needed input at once, when nothing of a group is pending there (16 R345). With no data output
in use the marker is the element's done, after which it rests: it stays at the head until the steps of the groups before it
are made, so that their masks go out (09 R174; notes/assumptions/107.md). -/
def Env.takeMarks (v : Env) (e : ElemState) (n : Nat) (is : List Nat) : Option (ElemState × BitVec 3) :=
  let hs := is.map (v.head e)
  if !is.isEmpty && (hs.all fun h => match h with | some x => x.marker.isSome | none => false)
    && e.groups.all fun g => e.takenAll n g && (!(v.outs e).isEmpty || decide (n ≤ g.steps))
  then some (e.takes is, v.markLevel e is)
  else none

/-- The kills of lanes that have stopped, for each input of the group, with those lanes noted as passed on. -/
def ElemState.passKills (e : ElemState) (g : GroupRun) (at_ : Nat) (stop : BitVec 512) : GroupRun × List Kill :=
  let fresh := stop &&& ~~~g.passed
  (e.groupIns g).foldl (fun (x : GroupRun × List Kill) i =>
    let m := e.mapKill x.1 i fresh
    ({ x.1 with killed := updAt x.1.killed i (· ||| m) }, x.2 ++ e.killTo g i at_ m)) ({ g with passed := g.passed ||| fresh }, [])

/-- Kills that stop lanes of groups whose last digit has not left, passed on to the inputs: the element sends them in the
next instant (08 R147; 17 R374). -/
def Env.stopKills (v : Env) (e0 : ElemState) (x : Gather) : Gather :=
  (upTo x.e.groups.length).foldl (fun (x : Gather) ix =>
    match x.e.groups[ix]?, e0.groups[ix]? with
    | some g, some b =>
      if g.marker.isSome || b.outDone then x
      else
        let (g', ks) := x.e.passKills g (v.cfg.instant + 2) (v.stopped x.e g)
        { x with e := { x.e with groups := updAt x.e.groups ix fun _ => g' }, kills := x.kills ++ ks }
    | _, _ => x) x

/-- The takes of an instant: the element after them, the group whose digits were taken, whether anything was taken, and
the faults of the digits. -/
structure Taken where
  e : ElemState
  cur : Option Nat
  any : Bool
  faults : List ElemFault

/-- Digits and headers taken. -/
def Env.takeItems (v : Env) (e : ElemState) (sees : Sees) (n : Nat) : Taken :=
  let dt := v.digitTakes e sees n
  let dis := (dt.map (·.2)).getD []
  let his := v.hdrTakes e sees
  let faults := match dt with
    | some (k, is) =>
      match e.groups[k]? with
      | some g => is.flatMap fun i => match v.head e i with | some x => e.badLanes g i x | none => []
      | none => []
    | none => []
  let e1 := dis.foldl (fun (e' : ElemState) i =>
    match dt, v.head e i with
    | some (k, _), some x =>
      (({ e' with groups := updAt e'.groups k fun g => g.addDigits i x } : ElemState).takeHdr sees i x).take i
    | _, _ => e') e
  let e2 := his.foldl (fun (e' : ElemState) i =>
    match v.head e i with | some x => (e'.takeHdr sees i x).take i | none => e') e1
  { e := e2, cur := dt.map (·.1), any := !dis.isEmpty || !his.isEmpty, faults := faults }

/-- The marker at the front of what is pending, emitted on every data output in use once the words before it are out; the
done of R345. -/
def Env.emitPending (v : Env) (e e0 : ElemState) : Option (ElemState × List (Nat × Item) × Bool) :=
  match e.groups with
  | g :: rest =>
    match g.marker with
    | some l =>
      if e0.outq.isEmpty && e.outq.isEmpty then
        some ({ e with groups := rest }, (v.outs e).map fun o => (o, Item.mark l),
          decide (e.doneLevel.toNat ≤ l.toNat) || g.index == 1)
      else none
    | none => none
  | [] => none

/-- The rest of an instant, from the takes on: steps, the oldest word instant of PACK, digits and headers, kills, a
pending marker. `acted` says that absence was acted on, `pred` is a strobe, `done` the done of a marker taken with no
output in use. An element whose only act is a step beyond the D digits, the output being held back, stalls (09 R171).
-/
def Env.finish (v : Env) (e0 : ElemState) (n : Nat) (t : Taken) (acted : Bool) (strobe : Option (BitVec 512)) (done : Bool) :
    Reaction :=
  let ixs := e0.stepping t.e n t.cur
  let x := v.steps n ixs t.e
  let (e, words) := match e0.outq with | w :: _ => ({ x.e with outq := x.e.outq.tail }, w) | [] => (x.e, [])
  let (e, items) := e.groupOuts.foldl (v.emitOn e0 n) (e, words)
  let forked := if e.desc.mode = .fork then items.flatMap fun y => (v.outs e).map fun o => (o, y.2) else items
  let x := v.stopKills e0 { x with e := e }
  let e : ElemState := { x.e with groups := x.e.dropDone n x.e.groups }
  let (e, marks, mdone) := match v.emitPending e e0 with
    | some (e', ms, d) => if items.isEmpty then (e', ms, d) else (e, [], false)
    | none => (e, [], false)
  let out := (forked ++ marks).filter fun y => v.driven e0 y.1
  let pred := x.pred <|> strobe
  let done := done || mdone
  let steps := ixs.any fun ix => match t.e.groups[ix]? with | some g => decide (g.steps < n) | none => false
  let how := if !out.isEmpty || pred.isSome || done || acted then How.fired
    else if t.any || steps || !items.isEmpty || !marks.isEmpty then .took else .noopnd
  { e := e, how := how, emits := out, pred := pred, done := done, kills := x.kills, faults := t.faults }

/-- A marker taken: it waits behind the groups in progress, or, with no data output in use, is gone and may be done. -/
def Env.queueMark (v : Env) (e : ElemState) (l : BitVec 3) : ElemState × Bool :=
  if (v.outs e).isEmpty then (e, decide (e.doneLevel.toNat ≤ l.toNat))
  else ({ e with groups := e.groups ++ [GroupRun.ofMarker l] }, false)

/-- Whether PACK has room to begin another group: fewer than two groups of words wait to leave. -/
def ElemState.packFull (e : ElemState) : Bool := e.desc.mode == .pack && decide (16 < e.outq.length)

/-- An instant of an element that takes its groups from all inputs, or from its only one. `e0` is the element at the start
of the instant, `e` the element after what its mode did first. -/
def Env.reactGroups (v : Env) (e0 e : ElemState) (sees : Sees) : Reaction :=
  let n := v.digits e
  match v.takeMarks e n e.desc.uses with
  | some (e', l) =>
    let (e', d) := v.queueMark e' l
    v.finish e0 n { e := e', cur := none, any := true, faults := [] } false none d
  | none =>
    let fresh := match (e.curGroup n).bind fun k => e.groups[k]? with | some g => g.steps == 0 | none => false
    let t : Taken :=
      if e.packFull && fresh then { e := e, cur := none, any := false, faults := [] } else v.takeItems e sees n
    let strobe := if e.desc.mode = .ctlm && decide (e.groups.length < t.e.groups.length) then some allLanes else none
    v.finish e0 n t false strobe false

end Sys2Proof.Machine
end

