-- ==== Sys2Proof/Machine/Select.lean ====
section
/-!
DEFINITION. The elements that form groups of words or choose the input of their next group: UNPK, THR's timeout, MRGI and
MRGA (16 R351, R352, R355, R356).
-/
namespace Sys2Proof.Machine

/-! ## UNPK (16 R352; 09 R177) -/

/-- The exact values of a vector's 512 lane words in a format (07 R124). -/
def vectorNums (d : BitVec 32) (ws : List (BitVec 32)) : List Num :=
  if (field d 0 4).toNat = 6 then
    let bs := (ws.take 144).flatMap fun w => bytesOf w.toNat 4
    (upTo 512).map fun i => nb16Decode (field d 4 5) (sliceBytes bs (18 * (i / 16)) 18) (i % 16)
  else
    let f := fmtOfWord d
    ws.map fun w => f.decode (w.toNat % 2 ^ (8 * f.bytes))

/-- The group of a vector whose words have been taken, those of missing instants being zero words. Its FIN is known
once what follows it has been taken (09 R171). -/
def Env.unpackGroup (v : Env) (e : ElemState) (n : Nat) : ElemState :=
  let ws := e.buf ++ List.replicate (512 - e.buf.length) 0
  let ls := withZeros n (~~~e.predLive) ((vectorNums (e.p 0) ws).map (laneOfNum n))
  let (hs, ds) := v.unpack e n ls
  let g := { GroupRun.new 0 0 (BitVec.ofNat 8 (e.num 8)) (some e.predLive) with
    fin := false, hdrs := [hs, [], [], []], digits := [ds, [], [], []], steps := n }
  ({ e with groups := e.groups ++ [g], buf := [] } : ElemState).setNum 8 (e.num 8 + 1)

/-- What UNPK takes. -/
def Env.takeWords (v : Env) (e : ElemState) (sees : Sees) (n : Nat) : Taken × Bool :=
  let none_ : Taken × Bool := ({ e := e, cur := none, any := false, faults := [] }, false)
  match v.head e 0 with
  | none => none_
  | some x =>
    if x.marker.isSome then
      let e' := (if e.buf.isEmpty then e else v.unpackGroup e n).endVec
      let (e', d) := v.queueMark (e'.take 0) x.level
      ({ e := e', cur := none, any := true, faults := [] }, d)
    else
      match e.maskNow sees with
      | none => none_
      | some m =>
        if 4 ≤ e.groups.length then none_
        else
          let e' := (({ e with buf := e.buf ++ wordsOf x.data } : ElemState).nextVec m).take 0
          let e' := if e'.buf.length = 512 then v.unpackGroup e' n else e'
          ({ e := e', cur := none, any := true, faults := [] }, false)

/-- An instant of UNPK. -/
def Env.reactUnpk (v : Env) (e : ElemState) (sees : Sees) : Reaction :=
  let n := v.digits e
  let (t, d) := v.takeWords e sees n
  v.finish e n t false none d

/-! ## Timeouts of THR and CTLM (16 R351, R360) -/

/-- Whether an element has seen no data and no marker at IN0 for its timeout; register 0 counts the instants. -/
def ElemState.timeoutDue (e : ElemState) : Bool :=
  match e.desc.mode with
  | .thr | .ctlm => e.p 2 != 0 && decide ((e.p 2).toNat ≤ e.num 0)
  | _ => false

/-- The marker of a timeout queued behind what is pending, and the count set back; CTLM emits done even with no output
in use. -/
def Env.timeOut (v : Env) (e : ElemState) : ElemState :=
  let g := if e.desc.mode = .ctlm then GroupRun.ofDone (field (e.p 4) 0 3) else GroupRun.ofMarker (field (e.p 1) 0 3)
  let e' : ElemState := if (v.outs e).isEmpty && e.desc.mode != .ctlm then e else { e with groups := e.groups ++ [g] }
  e'.setNum 0 0

/-- The count of silent instants after an instant in which the element did not time out; a count that is due stays. -/
def Env.countSilence (v : Env) (e0 e : ElemState) : ElemState :=
  match e0.desc.mode with
  | .thr | .ctlm =>
    if e0.timeoutDue then e else e.setNum 0 (if (v.head e0 0).isSome then 0 else e0.num 0 + 1)
  | _ => e

/-! ## MRGI and MRGA on D channels (16 R355, R356) -/

/-- Whether a group is in progress: a selected one that has not been taken whole. -/
def ElemState.busy (e : ElemState) (n : Nat) : Bool :=
  e.groups.any fun g => g.marker.isNone && g.out != unselected && !e.takenAll n g

/-- The group of an input that has begun and is not selected. -/
def ElemState.pendingOf (e : ElemState) (i : Nat) : Option Nat :=
  findIx (fun _ g => g.marker.isNone && g.out == unselected && g.src == i) e.groups

/-- Whether the start of a group stands at a data input. -/
def Env.startAt (v : Env) (e : ElemState) (i : Nat) : Bool :=
  if ((e.desc.ins[i]?).map (·.isD)).getD false then (e.pendingOf i).isSome || v.hdrOnly e i
  else match v.head e i with | some x => x.valid | none => false

/-- Whether a marker stands at an input. -/
def Env.markAt (v : Env) (e : ElemState) (i : Nat) : Bool :=
  match v.head e i with | some x => x.marker.isSome | none => false

/-- The level of the marker at an input. -/
def Env.levelAt (v : Env) (e : ElemState) (i : Nat) : BitVec 3 := match v.head e i with | some x => x.level | none => 0

/-- Arms of MRGI, or inputs of MRGA, closed by the markers at their heads: an arm by those of its data and its index. -/
def Env.closeArms (v : Env) (e : ElemState) : ElemState :=
  match e.desc.mode with
  | .mrgi =>
    [0, 1].foldl (fun (e' : ElemState) a =>
      if e.num (2 + a) = 0 && v.markAt e (2 * a) && v.markAt e (2 * a + 1) && (e.pendingOf (2 * a)).isNone then
        (e'.takes [2 * a, 2 * a + 1]).setNum (2 + a)
          ((highest [v.levelAt e (2 * a), v.levelAt e (2 * a + 1)]).toNat + 1)
      else e') e
  | _ =>
    e.desc.uses.foldl (fun (e' : ElemState) i =>
      if e.num (2 + i) = 0 && v.markAt e i && (e.pendingOf i).isNone then
        (e'.take i).setNum (2 + i) ((v.levelAt e i).toNat + 1)
      else e') e

/-- The registers of the arms or inputs in use. -/
def ElemState.closeRegs (e : ElemState) : List Nat :=
  match e.desc.mode with | .mrgi => [2, 3] | _ => e.desc.uses.map (2 + ·)

/-- The marker to emit once every arm or input in use is closed. -/
def ElemState.closedLevel (e : ElemState) : Option (BitVec 3) :=
  if !e.closeRegs.isEmpty && e.closeRegs.all fun r => e.num r != 0 then
    some (highest (e.closeRegs.map fun r => BitVec.ofNat 3 (e.num r - 1)))
  else none

/-- Every arm or input opened again. -/
def ElemState.reopen (e : ElemState) : ElemState := e.closeRegs.foldl (fun e r => e.setNum r 0) e

/-- The arm that MRGI takes next (16 R355): the first of its cases that holds; register 0 holds X. -/
def Env.nextArm (v : Env) (e : ElemState) : Option (Nat × Nat) :=
  let ix (a : Nat) : Option Nat :=
    if e.num (2 + a) ≠ 0 then none
    else match v.head e (2 * a + 1) with | some x => if x.valid then some (field x.data 0 32).toNat else none | none => none
  match ix 0, ix 1 with
  | some p, some q =>
    if p = e.num 0 then some (0, p) else if q = e.num 0 then some (1, q) else if p ≤ q then some (0, p) else some (1, q)
  | some p, none => if p = e.num 0 || e.num 3 != 0 then some (0, p) else none
  | none, some q => if q = e.num 0 || e.num 2 != 0 then some (1, q) else none
  | none, none => none

/-- The input that MRGA takes next: the first in rotation after the last one whose head holds the start of a group, and
whether one was passed over; register 0 holds the last input + 1. -/
def Env.nextInput (v : Env) (e : ElemState) : Option (Nat × Bool) :=
  let is := e.desc.uses
  let order := (is.filter fun i => e.num 0 ≤ i) ++ is.filter fun i => i < e.num 0
  let live := order.filter fun i => e.num (2 + i) == 0
  match live.find? (v.startAt e) with
  | some i => some (i, live.head? != some i)
  | none => none

/-- The group that MRGI or MRGA selects when none is in progress: its data input, the element after the index has been
taken or the rotation has moved, and whether absence was acted on. -/
def Env.selection (v : Env) (e : ElemState) : Option (Nat × ElemState × Bool) :=
  match e.desc.mode with
  | .mrgi =>
    match v.nextArm e with
    | some (a, x) =>
      if v.startAt e (2 * a) then some (2 * a, (e.take (2 * a + 1)).setNum 0 ((x + 1) % 2 ^ 32), false) else none
    | none => none
  | _ =>
    match v.nextInput e with
    | some (i, passed) => some (i, e.setNum 0 (i + 1), passed)
    | none => none

/-- A group on a D channel selected: the one that has begun at the input, or a new one. -/
def ElemState.selectGroup (e : ElemState) (sees : Sees) (i : Nat) : ElemState :=
  match e.pendingOf i with
  | some k =>
    let seq := BitVec.ofNat 8 (e.num 8)
    let moved := (e.groups[k]?).map fun g => { g with out := 0, outSeq := seq }
    ({ e with groups := (e.groups.take k ++ e.groups.drop (k + 1)) ++ moved.toList } : ElemState).setNum 8 (e.num 8 + 1)
  | none => e.begin sees i 0

/-- An instant of MRGI or MRGA on D channels. -/
def Env.mergeD (v : Env) (e0 : ElemState) (sees : Sees) : Reaction :=
  let n := v.digits e0
  let busy := e0.busy n
  let e1 := if e0.desc.mode = .mrgi && busy then e0 else v.closeArms e0
  let (e2, acted) := if busy then (e1, false) else
    match v.selection e1 with
    | some (i, e', passed) => if e1.mayBegin sees || (e1.pendingOf i).isSome then (e'.selectGroup sees i, passed) else (e1, false)
    | none => (e1, false)
  let t := v.takeItems e2 sees n
  let moved := e0.fifos != e1.fifos || e1.fifos != e2.fifos
  let (e3, d) := match e2.closedLevel with
    | some l => if e2.busy n || t.any then (t.e, false) else v.queueMark t.e.reopen l
    | none => (t.e, false)
  v.finish e0 n { t with e := e3, any := t.any || moved } acted none d

/-! ## MRGI and MRGA on W channels -/

/-- A data instant of an input copied to out0 under the predicate. -/
def Env.copyWord (v : Env) (e : ElemState) (sees : Sees) (i : Nat) : Option (ElemState × BitVec 1024) :=
  match v.head e i, e.maskNow sees with
  | some x, some m => some ((e.take i).nextVec m, ofWords (e.masked m (wordsOf x.data)))
  | _, _ => none

/-- An instant of MRGI or MRGA on W channels; register 1 holds the data input + 1 of the vector in progress. -/
def Env.mergeW (v : Env) (e0 : ElemState) (sees : Sees) : Reaction :=
  let copy (e : ElemState) (i : Nat) : Reaction :=
    match v.copyWord e sees i with
    | some (e', d) => v.emitAll (e'.setNum 1 (if e'.vec = 0 then 0 else i + 1)) (Item.ofData d)
    | none => e0.waits
  let cur := e0.num 1
  if cur ≠ 0 && !v.markAt e0 (cur - 1) then copy e0 (cur - 1)
  else
    let e := if cur ≠ 0 then e0.endVec.setNum 1 0 else e0
    let e1 := v.closeArms e
    match v.selection e1 with
    | some (i, e', _) => copy e' i
    | none =>
      match e1.closedLevel with
      | some l => v.emitMark e1.reopen l
      | none => if e1.fifos = e0.fifos then e0.waits else e1.took

/-- An instant of MRGI or MRGA. -/
def Env.reactMerge (v : Env) (e : ElemState) (sees : Sees) : Reaction :=
  if e.desc.takesD || (e.desc.uses.any fun i => ((e.desc.ins[i]?).map (·.isD)).getD false && i % 2 == 0) then v.mergeD e sees
  else v.mergeW e sees

end Sys2Proof.Machine
end

