-- ==== Sys2Proof/Machine/WModes.lean ====
section
/-!
DEFINITION. The elements on W channels other than the memory ones: copies, EXP2 and LOG2, STEER, MRGP, compaction, counters
and controllers, and windows (16 R352 to R361).
-/
namespace Sys2Proof.Machine

/-! ## Copies: FORK, CTLM, EXP2, LOG2, MRGP, STEER -/

/-- A W instant under a predicate, word by word: none when the data or the predicate is absent. -/
def Env.mapWords (v : Env) (e : ElemState) (sees : Sees) (f : BitVec 32 → BitVec 32 × BitVec 32) :
    Option (ElemState × Item) :=
  match v.head e 0, e.maskNow sees with
  | some x, some m =>
    let rs := ((upTo 32).zip (wordsOf x.data)).map fun p => if e.laneOn m p.1 then f p.2 else (0, 0)
    some (((e.take 0).nextVec m).flag (rs.foldl (fun a r => a ||| r.2) 0), Item.ofData (ofWords (rs.map (·.1))))
  | _, _ => none

/-- An instant of a mode that emits one W instant for each that it takes. -/
def Env.wordMode (v : Env) (e : ElemState) (sees : Sees) (f : BitVec 32 → BitVec 32 × BitVec 32) : Reaction :=
  if v.markAt e 0 then v.emitMark (e.endVec.take 0) (v.levelAt e 0)
  else match v.mapWords e sees f with | some (e', x) => v.emitAll e' x | none => e.waits

/-- EXP2 and LOG2. -/
def Env.reactTrans (v : Env) (e : ElemState) (sees : Sees) : Reaction :=
  v.wordMode e sees fun w => let (r, fl) := transcend (e.desc.mode == .log2) (e.p 0) w; (r, p7Flags fl)

/-- CTLM on a W channel: a copy, a strobe where a vector starts, and the marker of a timeout with its done (16 R360). -/
def Env.ctlmW (v : Env) (e : ElemState) (sees : Sees) : Reaction :=
  match e.groups with
  | g :: rest => (v.emitMark { e with groups := rest } (g.marker.getD 0)).withDone
  | [] =>
    let r := v.wordMode e sees fun w => (w, 0)
    if e.vec % 16 = 0 && r.how != .noopnd && !v.markAt e 0 then { r with pred := some allLanes, how := .fired } else r

/-- STEER on a W channel (16 R354): the vector goes where bit L of its predicate sends it, its index with its first
instant. -/
def Env.steerW (v : Env) (e : ElemState) (sees : Sees) : Reaction :=
  if v.markAt e 0 then v.emitMark (e.endVec.take 0) (v.levelAt e 0)
  else
    let first := e.vec % 16 == 0
    match v.head e 0, (if first then sees.pred else some e.predLive) with
    | some x, some m =>
      let o := if m.getLsbD (field (e.p 0) 0 9).toNat then 0 else 1
      let e' := (e.take 0).nextVec m
      let e' := if first then e'.setNum 0 ((e.num 0 + 1) % 2 ^ 32) else e'
      v.sends e' ((o, x) :: if first then [(o + 2, Item.ofData (ofWords [BitVec.ofNat 32 (e.num 0)]))] else [])
    | _, _ => e.waits

/-- MRGP on W channels (16 R356). -/
def Env.mrgpW (v : Env) (e : ElemState) (sees : Sees) : Reaction :=
  if v.markAt e 0 && v.markAt e 1 then v.emitMark (e.endVec.takes [0, 1]) (v.markLevel e [0, 1])
  else
    match v.head e 0, v.head e 1, (if e.vec % 16 = 0 then sees.pred else some e.predLive) with
    | some x, some y, some m =>
      if x.valid && y.valid then
        let ws := (upTo 32).map fun j =>
          if e.laneOn m j then getAt (wordsOf x.data) j 0 else getAt (wordsOf y.data) j 0
        v.emitAll ((e.takes [0, 1]).nextVec m) (Item.ofData (ofWords ws))
      else e.waits
    | _, _, _ => e.waits

/-! ## Compaction (16 R357, R358) -/

/-- The tuple instant of at most 16 staged tuples, padded with holes. -/
def tupleInstant (ws : List (BitVec 32)) : BitVec 1024 :=
  ofWords (ws ++ (List.replicate (16 - ws.length / 2) [hole, 0]).flatten)

/-- Whether NZS keeps a value: it is not zero in its format. -/
def isNonzero (d w : BitVec 32) : Bool :=
  let f := fmtOfWord d
  !(f.decode (w.toNat % 2 ^ (8 * f.bytes))).isZero

/-- The tuples of an instant: position and value of those lanes that are kept. -/
def ElemState.kept (e : ElemState) (m : BitVec 512) (ws : List (BitVec 32)) : List (BitVec 32) :=
  ((upTo ws.length).zip ws).flatMap fun x =>
    let keep := if e.desc.mode = .filt then e.laneOn m x.1 else e.laneOn m x.1 && isNonzero (e.p 0) x.2
    if keep then [e.p 1 + BitVec.ofNat 32 (e.num 0 + x.1), BitVec.ofNat 32 (x.2.toNat % 2 ^ (8 * (fmtOfWord (e.p 0)).bytes))]
    else []

/-- NZS and FILT: at most 48 tuples are staged; register 0 counts the positions of the fibre. -/
def Env.reactTuples (v : Env) (e : ElemState) (sees : Sees) : Reaction :=
  let staged := e.buf.length / 2
  if v.markAt e 0 then
    if e.buf.isEmpty then v.emitMark ((e.endVec.setNum 0 0).take 0) (v.levelAt e 0)
    else v.emitAll { e with buf := e.buf.drop 32 } (Item.ofData (tupleInstant (e.buf.take 32)))
  else
    let e' : Option ElemState := match v.head e 0, e.maskNow sees with
      | some x, some m =>
        if staged ≤ 16 then
          some ((({ e with buf := e.buf ++ e.kept m (wordsOf x.data) } : ElemState).nextVec m).take 0
            |>.setNum 0 ((e.num 0 + 32) % 2 ^ 32))
        else none
      | _, _ => none
    let e1 := e'.getD e
    if 32 ≤ e1.buf.length then v.emitAll { e1 with buf := e1.buf.drop 32 } (Item.ofData (tupleInstant (e1.buf.take 32)))
    else if e'.isSome then e1.took else e.waits

/-- Bytes of words. -/
def wordBytes (ws : List (BitVec 32)) : List Byte := ws.flatMap fun w => bytesOf w.toNat 4

/-- Words of bytes, the last padded with zeros. -/
def byteWords (bs : List Byte) : List (BitVec 32) :=
  (partsOf 4 ((bs.length + 3) / 4) bs).map fun b => BitVec.ofNat 32 (natOf b)

/-- Bytes of a bitmap fibre before its values (07 R135), for an extent and a value size. -/
def bitmapHead (n z : Nat) : Nat := (2 + (n + 7) / 8 + z - 1) / z * z

/-- Positions at which a bitmap has its bit set (07 R135). -/
def bitmapBits (n : Nat) (bs : List Byte) : List Bool := (upTo n).map fun j => bit (getAt bs (2 + j / 8) 0) (j % 8)

/-- BMX: register 0 counts the instants emitted of the fibre, `buf` holds the words taken of it. The positions of each
instant, with the values that are present. -/
def Env.reactBmx (v : Env) (e : ElemState) (sees : Sees) : Reaction :=
  let n := (e.p 1).toNat
  let z := (fmtOfWord (e.p 0)).bytes
  let known := 2 + (n + 7) / 8
  let total (bs : List Byte) : Nat := bitmapHead n z + z * natAt bs 0 2
  let full (bs : List Byte) : Bool := decide (known ≤ bs.length) && decide (total bs ≤ bs.length)
  let bs0 := wordBytes e.buf
  let e1 : Option ElemState :=
    if full bs0 then none
    else
      match v.head e 0, e.maskNow sees with
      | some x, some m =>
        if x.marker.isSome then some (e.take 0)
        else some ((({ e with buf := e.buf ++ e.masked m (wordsOf x.data) } : ElemState).nextVec m).take 0)
      | _, _ => none
  let e' := e1.getD e
  let bs := wordBytes e'.buf
  let idle := if e1.isSome then e'.took else e.waits
  if bs.length < known then idle
  else
    let bits := bitmapBits n bs
    let count := (bits.filter id).length
    if count ≠ natAt bs 0 2 then
      e'.faults [e'.fault .bitmapMismatch 0 0 (some (BitVec.ofNat 64 count)) (some (BitVec.ofNat 64 (natAt bs 0 2)))]
    else
      let k := e.num 0
      if k = (n + 511) / 512 * 16 then v.emitMark { e'.setNum 0 0 with buf := [], vec := 0 } (field (e.p 2) 0 3)
      else
        let before := ((bits.take (32 * k)).filter id).length
        let here := (bits.drop (32 * k)).take 32
        let need := bitmapHead n z + z * (before + (here.filter id).length)
        if bs.length < need then idle
        else
          let vals := (upTo here.length).map fun j =>
            if getAt here j false then
              let r := before + ((here.take j).filter id).length
              BitVec.ofNat 32 (natAt bs (bitmapHead n z + z * r) z)
            else 0
          v.emitAll (e'.setNum 0 (k + 1)) (Item.ofData (ofWords vals))

/-- The instants of a fibre that BMC has compressed. -/
def ElemState.compressed (e : ElemState) : List (BitVec 1024) :=
  let n := (e.p 1).toNat
  let z := (fmtOfWord (e.p 0)).bytes
  let ws := e.buf.take n
  let here := ws.map (isNonzero (e.p 0))
  let bm := (partsOf 8 ((n + 7) / 8) here).map fun bs => BitVec.ofNat 8 (packParts 1 (bs.map (·.toNat)))
  let head := bytesOf (here.filter id).length 2 ++ bm
  let head := head ++ List.replicate (bitmapHead n z - head.length) 0
  let bytes := head ++ (ws.zip here).flatMap fun x => if x.2 then bytesOf (x.1.toNat % 2 ^ (8 * z)) z else []
  (partsOf 128 ((bytes.length + 127) / 128) bytes).map fun b => ofWords (byteWords b)

/-- BMC: takes the instants of a fibre, then emits it, then the marker. -/
def Env.reactBmc (v : Env) (e : ElemState) (sees : Sees) : Reaction :=
  match e.outq with
  | [(_, x)] :: rest =>
    if x.marker.isSome then v.emitMark { e with outq := rest } x.level else v.emitAll { e with outq := rest } x
  | _ =>
    if v.markAt e 0 then v.emitMark (e.endVec.take 0) (v.levelAt e 0)
    else
      match v.head e 0, e.maskNow sees with
      | some x, some m =>
        let e' := (({ e with buf := e.buf ++ e.masked m (wordsOf x.data) } : ElemState).nextVec m).take 0
        if e'.buf.length < (e.p 1).toNat then e'.took
        else
          let out := e'.compressed.map Item.ofData ++ [Item.mark (field (e.p 2) 0 3)]
          match out with
          | y :: ys => v.emitAll { e' with buf := [], vec := 0, outq := ys.map fun y => [(0, y)] } y
          | [] => e'.took
      | _, _ => e.waits

/-! ## Counters and controllers (16 R359, R360) -/

/-- The marker and done with which a run ends; the next run starts afresh. -/
def Env.endRun (v : Env) (e : ElemState) (l : BitVec 3) : Reaction :=
  (v.emitAll (((e.setNum 0 0).setNum 1 0).setNum 2 0) (Item.mark l)).withDone

/-- The coordinate of an iteration. -/
def ElemState.coord (e : ElemState) (i : Nat) : BitVec 32 := e.p 1 + e.p 2 * BitVec.ofNat 32 i

/-- CNT: register 0 counts the instants emitted. -/
def Env.reactCnt (v : Env) (e : ElemState) : Reaction :=
  let n := (e.p 0).toNat
  let k := e.num 0
  if n ≤ 32 * k then v.endRun e (field (e.p 3) 0 3)
  else
    v.emitAll (e.setNum 0 (k + 1))
      (Item.ofData (ofWords ((upTo 32).map fun j => if 32 * k + j < n then e.coord (32 * k + j) else hole)))

/-- An iteration started: its coordinate in every lane, and the strobe. -/
def Env.startIter (v : Env) (e : ElemState) (i : Nat) : Reaction :=
  { v.emitAll e (Item.ofData (ofWords (List.replicate 32 (e.coord i)))) with pred := some allLanes, how := .fired }

/-- Whether a body-done source is named. -/
def ElemState.hasBody (e : ElemState) : Bool := e.p 3 != 0xFF

/-- Whether every consumer of out0 has taken what was emitted. -/
def Env.drainedOut (v : Env) (e : ElemState) : Bool :=
  let g := v.cfg.image
  (g.consumers (e.src 0)).all (fun c =>
      match v.cfg.elem? c.1 with | some x => (getAt x.fifos c.2.1 []).isEmpty | none => true)
    && (g.egressOf (e.src 0)).all fun p => (getAt v.egress p Port.reset).slots.isEmpty

/-- CTLS: register 0 counts the iterations started, register 1 is 1 while one is outstanding, and register 2 keeps a body's
done that found no room for the next start. -/
def Env.reactCtls (v : Env) (e : ElemState) (sees : Sees) : Reaction :=
  let n := (e.p 0).toNat
  let i := e.num 0
  let l := field (e.p 4) 0 3
  if e.num 1 = 0 then
    if i = n then v.endRun e l else v.startIter ((e.setNum 0 (i + 1)).setNum 1 1) i
  else
    let ended := if e.hasBody then sees.body || e.num 2 == 1 else v.drainedOut e
    if !ended then e.waits
    else if i < n then v.startIter ((e.setNum 0 (i + 1)).setNum 2 0) i
    else if e.hasBody then ((e.setNum 1 0).setNum 2 0).took
    else v.endRun e l

/-- CTLP: register 0 counts the iterations started, register 1 those outstanding. -/
def Env.reactCtlp (v : Env) (e : ElemState) (sees : Sees) : Reaction :=
  let n := (e.p 0).toNat
  let i := e.num 0
  let out := e.num 1
  let after := if e.hasBody && sees.body then out - 1 else out
  if i = n && out = 0 then v.endRun e (field (e.p 4) 0 3)
  else if i < n && (!e.hasBody || decide (out < (e.p 5).toNat)) then
    v.startIter ((e.setNum 0 (i + 1)).setNum 1 (if e.hasBody then after + 1 else 0)) i
  else if after ≠ out then (e.setNum 1 after).took
  else e.waits

/-- A controller that could not start for want of room keeps the body's done that it saw. -/
def ElemState.latchBody (e : ElemState) (sees : Sees) : ElemState :=
  match e.desc.mode with
  | .ctls => if e.hasBody && sees.body && e.num 1 == 1 then e.setNum 2 1 else e
  | .ctlp => if e.hasBody && sees.body then e.setNum 1 (e.num 1 - 1) else e
  | _ => e

/-! ## Windows (16 R361) -/

/-- Positions that a fibre of `n` words gives. -/
def winCount (k stride dil n : Nat) : Nat := if n ≤ (k - 1) * dil then 0 else (n - 1 - (k - 1) * dil) / stride + 1

/-- WIN: `buf` holds the words from number register 0 on, register 1 counts the positions emitted. -/
def Env.reactWin (v : Env) (e : ElemState) (sees : Sees) : Reaction :=
  let k := (e.p 0).toNat + 1
  let stride := (e.p 1).toNat
  let dil := (e.p 2).toNat
  let base := e.num 0
  let pos := e.num 1
  let marked := v.markAt e 0
  let e1 : Option ElemState :=
    if marked then none
    else match v.head e 0, e.maskNow sees with
      | some x, some m => some ((({ e with buf := e.buf ++ e.masked m (wordsOf x.data) } : ElemState).nextVec m).take 0)
      | _, _ => none
  let e' := e1.getD e
  let have_ := base + e'.buf.length
  let limit := if marked then winCount k stride dil have_ else pos + 32
  let needed := (pos + 31) * stride + (k - 1) * dil + 1
  if marked && limit ≤ pos then
    v.emitMark { ((e.endVec.setNum 0 0).setNum 1 0).take 0 with buf := [] } (v.levelAt e 0)
  else if marked || needed ≤ have_ then
    let tap (t : Nat) : BitVec 1024 := ofWords ((upTo 32).map fun j =>
      if pos + j < limit then getAt e'.buf ((pos + j) * stride + t * dil - base) 0 else 0)
    let next := (pos + 32) * stride
    let e2 : ElemState := { (e'.setNum 1 (pos + 32)) with buf := e'.buf.drop (next - base) }
    let e2 := e2.setNum 0 (base + min (next - base) e'.buf.length)
    v.sends e2 ((upTo k).map fun t => (t, Item.ofData (tap t)))
  else if e1.isSome then e'.took
  else e.waits

end Sys2Proof.Machine
end

