-- ==== Sys2Proof/Machine/MemElems.lean ====
section
/-!
DEFINITION. The memory elements (16 R362 to R367): AGEN, and those that read and write memory and tiles, which act on the
device when their reactions are applied.
-/
namespace Sys2Proof.Machine

/-! ## AGEN (16 Table ELM-6) -/

/-- An INDEX_RANGE fault of an index at a lane (16 R363). -/
def ElemState.rangeFault (e : ElemState) (j : Nat) (i : BitVec 32) : ElemFault :=
  e.fault .indexRange 0 (32 * (e.vec % 16) + j) (some (i.setWidth 64)) (some 0)

/-- Whether an index is at or above a nonzero bound; a hole is never checked. -/
def ElemState.outOfRange (e : ElemState) (i : BitVec 32) : Bool := i != hole && e.p 3 != 0 && decide ((e.p 3).toNat ≤ i.toNat)

/-- AGEN. -/
def Env.reactAgen (v : Env) (e : ElemState) (sees : Sees) : Reaction :=
  let is := e.desc.uses
  if is.all (v.markAt e) then v.emitMark (e.endVec.takes is) (v.markLevel e is)
  else
    let hs := is.filterMap fun i => (v.head e i).bind fun x => if x.valid then some x else none
    match e.maskNow sees with
    | none => e.waits
    | some m =>
      if hs.length < is.length then e.waits
      else
        let word (k j : Nat) : BitVec 32 := match hs[k]? with | some x => field x.data (32 * j) 32 | none => 0
        let ix (j : Nat) : BitVec 32 := word 0 j * e.p 0 + word 1 j * e.p 1 + e.p 2
        match (upTo 32).filter fun j => e.laneOn m j && e.outOfRange (ix j) with
        | [] => v.emitAll ((e.takes is).nextVec m) (Item.ofData (ofWords (e.masked m ((upTo 32).map ix))))
        | js => e.faults (js.map fun j => e.rangeFault j (ix j))

/-! ## Accesses (16 R362 to R365) -/

/-- Why a lane stops: a fault, or a page of the tier that is not resident. -/
inductive LaneStop where
  | fault (f : ElemFault)
  | tier (f : FaultInfo)

/-- Where `n` bytes at a virtual address lie, piece by piece. -/
def State.spans (s : State) (a : Agent) (wr : Bool) (va n : Nat) : Nat → State × Except FaultInfo (List (Target × Nat))
  | 0 => (s, .ok [])
  | c + 1 =>
    if n = 0 then (s, .ok [])
    else
      let m := min n (4096 - va % 4096)
      match s.engTarget a va m wr with
      | (s, .error f) => (s, .error f)
      | (s, .ok t) =>
        match s.spans a wr (va + m) (n - m) c with
        | (s, .error f) => (s, .error f)
        | (s, .ok ts) => (s, .ok ((t, m) :: ts))

/-- The latest held write of a byte among those that satisfy a test; the list is in the order of R364. -/
def heldByte (held : List HeldWrite) (p : HeldWrite → Bool) (t : Target) : Option Byte :=
  held.foldl (fun (b : Option Byte) h =>
    match (if p h then t.within 1 h.run.tgt h.run.bytes.length else none) with
    | some k => some (getAt h.run.bytes k 0)
    | none => b) none

/-- Bytes of a stretch with the held writes that satisfy a test laid over them. -/
def overlay (held : List HeldWrite) (p : HeldWrite → Bool) (t : Target) (bs : List Byte) : List Byte :=
  ((upTo bs.length).zip bs).map fun x => (heldByte held p (t.plus x.1)).getD x.2

/-- Bytes where they lie; each read of another device is counted. -/
def State.readSpans (s : State) (held : List HeldWrite) (p : HeldWrite → Bool) : List (Target × Nat) → State × List Byte
  | [] => (s, [])
  | (t, n) :: rest =>
    let bs := overlay held p t (s.readTarget t n)
    let (s', more) := (s.afterRead t).readSpans held p rest
    (s', bs ++ more)

/-- The agent of a configuration's elements (16 R362). -/
def RunConfig.agent (g : RunConfig) (core : CoreNum) : Agent := { core := some core, pdk := g.owner.pdk, priv := g.priv }

/-- The running configuration of the focused core changed. -/
def State.modCfg (s : State) (f : RunConfig → RunConfig) : State :=
  s.mapMe fun c => { c with fabric := { c.fabric with config := c.fabric.config.map f } }

/-- Held writes of the running configuration. -/
def State.heldNow (s : State) : List HeldWrite := (s.me.fabric.config.map (·.held)).getD []

/-- A fault of a lane's translation. -/
def ElemState.laneFault (e : ElemState) (j : Nat) (f : FaultInfo) : LaneStop :=
  if f.code = .tierMiss then .tier f
  else .fault (e.fault f.code 0 (32 * (e.vec % 16) + j) (some f.val0) (some f.val1))

/-- The address of element `i` behind a base in P0 and P1. -/
def ElemState.addr (e : ElemState) (i size : Nat) : Nat :=
  ((e.p 0).toNat + (e.p 1).toNat * 2 ^ 32 + i * size) % 2 ^ 48

/-- The element size z of P2's format. -/
def ElemState.size (e : ElemState) : Nat := (fmtOfWord (e.p 2)).bytes

/-- A load of `n` bytes by an element in a lane: held writes of earlier instants are seen (16 R364). -/
def State.elemLoad (s : State) (v : Env) (e : ElemState) (j va n : Nat) : State × Except LaneStop (List Byte) :=
  match s.spans (v.cfg.agent v.core) false va n (pieces va n) with
  | (s, .error f) => (s, .error (e.laneFault j f))
  | (s, .ok ts) =>
    let (s, bs) := s.readSpans s.heldNow (fun h => decide (h.instant < v.cfg.instant) && decide (h.elem < 120)) ts
    (s, .ok bs)

/-- Bytes at their places as held writes of an element's lane. -/
def heldRuns (t elem lane : Nat) : List (Target × Nat) → List Byte → List HeldWrite
  | [], _ => []
  | (x, n) :: rest, bs =>
    { instant := t, elem := elem, lane := lane, run := { tgt := x, bytes := bs.take n } }
      :: heldRuns t elem lane rest (bs.drop n)

/-- A held store by an element in a lane. -/
def State.elemStore (s : State) (v : Env) (e : ElemState) (j va : Nat) (bs : List Byte) : State × Except LaneStop Unit :=
  match s.spans (v.cfg.agent v.core) true va bs.length (pieces va bs.length) with
  | (s, .error f) => (s, .error (e.laneFault j f))
  | (s, .ok ts) =>
    (s.modCfg fun g => { g with held := g.held ++ heldRuns v.cfg.instant e.desc.index j ts bs }, .ok ())

/-- A sum in a format under its descriptor (16 R365). -/
def addCodes (d : BitVec 32) (a b : Nat) : Nat :=
  match fmtOfWord d with
  | .int t => lowBits (t.ofInt (t.decode a + t.decode b) (satOfWord d)) t.width
  | .fp f => (f.round ((f.decode a).add (f.decode b) (rmOfWord d)) (rmOfWord d) (satOfWord d)).1

/-- The instant from which the read of a word that is first touched now has returned: its clk from the instant's start. -/
def Env.returns (v : Env) (n : Nat) : Nat :=
  v.cfg.instant + (Config.readClk v.clk n + v.cfg.image.period - 1) / v.cfg.image.period

/-- The bytes of a word that MSCAT adds to before its first touch: kept from the first read, or read now and kept. -/
def State.firstTouch (s : State) (v : Env) (e : ElemState) (ts : List (Target × Nat)) : State × List Byte :=
  match ts with
  | [] => (s, [])
  | (t, _) :: _ =>
    let n := (ts.map (·.2)).sum
    match (s.me.fabric.config.map (·.touches)).getD [] |>.find? fun x => x.tgt == t with
    | some x => (s, bytesOf x.value.toNat n)
    | none =>
      let (s, bs) := s.readSpans [] (fun _ => false) ts
      let new (g : RunConfig) : FirstTouch :=
        { elem := e.desc.index, tgt := t, value := BitVec.ofNat 64 (natOf bs), till := v.returns g.touches.length }
      (s.modCfg fun g => { g with touches := g.touches ++ [new g] }, bs)

/-- Whether held writes cover every byte of a word. -/
def heldWord (held : List HeldWrite) (ts : List (Target × Nat)) : Option (List Byte) :=
  (ts.flatMap fun x => (upTo x.2).map fun k => heldByte held (fun h => decide (h.elem < 120)) (x.1.plus k)).mapM id

/-- MSCAT add in a lane. -/
def State.elemAdd (s : State) (v : Env) (e : ElemState) (j va : Nat) (w : BitVec 32) : State × Except LaneStop Unit :=
  let z := e.size
  match s.spans (v.cfg.agent v.core) true va z (pieces va z) with
  | (s, .error f) => (s, .error (e.laneFault j f))
  | (s, .ok ts) =>
    let (s, old) := match heldWord s.heldNow ts with
      | some bs => (s, bs)
      | none =>
        let (s, bs) := s.firstTouch v e ts
        (s, (ts.foldl (fun (x : List Byte × List Byte) (t : Target × Nat) =>
          (x.1 ++ overlay s.heldNow (fun h => decide (h.elem < 120)) t.1 (x.2.take t.2), x.2.drop t.2)) ([], bs)).1)
    let sum := addCodes (e.p 2) (natOf old) (w.toNat % 2 ^ (8 * z))
    (s.modCfg fun g => { g with held := g.held ++ heldRuns v.cfg.instant e.desc.index j ts (bytesOf sum z) }, .ok ())

/-! ## Lanes of an instant -/

/-- What a lane does: the element after it, and the word for the lane. -/
abbrev LaneOp := State → ElemState → Nat → State × Except LaneStop (ElemState × BitVec 32)

/-- Lanes from one on in ascending order, up to one that stops. `buf` keeps the words of the lanes done. -/
def runLanes (op : LaneOp) : List Nat → State → ElemState → State × ElemState × Option LaneStop
  | [], s, e => (s, e, none)
  | j :: rest, s, e =>
    match op s e j with
    | (s, .error x) => (s, e, some x)
    | (s, .ok (e, w)) => runLanes op rest s { e with buf := e.buf ++ [w] }

/-- Whether an instant takes tuples. -/
def ElemState.tuple (e : ElemState) : Bool := e.desc.tuple

/-- The index at a lane's place, or none when the lane is off or holds a hole. -/
def ElemState.index? (e : ElemState) (m : BitVec 512) (ws : List (BitVec 32)) (j : Nat) : Option (BitVec 32) :=
  let on := e.laneOn m j && (!e.tuple || e.laneOn m (j + 1))
  let i := getAt ws j 0
  if on && i != hole then some i else none

/-- MLOAD in a lane. -/
def Env.loadLane (v : Env) (m : BitVec 512) (ws : List (BitVec 32)) : LaneOp := fun s e j =>
  match e.index? m ws j with
  | none => (s, .ok (e, 0))
  | some i =>
    if e.outOfRange i then (s, .error (.fault (e.rangeFault j i)))
    else
      match s.elemLoad v e j (e.addr i.toNat e.size) e.size with
      | (s, .error x) => (s, .error x)
      | (s, .ok bs) => (s, .ok (e, BitVec.ofNat 32 (natOf bs)))

/-- MSTORE and MSCAT in a lane; register 1 is 1 once a write has entered in the instant. -/
def Env.storeLane (v : Env) (m : BitVec 512) (ws vs : List (BitVec 32)) : LaneOp := fun s e j =>
  match e.index? m ws j with
  | none => (s, .ok (e, 0))
  | some i =>
    if e.outOfRange i then (s, .error (.fault (e.rangeFault j i)))
    else
      let w := if e.tuple then getAt ws (j + 1) 0 else getAt vs j 0
      let va := e.addr i.toNat e.size
      let (s, r) := if e.desc.mode = .mscat && e.p 4 == 1 then s.elemAdd v e j va w
        else s.elemStore v e j va (bytesOf (w.toNat % 2 ^ (8 * e.size)) e.size)
      match r with
      | .error x => (s, .error x)
      | .ok () => (s, .ok (e.setNum 1 1, 0))

/-- MGATH in a lane: the instants of the row that the index names (16 R362). -/
def Env.gatherLane (v : Env) (m : BitVec 512) (ws : List (BitVec 32)) : LaneOp := fun s e j =>
  match e.index? m ws j with
  | none => (s, .ok (e, 0))
  | some i =>
    if e.outOfRange i then (s, .error (.fault (e.rangeFault j i)))
    else
      let n := (e.p 4).toNat
      match s.elemLoad v e j (e.addr i.toNat (e.p 5).toNat) (n * e.size) with
      | (s, .error x) => (s, .error x)
      | (s, .ok bs) =>
        let vals := (partsOf e.size n bs).map fun b => BitVec.ofNat 32 (natOf b)
        let rows := (partsOf 32 ((n + 31) / 32) vals).map fun r => [(0, Item.ofData (ofWords r))]
        (s, .ok ({ e with outq := e.outq ++ rows }, 0))

/-- The lanes of an instant that hold indices. -/
def ElemState.indexLanes (e : ElemState) : List Nat := if e.tuple then (upTo 16).map (2 * ·) else upTo 32

/-- An element whose lane met a non-resident tier page (16 R367): it keeps the lanes done and the mask, and waits; a TIER
event is posted and the task takes TIER_MISS. Register 15 is 1 while an instant's mask is kept. -/
def State.waitTier (s : State) (v : Env) (e : ElemState) (m : BitVec 512) (f : FaultInfo) : State × Reaction :=
  let e' : ElemState := { e with waitTier := some (f.val0.setWidth 48), predLive := m }
  let s := (s.tierEvent v.cfg.owner.pdk f.val0 v.cfg.addr).raiseFor v.core v.cfg.owner f none
  (s, (e'.setNum 15 1).waits)

/-- An instant's lanes run, from the first that is not done; then what the whole instant does. -/
def State.memLanes (s : State) (v : Env) (e : ElemState) (m : BitVec 512) (op : LaneOp) (done : ElemState → Reaction) :
    State × Reaction :=
  match runLanes op (e.indexLanes.drop e.buf.length) s e with
  | (s, e, some (.fault f)) => (s, e.faults [f])
  | (s, e, some (.tier f)) => s.waitTier v e m f
  | (s, e, none) => (s, done e)

/-- The mask of an instant, kept while the element waits for a page. -/
def ElemState.memMask (e : ElemState) (sees : Sees) : Option (BitVec 512) :=
  if e.num 15 = 1 then some e.predLive else e.maskNow sees

/-- An element after an instant whose lanes are done: the inputs taken, the lanes' words gone. -/
def ElemState.doneInstant (e : ElemState) (m : BitVec 512) (is : List Nat) : ElemState :=
  ({ (((e.takes is).nextVec m).setNum 15 0).setNum 1 0 with buf := [] } : ElemState)

/-! ## What the memory modes need and how they end (16 R345) -/

/-- Whether a memory element still has words to emit before it can pass a marker. -/
def ElemState.memBusy (e : ElemState) : Bool :=
  !e.outq.isEmpty || (match e.desc.mode with | .mtalloc | .mtread => e.num 1 != 0 | _ => false)

/-- Whether a memory element passes a marker in this instant. -/
def Env.memMarks (v : Env) (e : ElemState) : Bool := !e.memBusy && e.desc.uses.all (v.markAt e)

/-- The marker passed. -/
def Env.passMark (v : Env) (e : ElemState) : Reaction :=
  let is := e.desc.uses
  v.emitMark (e.endVec.takes is) (v.markLevel e is)

/-- The data instants at the inputs, when all are there. -/
def Env.memData (v : Env) (e : ElemState) : Option (List (List (BitVec 32))) :=
  e.desc.uses.mapM fun i => (v.head e i).bind fun x => if x.valid then some (wordsOf x.data) else none

/-- Granules' worth of instants that MTREAD streams (16 R366). -/
def State.readInstants (s : State) (e : ElemState) : Nat :=
  if e.p 0 = 0 then s.tileGranules (getAt e.buf 0 0) * 32 else (e.p 0).toNat

/-- Whether MTREAD has streamed a tile and emits its marker now; register 1 is 3 then. -/
def ElemState.tileEnd (e : ElemState) : Bool := e.desc.mode == .mtread && e.num 1 == 3

/-- The done that a memory element emits in this instant, as its registered state and its inputs decide it. -/
def Env.memDone (v : Env) (e : ElemState) : Bool :=
  v.room e && e.waitTier.isNone
    && (if e.tileEnd then decide (e.doneLevel.toNat ≤ (field (e.p 1) 0 3).toNat)
        else v.memMarks e && decide (e.doneLevel.toNat ≤ (v.markLevel e e.desc.uses).toNat))

/-! ## MLOAD, MSTORE, MGATH, MSCAT -/

/-- MLOAD. -/
def State.reactMload (s : State) (v : Env) (e : ElemState) (m : BitVec 512) (ws : List (BitVec 32)) : State × Reaction :=
  s.memLanes v e m (v.loadLane m ws) fun e => v.emitAll (e.doneInstant m [0]) (Item.ofData (ofWords e.buf))

/-- MSTORE. -/
def State.reactMstore (s : State) (v : Env) (e : ElemState) (m : BitVec 512) (ws vs : List (BitVec 32)) : State × Reaction :=
  s.memLanes v e m (v.storeLane m ws vs) fun e =>
    Reaction.plain (e.doneInstant m e.desc.uses) (if e.num 1 = 1 then .fired else .took)

/-- The oldest waiting output instant emitted. -/
def Env.emitWaiting (v : Env) (e0 : ElemState) (r : Reaction) : Reaction :=
  match e0.outq with
  | [] => r
  | w :: _ => { v.sends { r.e with outq := r.e.outq.tail } w with done := r.done, pred := r.pred, faults := r.faults }

/-- Whether the first touches of an element whose reads are outstanding are more than its address-compare queue holds (16
R365). -/
def State.queueOver (s : State) (v : Env) (e : ElemState) : Bool :=
  let open_ := ((s.me.fabric.config.map (·.touches)).getD []).filter fun x =>
    x.elem == e.desc.index && decide (v.cfg.instant < x.till)
  decide (Config.maxTouches < open_.length)

/-- MSCAT: in the instant after its writes have entered it emits an ordering token (16 R365); register 0 counts them.
An instant whose adds find no entry free in the queue stalls as it would for an input without room
(notes/assumptions/99.md). -/
def State.reactMscat (s0 : State) (v : Env) (e : ElemState) (m : BitVec 512) (ws vs : List (BitVec 32)) : State × Reaction :=
  let s := s0
  let (s, r) := s.memLanes v e m (v.storeLane m ws vs) fun e =>
    let n := (e.num 0 + 1) % 2 ^ 32
    let e' := (e.doneInstant m e.desc.uses).setNum 0 n
    let e' : ElemState :=
      if v.driven e 0 then { e' with outq := e'.outq ++ [[(0, Item.ofData (ofWords [BitVec.ofNat 32 n]))]] } else e'
    Reaction.plain e' (if e.num 1 = 1 then .fired else .took)
  if r.faults.isEmpty && s.queueOver v e then (s0, Reaction.plain e .nospace)
  else
    let wrote := r.how == .fired
    let r := v.emitWaiting e r
    (s, if wrote then { r with how := .fired } else r)

/-- MGATH: rows leave one instant at a time; another instant of indices is taken while at most 32 rows wait. -/
def State.reactMgath (s : State) (v : Env) (e : ElemState) (data : Option (BitVec 512 × List (BitVec 32))) : State × Reaction :=
  let per := ((e.p 4).toNat + 31) / 32
  match data with
  | some (m, ws) =>
    if 32 * per < e.outq.length then (s, v.emitWaiting e e.waits)
    else
      let (s, r) := s.memLanes v e m (v.gatherLane m ws) fun e => (e.doneInstant m [0]).took
      let out := r.e.outq
      (s, match out with | [] => r | _ => v.emitWaiting r.e r)
  | none => (s, v.emitWaiting e e.waits)

/-! ## MTALLOC and MTREAD (16 R366) -/

/-- A fault of MTALLOC or MTREAD. -/
def ElemState.tileFault (e : ElemState) (code : Code) (v0 v1 : Word) : Reaction :=
  e.faults [e.fault code 0 0 (some v0) (some v1)]

/-- The request of MTALLOC, checked as TALLOC's (06 R103). -/
def State.elemRequest (s : State) (v : Env) (e : ElemState) (size : Word) : Except FaultInfo LoftReq :=
  let part := (e.p 2).toNat
  let m := ((s.paddock? v.cfg.owner.pdk).map fun p => (getAt p.desc.parts part (0, 0)).2).getD 0
  let n := granulesFor size.toNat
  if 2 ^ 16 ≤ (e.p 1).toNat then .error { code := .illegal, val0 := (e.p 1).setWidth 64, val1 := 0 }
  else if size = 0 ∨ 2 ^ 21 < size.toNat then .error { code := .tileSize, val0 := size, val1 := 0 }
  else if m < n then .error { code := .poolQuota, val0 := BitVec.ofNat 64 n, val1 := BitVec.ofNat 64 m }
  else
    .ok { who := .element e.desc.index, granules := n, count := (e.p 1).toNat, part := part, pdk := v.cfg.owner.pdk,
          group := ((s.record? v.cfg.owner).map (·.group)).getD 0xFFFF, task := v.cfg.owner }

/-- MTALLOC: a request enters the Loft and its input is taken; register 1 is 1 until the grant, whose handle is emitted. -/
def State.reactMtalloc (s : State) (v : Env) (e : ElemState) (m : Option (BitVec 512)) : State × Reaction :=
  if e.num 1 = 1 then
    match s.me.loft.takeGrant (.element e.desc.index) with
    | some (h, l) =>
      (s.mapMe fun c => { c with loft := l }, v.emitAll (e.setNum 1 0) (Item.ofData (ofWords [h])))
    | none => (s, Reaction.plain e .allocw)
  else
    match m, v.memData e with
    | some m, some [ws] =>
      let e' := (e.take 0).nextVec m
      let lane0 := getAt ws 0 0
      if !e.laneOn m 0 then (s, v.emitAll e' (Item.ofData 0))
      else if e.p 0 ≠ 0 ∧ lane0 ≠ 0 then (s, e.tileFault .tileSize (lane0.setWidth 64) ((e.p 0).setWidth 64))
      else
        match s.elemRequest v e ((if e.p 0 = 0 then lane0 else e.p 0).setWidth 64) with
        | .error f => (s, e.tileFault f.code f.val0 f.val1)
        | .ok r =>
          (s.mapMe fun c => { c with loft := { c.loft with incoming := c.loft.incoming ++ [r] } }, (e'.setNum 1 1).took)
    | _, _ => (s, e.waits)

/-- The number under which MTREAD's consumes stand. -/
def ElemState.readerNum (e : ElemState) : Nat := 2 ^ 32 + e.desc.index

/-- MTREAD streams: one instant of the tile; register 0 counts them. After the last the pass is complete. -/
def State.streamTile (s : State) (v : Env) (e : ElemState) : State × Reaction :=
  let h := getAt e.buf 0 0
  let k := e.num 0
  let n := s.readInstants e
  if n = 0 then (s, (e.setNum 1 3).took)
  else
    match s.readTile h (128 * k) 128 with
    | .error _ => (s, e.tileFault .tileSize (h.setWidth 64) 0)
    | .ok bs =>
      let last := k + 1 = n
      let pass (x : Consume) : Consume :=
        if x.cmd = e.readerNum ∧ x.operand = e.num 2 then { x with passed := true } else x
      let s := if last then s.mapMe fun c => { c with consumes := c.consumes.map pass } else s
      (s, v.emitAll ((e.setNum 0 (k + 1)).setNum 1 (if last then 3 else 2)) (Item.ofData (BitVec.ofNat 1024 (natOf bs))))

/-- MTREAD asks for the admission of the handle in `buf`, and streams once it has it; register 2 numbers its reads. -/
def State.openTile (s : State) (v : Env) (e : ElemState) (took : Bool) : State × Reaction :=
  let h := getAt e.buf 0 0
  match s.admitRead v.cfg.owner.pdk e.readerNum (e.num 2) h true with
  | .ok s => if took then (s, (e.setNum 1 2).took) else s.streamTile v (e.setNum 1 2)
  | .waits s => (s, if took then (e.setNum 1 1).took else e.waits)
  | .fault s code reason => (s, e.tileFault code (h.setWidth 64) (BitVec.ofNat 64 (reason.getD 0)))

/-- MTREAD (16 R366). -/
def State.reactMtread (s : State) (v : Env) (e : ElemState) (m : Option (BitVec 512)) : State × Reaction :=
  match e.num 1 with
  | 1 => s.openTile v e false
  | 2 => s.streamTile v e
  | 3 =>
    let e' : ElemState := { ((e.setNum 0 0).setNum 1 0).setNum 2 (e.num 2 + 1) with buf := [] }
    (s, v.emitMark e' (field (e.p 1) 0 3))
  | _ =>
    match m, v.memData e with
    | some m, some [ws] =>
      let e' := (e.take 0).nextVec m
      if !e.laneOn m 0 then (s, e'.took) else s.openTile v { e' with buf := [getAt ws 0 0] } true
    | _, _ => (s, e.waits)

/-! ## A memory element's instant -/

/-- Whether a mode acts on the device when its reaction is applied. -/
def EMode.onDevice (m : EMode) : Bool :=
  match m with | .mload | .mstore | .mgath | .mscat | .mtalloc | .mtread => true | _ => false

/-- The reaction of a memory element other than AGEN, applied to the device. -/
def State.memReact (s : State) (v : Env) (e : ElemState) (sees : Sees) : State × Reaction :=
  let m := e.memMask sees
  let data := v.memData e
  let ready := m.isSome && data.isSome
  let waitsAlloc := e.desc.mode == .mtalloc && e.num 1 == 1 && (s.me.loft.takeGrant (.element e.desc.index)).isNone
  let acts := ready || v.memMarks e || e.memBusy
  if e.waitTier.isSome then (s, e.waits)
  else if waitsAlloc then (s, Reaction.plain e .allocw)
  else if !acts then (s, e.waits)
  else if !v.room e then (s, Reaction.plain e .nospace)
  else if v.memMarks e then (s, v.passMark e)
  else
    match e.desc.mode, m, data with
    | .mload, some m, some [ws] => s.reactMload v e m ws
    | .mstore, some m, some (ws :: vs :: _) => s.reactMstore v e m ws vs
    | .mscat, some m, some (ws :: rest) => s.reactMscat v e m ws (rest.headD [])
    | .mscat, _, _ => (s, v.emitWaiting e e.waits)
    | .mgath, some m, some (ws :: _) => s.reactMgath v e (some (m, ws))
    | .mgath, _, _ => s.reactMgath v e none
    | .mtalloc, m, _ => s.reactMtalloc v e m
    | .mtread, m, _ => s.reactMtread v e m
    | _, _, _ => (s, e.waits)

end Sys2Proof.Machine
end

