-- ==== Sys2Proof/Machine/Ports.lean ====
section
/-!
DEFINITION. The fabric port commands and the control commands (15 R322 to R327), what a port moves in an instant (R323 to
R325, 05 R97), and the port registers (14 R312).
-/
namespace Sys2Proof.Machine

/-! ## Starting a command -/

/-- A command that acts on the running configuration: it waits while one loads, and is refused when there is none or when
the configuration does not use its port (15 R322). -/
def State.onConfig (s : State) (used : RunConfig → Bool) (go : RunConfig → Except Stop State) : Except Stop State :=
  match s.me.fabric.config with
  | some g => if used g then go g else .error (.fault s .illegalCmd 3 (some 120))
  | none => if s.me.fabric.loading.isSome then .error .wait else .error (.fault s .illegalCmd 3 (some 120))

/-- An ingress port of the focused core changed. -/
def State.modIngress (s : State) (p : Nat) (f : Port → Port) : State :=
  s.mapMe fun c => { c with fabric := { c.fabric with ingress := updAt c.fabric.ingress p f } }

/-- An egress port of the focused core changed. -/
def State.modEgress (s : State) (p : Nat) (f : Port → Port) : State :=
  s.mapMe fun c => { c with fabric := { c.fabric with egress := updAt c.fabric.egress p f } }

/-- A port command from its start. -/
def PortRun.start (k : Cmd) (target : PortEnd) (count : Nat) (eof : Bool) (level : BitVec 3) : PortRun :=
  { cmd := k, target := target, left := count, eof := eof, level := level, moved := 0, count := 0, hdr := 0, ahead := 0,
    pos := 0, ended := false, detail := 0, tier := none }

/-- The descriptor with which the configuration takes what enters at an ingress port. -/
def Image.ingressDesc (g : Image) (p : Nat) : Option InDesc := ((g.consumers (.ingress p)).head?).map (·.2.2)

/-- A command that starts at an ingress port. -/
def State.startIngress (s : State) (port : BitVec 4) (r : PortRun) : State :=
  (s.popBox (.ingress port)).modIngress port.toNat fun x => { x with run := some r }

/-- The bytes that a port command with a count takes from its source: a record of 128 bytes for each vector at a W
port, of 8 header and `digits` digit instants for each group at a D port (15 R323). -/
def InDesc.feedBytes (d : InDesc) (count : Nat) : Nat := count * if d.isD then 1024 + 128 * d.digits else 128

/-- The source extent of a port command (11 R220). -/
def State.feedExtent (s : State) (d : InDesc) (r : PortRun) : List Extent :=
  let n := d.feedBytes r.left
  match r.target with
  | .mem a => [s.sourceExtent (.mem a.toNat) n]
  | .tile h => [s.sourceExtent (.tile h) n]
  | .coords _ _ | .marker | .join => []

/-- The start of a FEED, FEEDT, FEEDC or EOFI, once no pending range overlaps its source (11 R220). -/
def State.feedWith (s : State) (port : BitVec 4) (r : PortRun) (wOnly : Bool)
    (enter : State → Except Stop State) : Except Stop State :=
  s.onConfig (fun g => (g.image.ingressDesc port.toNat).isSome) fun g => do
    require s (!wOnly || !(((g.image.ingressDesc port.toNat).map (·.isD)).getD false)) .illegalCmd 3 (some 0)
    s.notHeld r.cmd (((g.image.ingressDesc port.toNat).toList).flatMap fun d => s.feedExtent d r)
    let s ← enter s
    .ok (s.startIngress port r)

/-- FEED. -/
def execFeed (o : FeedOps) (s : State) : Out :=
  let b : Box := .ingress o.port
  let k := s.headCmd b o.tok
  .next (s.settle b k (do
    require s (o.addr.toNat % 128 == 0) .illegalCmd 3 (some 0)
    s.feedWith o.port (PortRun.start k (.mem o.addr) o.count.toNat o.eof o.level) false .ok))

/-- FEEDT: a consuming read, admitted before its first byte is read (06 R106). -/
def execFeedt (o : FeedTOps) (s : State) : Out :=
  let b : Box := .ingress o.port
  let k := s.headCmd b o.tok
  .next (s.settle b k
    (s.feedWith o.port (PortRun.start k (.tile o.handle) o.count.toNat o.eof o.level) false fun s =>
      s.admitOperand k o.handle 0 true))

/-- FEEDC. -/
def execFeedc (o : FeedCOps) (s : State) : Out :=
  let b : Box := .ingress o.port
  let k := s.headCmd b o.tok
  .next (s.settle b k (s.feedWith o.port (PortRun.start k (.coords o.base o.step) o.count.toNat o.eof o.level) true .ok))

/-- EOFI. -/
def execEofi (tok : Reg) (port : BitVec 4) (level : BitVec 3) (s : State) : Out :=
  let b : Box := .ingress port
  let k := s.headCmd b tok
  .next (s.settle b k (s.feedWith port (PortRun.start k .marker 0 true level) false .ok))

/-- The start of a DRAIN or DRAINT: with count 0 and eof clear it completes at once. -/
def State.drainWith (s : State) (k : Cmd) (port : BitVec 4) (r : PortRun) (enter : State → Except Stop State) :
    Except Stop State :=
  s.onConfig (fun g => (getAt g.image.egress port.toNat none).isSome) fun _ => do
    let s ← enter s
    let s := s.popBox (.egress port)
    if r.left = 0 ∧ r.eof = false then .ok ((s.passReads k.id).succeed k 0 0)
    else .ok (s.modEgress port.toNat fun x => { x with run := some r })

/-- DRAIN. -/
def execDrain (o : DrainOps) (s : State) : Out :=
  let b : Box := .egress o.port
  let k := s.headCmd b o.tok
  .next (s.settle b k (do
    require s (o.addr.toNat % 128 == 0) .illegalCmd 3 (some 0)
    s.drainWith k o.port (PortRun.start k (.mem o.addr) o.count.toNat o.eof 0) .ok))

/-- DRAINT: it consumes its tile once, and is admitted before its first write (15 R325). -/
def execDraint (o : DrainTOps) (s : State) : Out :=
  let b : Box := .egress o.port
  let k := s.headCmd b o.tok
  .next (s.settle b k
    (s.drainWith k o.port (PortRun.start k (.tile o.handle) o.count.toNat o.eof 0) fun s =>
      s.admitOperand k o.handle 2 true))

/-! ## Control commands (15 R326, R327) -/

/-- Instants from the one at hand to the first that begins at least 4 clk later. -/
def Image.later (g : Image) : Nat := (4 + g.period - 1) / g.period

/-- Whether the control inbox has taken a command in the instant at hand: it takes one per instant (15 Table CMD-1). -/
def RunConfig.controlTaken (g : RunConfig) : Bool :=
  let at_ := g.instant + g.image.later
  g.halted.isSome || (g.paramWrites.any fun w => w.at_ == at_ && w.cmd.isSome) || g.arms.any fun a => a.at_ == at_

/-- A control command taken by the running configuration. -/
def State.control (s : State) (k : Cmd) (go : RunConfig → Except Stop RunConfig) : Out :=
  .next (s.settle .control k (s.onConfig (fun _ => true) fun g =>
    if g.controlTaken then .error .wait
    else do
      let g' ← go g
      .ok ((s.popBox .control).modCfg fun _ => g')))

/-- Whether a value may stand in a parameter of an element (12 R245). -/
def ElemState.accepts (e : ElemState) (k : Nat) (v : BitVec 32) : Bool :=
  (badParam e.desc.mode (updAt (loadedParams e.desc.params) k fun _ => v)).isNone

/-- PARM. -/
def execParm (tok : Reg) (elem : BitVec 7) (k : BitVec 3) (value : BitVec 32) (s : State) : Out :=
  let cmd := s.headCmd .control tok
  s.control cmd fun g =>
    match g.elem? elem.toNat with
    | none => .error (.fault s .illegalCmd 3 (some 32))
    | some e =>
      if e.accepts k.toNat value then
        .ok { g with
          paramWrites := g.paramWrites ++
            [{ at_ := g.instant + g.image.later, elem := elem.toNat, k := k.toNat, value := value, cmd := some cmd }] }
      else .error (.fault s .illegalCmd 3 (some 0))

/-- ARM. -/
def execArm (tok : Reg) (cols : BitVec 12) (s : State) : Out :=
  let cmd := s.headCmd .control tok
  s.control cmd fun g =>
    .ok { g with arms := g.arms ++ [{ at_ := g.instant + g.image.later, cols := cols, cmd := cmd }] }

/-- HALTF: the configuration ends with the instant that takes it. -/
def execHaltf (tok : Reg) (s : State) : Out :=
  let cmd := s.headCmd .control tok
  s.control cmd fun g => .ok { g with halted := some cmd }

/-! ## Ingress -/

/-- Whether the next command behind a FEED brings a marker before any data: none while no such command has arrived. A
FEED of nothing without a marker says nothing. -/
def nextIsMarker : List Cmd → Option Bool
  | [] => none
  | k :: rest =>
    match decodePacket k.packet with
    | .ok (.eofi _ _ _) => some true
    | .ok (.feed o) => if o.count = 0 then (if o.eof then some true else nextIsMarker rest) else some false
    | .ok (.feedt o) => if o.count = 0 then (if o.eof then some true else nextIsMarker rest) else some false
    | _ => nextIsMarker rest

/-- FIN of the group that is `behind` groups after the current one: none while it is not known (15 R323). -/
def PortRun.fin (r : PortRun) (queue : List Cmd) (behind : Nat) : Option Bool :=
  if behind + 1 < r.left then some false else if r.eof then some true else nextIsMarker queue

/-- `n` bytes of what a port command reads. -/
def State.portRead (s : State) (r : PortRun) (off n : Nat) : Eng (List Byte) :=
  match r.target with
  | .mem a => s.readMem (s.agentOf r.cmd) 0 off (a.toNat + off) n
  | .tile h =>
    match s.readTile h off n with
    | .ok bs => .ok (s, bs)
    | .error at_ => .error (.fault s .tileSize 0 (some at_))
  | .coords base step =>
    .ok (s, (upTo 32).flatMap fun j => bytesOf (base + step * BitVec.ofNat 32 (32 * r.count + j)).toNat 4)
  | .marker | .join => .ok (s, [])

/-- The data of an instant from its bytes. -/
def dataOf (bs : List Byte) : BitVec 1024 := BitVec.ofNat 1024 (natOf bs)

/-- A port command that stops: it waits for a tier page, or completes with a fault word. -/
def State.stopPort (s : State) (mod : (Port → Port) → State → State) (k : Cmd) (e : Stop) : State :=
  match e with
  | .tier s' f =>
    let s' := mod (fun x => { x with run := x.run.map fun r => { r with tier := some (f.val0.setWidth 48) } }) s'
    (s'.tierEvent k.owner.pdk f.val0 k.addr).raiseFor s'.cur k.owner f none
  | .fault s' code operand off => ((mod (fun x => { x with run := none }) s').dropWork k.id).refuse k code operand off
  | .wait => s
  | .pause s' => s'

/-- A port command that has entered everything (15 R324). -/
def State.endFeed (s : State) (p : Nat) (r : PortRun) : State :=
  let n := match r.target with | .coords _ _ => r.count | .marker => 0 | _ => r.moved
  ((s.modIngress p fun x => { x with run := none }).passReads r.cmd.id).succeed r.cmd 0 n

/-- A port command goes on, or ends when nothing is left to enter. -/
def State.goFeed (s : State) (p : Nat) (r : PortRun) : State :=
  if r.left = 0 && !r.eof && r.hdr == 0 && r.pos == 0 then s.endFeed p r
  else s.modIngress p fun x => { x with run := some r }

/-- The W instant that a port command enters now. -/
def State.feedW (s : State) (p : Nat) (r : PortRun) : State × Option Item :=
  match s.portRead r r.moved 128 with
  | .error e => (s.stopPort (fun f s => s.modIngress p f) r.cmd e, none)
  | .ok (s, bs) =>
    (s.goFeed p { r with left := r.left - 1, moved := r.moved + 128, count := r.count + 1 }, some (Item.ofData (dataOf bs)))

/-- The group word of the group that is `behind` groups after the current one, in its first header instant. -/
def Port.word (x : Port) (first fin : Bool) (behind : Nat) : Option (BitVec 16) :=
  if first then some (BitVec.ofNat 16 ((x.seq.toNat + behind) % 256 + fin.toNat * 256)) else none

/-- The instant of a group that a port command enters now at a D port with `n` digits per group: a header instant by
itself, or a digit with the next header instant of the group behind it; nothing while FIN is not known. -/
def State.feedD (s : State) (p n : Nat) (x : Port) (r : PortRun) : State × Option Item :=
  let size := 1024 + 128 * n
  let base := size * r.count
  let stop (e : Stop) : State × Option Item := (s.stopPort (fun f s => s.modIngress p f) r.cmd e, none)
  if r.hdr < 8 then
    match r.fin x.queue 0 with
    | none => (s, none)
    | some fin =>
      match s.portRead r (base + 128 * r.hdr) 128 with
      | .error e => stop e
      | .ok (s, bs) =>
        (s.modIngress p fun y => { y with run := some { r with hdr := r.hdr + 1, moved := r.moved + 128 } },
          some { Item.blank with hdr := some (dataOf bs), gword := x.word (r.hdr == 0) fin 0 })
  else
    let rides : Option Bool :=
      if r.ahead = r.pos ∧ r.pos < 8 ∧ 1 < r.left ∧ !s.me.fabric.drain.isSome || (0 < r.ahead ∧ r.ahead < 8) then r.fin x.queue 1
      else none
    match s.portRead r (base + 1024 + 128 * r.pos) 128 with
    | .error e => stop e
    | .ok (s, bs) =>
      let next : Except Stop (State × Option (BitVec 1024)) :=
        match rides with
        | none => .ok (s, none)
        | some _ => (s.portRead r (base + size + 128 * r.ahead) 128).map fun y => (y.1, some (dataOf y.2))
      match next with
      | .error e => stop e
      | .ok (s, h) =>
        let item : Item :=
          { Item.ofData (dataOf bs) with hdr := h, gword := if h.isSome then x.word (r.ahead == 0) (rides.getD false) 1 else none }
        let r : PortRun :=
          { r with pos := r.pos + 1, ahead := r.ahead + h.isSome.toNat, moved := r.moved + 128 + 128 * h.isSome.toNat }
        if r.pos < n then (s.modIngress p fun y => { y with run := some r }, some item)
        else
          let s := s.modIngress p fun y => { y with seq := y.seq + 1 }
          (s.goFeed p { r with pos := 0, hdr := r.ahead, ahead := 0, left := r.left - 1, count := r.count + 1 }, some item)

/-- What an ingress port does in an instant: what enters, and whether the limiter withholds its data (05 R97). -/
def State.ingressTurn (s : State) (v : Env) (p : Nat) : State × Option Item × Bool :=
  let x := getAt s.me.fabric.ingress p Port.reset
  match x.run, v.cfg.image.ingressDesc p with
  | some r, some d =>
    if x.marked || r.tier.isSome || !v.roomFor (.ingress p) then (s, none, false)
    else if r.left = 0 then
      if r.eof then (s.endFeed p r, some (Item.mark r.level), false) else (s.endFeed p r, none, false)
    else
      let f := s.me.fabric
      let used := (f.config.map (·.ingTokens)).getD 0
      if f.limT ≠ 0 && decide (f.limT.toNat ≤ used) then (s, none, true)
      else
        let (s, item) := if d.isD then s.feedD p d.digits x r else s.feedW p r
        (if item.isSome then s.modCfg fun g => { g with ingTokens := g.ingTokens + 1 } else s, item, false)
  | _, _ => (s, none, false)

/-- Whether an ingress port may be marked: no group is half entered (08 R151). -/
def Port.atBoundary (x : Port) : Bool :=
  match x.run with | some r => r.hdr == 0 && r.pos == 0 && r.ahead == 0 | none => true

/-! ## Egress -/

/-- The item at the head of an egress port. -/
def Port.head (x : Port) (t : Nat) : Option Item :=
  match x.slots.head? with | some y => if y.ready ≤ t then some y.item else none | none => none

/-- Where the bytes of a drain go. -/
def State.drainRuns (s : State) (r : PortRun) (bs : List Byte) : Eng (List Run) :=
  match r.target with
  | .mem a => s.spanMem (s.agentOf r.cmd) 2 r.moved (a.toNat + r.moved) bs
  | .tile h =>
    let size := 4096 * s.tileGranules h
    if r.moved + bs.length ≤ size then
      .ok (s, [{ tgt := .loft (handleCore h) (BitVec.ofNat 9 (handleSlot h)) r.moved, bytes := bs }])
    else .error (.fault s .tileSize 2 (some (max r.moved size)))
  | _ => .ok (s, [])

/-- A drain that has taken its last data, with the DETAIL of its token: it fills at the commit (15 R325). -/
def State.endDrain (s : State) (p : Nat) (r : PortRun) (detail : Nat) : State :=
  (s.modEgress p fun x =>
    { x with run := none, finished := x.finished ++ [{ r with ended := true, detail := BitVec.ofNat 8 detail }] }).passReads
      r.cmd.id

/-- A drain goes on, or has taken its count. -/
def State.goDrain (s : State) (p : Nat) (r : PortRun) : State :=
  if r.left = 0 then s.endDrain p r 0 else s.modEgress p fun x => { x with run := some r }

/-- The head of an egress port taken. -/
def State.takeEgress (s : State) (p : Nat) : State := s.modEgress p fun x => { x with slots := x.slots.tail }

/-- Bytes written by a drain as held writes. -/
def State.drainBytes (s : State) (t p : Nat) (r : PortRun) (bs : List Byte) : Except Stop State :=
  match s.drainRuns r bs with
  | .error e => .error e
  | .ok (s, rs) =>
    let r' : PortRun := { r with left := r.left - 1, moved := r.moved + bs.length, count := r.count + 1 }
    let held := rs.map fun x => { instant := t, elem := 120 + p, lane := 0, run := x : HeldWrite }
    .ok (((s.modCfg fun g => { g with held := g.held ++ held }).takeEgress p).goDrain p r')

/-- The record of a group whose digits have all arrived at an egress port: eight header and `n` digit instants. -/
def Port.record (x : Port) (n : Nat) : List Byte :=
  let ds := x.digits ++ List.replicate (n - x.digits.length) 0
  (x.hdrs.take 8 ++ ds).flatMap fun d => bytesOf d.toNat 128

/-- An egress D port with an item taken into the group that it assembles, and whether that group is complete. -/
def Port.assemble (x : Port) (n : Nat) (i : Item) : Port × Bool :=
  let y : Port :=
    { x with hdrs := x.hdrs ++ i.hdr.toList, digits := if i.valid then x.digits ++ [i.data] else x.digits }
  (y, i.last || (i.valid && y.digits.length == n))

/-- A data item met by a drain. -/
def State.drainItem (s : State) (t p n : Nat) (isD : Bool) (r : PortRun) (x : Port) (i : Item) : State :=
  let stop (e : Stop) : State := s.stopPort (fun f s => s.modEgress p f) r.cmd e
  if isD then
    let (y, whole) := x.assemble n i
    if whole then
      match s.drainBytes t p r (y.record n) with
      | .error e => stop e
      | .ok s => s.modEgress p fun z => { z with hdrs := y.hdrs.drop 8, digits := [] }
    else (s.takeEgress p).modEgress p fun z => { z with hdrs := y.hdrs, digits := y.digits }
  else
    match s.drainBytes t p r (bytesOf i.data.toNat 128) with
    | .error e => stop e
    | .ok s => s

/-- A join command that waits at an egress port begins to take its data there. -/
def State.openJoinPort (s : State) (p : Nat) : State :=
  s.modEgress p fun x =>
    match x.run, x.queue with
    | none, k :: rest =>
      if packetBox k.packet == some .join then { x with run := some (PortRun.start k .join 0 true 0), queue := rest } else x
    | _, _ => x

/-- What a join command's PORT source takes: every item up to its marker (10 R190). -/
def State.joinItem (s : State) (p : Nat) (i : Item) : State :=
  let port : BitVec 4 := BitVec.ofNat 4 p
  let add (j : Join) : Join :=
    { j with portReads := j.portReads.map fun x => if x.1 = port then (x.1, x.2 ++ [i]) else x }
  let s := (s.takeEgress p).mapMe fun c => { c with join := add c.join }
  if i.marker.isSome then s.modEgress p fun x => { x with run := none } else s

/-- What an egress port does in an instant (15 R325). -/
def State.egressTurn (s : State) (v : Env) (p : Nat) : State :=
  match getAt v.cfg.image.egress p none with
  | none => s
  | some d =>
    let s := s.openJoinPort p
    let x := getAt s.me.fabric.egress p Port.reset
    match x.run, x.head v.cfg.instant with
    | some r, some i =>
      if r.tier.isSome then s
      else if r.target = .join then s.joinItem p i
      else if i.marker.isSome then
        if r.eof then (s.takeEgress p).endDrain p r (i.level.toNat + 1) else s.takeEgress p
      else if r.left = 0 then s.endDrain p r 0
      else s.drainItem v.cfg.instant p d.digits d.isD r x i
    | _, _ => s

/-! ## Port registers (14 R312) -/

/-- Counter `n` of an element. -/
def ElemCounters.get (c : ElemCounters) (n : Nat) : BitVec 32 :=
  match n with
  | 0 => c.fired | 1 => c.noopnd | 2 => c.nospace | 3 => c.killed | 4 => c.throttle | 5 => c.allocw | _ => 0

/-- An element counter of the running configuration, or of the last one. -/
def Fabric.counter (f : Fabric) (i n : Nat) : BitVec 32 :=
  match f.config with
  | some g => match g.elem? i with | some e => e.counters.get n | none => 0
  | none => match assocGet f.lastCounters i with | some c => c.get n | none => 0

/-- A join counter (10 Table JON-3). -/
def Join.counter (j : Join) (n : Nat) : BitVec 32 :=
  match n with
  | 0 => j.probes | 1 => j.hits | 2 => j.inserts | 3 => j.spills | 4 => j.bankwait | 5 => j.tokwait
  | 6 => BitVec.ofNat 32 j.entries.length | _ => j.spillCount

/-- The value of a port register; none for a number outside Table SYN-4. -/
def Core.portReg (c : Core) (n : Nat) : Option Word :=
  if n < 960 then some ((c.fabric.counter (n / 8) (n % 8)).setWidth 64)
  else if 1024 ≤ n ∧ n < 1032 then some ((c.join.counter (n - 1024)).setWidth 64)
  else if 2048 ≤ n ∧ n < 3008 then
    match c.fabric.config.bind fun g => g.elem? ((n - 2048) / 8) with
    | some e => some ((e.p (n % 8)).setWidth 64)
    | none => some 0
  else if n = 4096 then some (c.stall.setWidth 64)
  else if n = 4097 then
    some (BitVec.ofNat 64 (c.block.okind.toNat + c.block.detail.toNat * 2 ^ 8 + c.block.object.toNat * 2 ^ 16))
  else none

/-- PRD: the register is read at issue, a read of SEQSTALL clears it, and sd stays empty until the result reaches it
(12 R229, 14 R312). -/
def execPrd (o : UOps) (s : State) : Out :=
  s.withOps [(o.sa, o.ea)] [o.sd] <|
    let n := s.reg o.sa
    match s.me.portReg n.toNat with
    | none => s.illegal n 0x25
    | some v =>
      let x : PendPort := { id := s.me.pipe.nextId, dst := o.sd, value := v, owner := s.here }
      let s := if n = 4096 then s.mapMe fun c => { c with stall := 0 } else s
      ((s.mapPipe fun p => { p with nextId := p.nextId + 1, prds := p.prds ++ [x] }).setEmpty o.sd).done

/-- PWR: a parameter of a USED element of the running configuration is written at the start of the next instant. -/
def execPwr (o : PairOps) (s : State) : Out :=
  s.withOps [(o.sa, o.ea), (o.sb, o.eb)] [] <|
    let n := s.reg o.sa
    let i := (n.toNat - 2048) / 8
    let k := n.toNat % 8
    let v : BitVec 32 := field (s.reg o.sb) 0 32
    if !s.isTileTask || !(decide (2048 ≤ n.toNat ∧ n.toNat < 3008)) then s.illegal n 0x25
    else
      match s.me.fabric.config.bind fun g => (g.elem? i).map fun e => (g, e) with
      | none => s.illegal n 0x25
      | some (g, e) =>
        if e.accepts k v then
          (s.modCfg fun h => { h with
            paramWrites := h.paramWrites ++ [{ at_ := g.instant, elem := i, k := k, value := v, cmd := none }] }).done
        else s.illegal n 0x26

end Sys2Proof.Machine
end

