-- ==== Sys2Proof/Machine/Instant.lean ====
section
/-!
DEFINITION. INSTANT (08 R139 to R153): what each element of a running configuration does in an instant, the resolution of
instant signals, and how a configuration ends; the timeouts of THR and CTLM (16 R351, R360).
-/
namespace Sys2Proof.Machine

/-! ## Reactions (08 R139; 16 R345) -/

/-- Whether a data input that the mode needs has no source. -/
def ElemState.lacks (e : ElemState) : Bool :=
  (modeInputs e.desc.mode e.tuple).any fun i => !optionalInput e.desc.mode i && !e.has i

/-- What an enabled element does by its mode, room aside. -/
def Env.modeReaction (v : Env) (e : ElemState) (sees : Sees) : Reaction :=
  let t := if e.timeoutDue then v.timeOut e else e
  let d := e.desc.takesD
  match e.desc.mode with
  | .add | .sub | .addk | .lsum | .mul | .mulk | .sqr | .div | .rcp | .sqrt | .max2 | .min2 | .relu | .gtp | .thr | .lmax
  | .pack | .norm | .scale => v.reactGroups e t sees
  | .fork => if d then v.reactGroups e e sees else v.wordMode e sees fun w => (w, 0)
  | .steer => if d then v.reactGroups e e sees else v.steerW e sees
  | .mrgp => if d then v.reactGroups e e sees else v.mrgpW e sees
  | .ctlm => if d then v.reactGroups e t sees else v.ctlmW t sees
  | .unpk => v.reactUnpk e sees
  | .exp2 | .log2 => v.reactTrans e sees
  | .mrgi | .mrga => v.reactMerge e sees
  | .nzs | .filt => v.reactTuples e sees
  | .bmx => v.reactBmx e sees
  | .bmc => v.reactBmc e sees
  | .cnt => v.reactCnt e
  | .ctls => v.reactCtls e sees
  | .ctlp => v.reactCtlp e sees
  | .win => v.reactWin e sees
  | .agen => v.reactAgen e sees
  | .mload | .mstore | .mgath | .mscat | .mtalloc | .mtread => { e.took with done := v.memDone e }

/-- Whether an element rests. -/
def ElemState.rests (e : ElemState) (sees : Sees) : Bool := e.saved || !(e.enabled || sees.enab)

/-- What an element does in the instant: it fires or takes only when every input that it drives has room. -/
def Env.respond (v : Env) (e : ElemState) (sees : Sees) : Reaction :=
  if e.rests sees then Reaction.plain e .rest
  else if e.lacks then e.waits
  else
    let r := v.modeReaction e sees
    let r := match r.how with
      | .fired | .took => if v.room e then r else Reaction.plain (e.latchBody sees) .nospace
      | _ => r
    { r with e := v.countSilence e r.e }

/-! ## Resolution of the instant signals (08 R140, R141) -/

/-- The statuses of an element's predicate and done outputs; none while unknown, and an absent predicate is `some none`. -/
structure Signal where
  elem : Nat
  pred : Option (Option (BitVec 512))
  done : Option Bool
  deriving DecidableEq, Repr

/-- The status of an element's predicate; absent for an element that is not used. -/
def predStatus (xs : List Signal) (i : Nat) : Option (Option (BitVec 512)) :=
  match xs.find? fun x => x.elem == i with | some x => x.pred | none => some none

/-- The status of an element's done. -/
def doneStatus (xs : List Signal) (i : Nat) : Option Bool :=
  match xs.find? fun x => x.elem == i with | some x => x.done | none => some false

/-- Whether the column-head decoder emits an enable at an element (15 R326). -/
def headEnable (cols : BitVec 12) (i : Nat) : Bool := bit cols (i % 12)

/-- The predicate that an element sees. -/
def ElemRec.seesPred (e : ElemRec) (xs : List Signal) : Option (Option (BitVec 512)) :=
  match e.pred with | some j => predStatus xs j | none => some none

/-- The enable that an element sees. -/
def ElemRec.seesEnab (e : ElemRec) (cols : BitVec 12) (xs : List Signal) : Option Bool :=
  match e.enab with | .none => some false | .head => some (headEnable cols e.index) | .elem j => doneStatus xs j

/-- The body's done that a controller sees. -/
def ElemRec.seesBody (e : ElemRec) (xs : List Signal) : Option Bool :=
  match e.bodySource with | some j => doneStatus xs j | none => some false

/-- What an element may still come to see: an unknown predicate is absent, all ones or all zeros. -/
def ElemRec.mayBeSeen (e : ElemRec) (cols : BitVec 12) (xs : List Signal) : List Sees :=
  let ps := match e.seesPred xs with | some p => [p] | none => [none, some allLanes, some 0]
  let es := match e.seesEnab cols xs with | some b => [b] | none => [false, true]
  let bs := match e.seesBody xs with | some b => [b] | none => [false, true]
  ps.flatMap fun p => es.flatMap fun n => bs.map fun b => { pred := p, enab := n, body := b }

/-- What an element sees at the end of resolution. -/
def ElemRec.seen (e : ElemRec) (cols : BitVec 12) (xs : List Signal) : Sees :=
  { pred := (e.seesPred xs).getD none, enab := (e.seesEnab cols xs).getD false, body := (e.seesBody xs).getD false }

/-- The one value of a list whose members agree. -/
def agreed {α : Type} [DecidableEq α] : List α → Option α
  | [] => none
  | x :: xs => if xs.all (· == x) then some x else none

/-- A signal after a wave: an output is decided when every way in which the unknown inputs may turn out gives it. -/
def Env.decide (v : Env) (cols : BitVec 12) (xs : List Signal) (x : Signal) : Signal :=
  if x.pred.isSome && x.done.isSome then x
  else
    match v.cfg.elem? x.elem with
    | none => { x with pred := some none, done := some false }
    | some e =>
      let rs := (e.desc.mayBeSeen cols xs).map (v.respond e)
      { x with pred := x.pred <|> agreed (rs.map (·.pred)), done := x.done <|> agreed (rs.map (·.done)) }

/-- Waves, all elements at once. -/
def Env.waves (v : Env) (cols : BitVec 12) : Nat → List Signal → List Signal
  | 0, xs => xs
  | n + 1, xs =>
    if xs.all fun x => x.pred.isSome && x.done.isSome then xs else v.waves cols n (xs.map (v.decide cols xs))

/-- The instant signals that some element reads, by its parameters as they stand. -/
def RunConfig.signals (g : RunConfig) : List Signal :=
  (g.elems.filter fun e => g.elems.any fun x => x.desc.instantInputs.contains e.desc.index).map fun e =>
    { elem := e.desc.index, pred := none, done := none }

/-- The statuses at the end of resolution: what registered state alone decides, and a wave for each hop that the period
spans, four per clk (08 R141; notes/assumptions/31.md). -/
def Env.resolve (v : Env) (cols : BitVec 12) : List Signal :=
  v.waves cols (1 + 4 * v.cfg.image.period) v.cfg.signals

/-- CAUSALITY for a signal left unknown: its lowest-indexed consumer, and the lowest port there that receives it; a body's
done counts as the enable (notes/assumptions/31.md). -/
def Env.causality (v : Env) (x : Signal) : List ElemFault :=
  let at_ (p : ElemRec → Bool) (port : Nat) : List ElemFault :=
    match v.cfg.elems.find? fun e => p e.desc with
    | some e => [e.fault .causality port 0 (some 0) (some 0)]
    | none => []
  (if x.pred.isNone then at_ (fun e => e.pred == some x.elem) 4 else [])
    ++ if x.done.isNone then at_ (fun e => e.enab == .elem x.elem || e.bodySource == some x.elem) 5 else []

/-! ## Before the elements react: pre-empt markers, parameters, enables, the limiter -/

/-- Whether a marker has reached its input: its instant has come, and no data that left before it is still on its way. -/
def RunConfig.markDue (g : RunConfig) (m : PreMark) : Bool :=
  decide (m.at_ ≤ g.instant)
    && match g.elem? m.elem with
       | some e => (getAt e.fifos m.input []).all fun x => decide (x.ready ≤ g.instant)
       | none => true

/-- The elements that see the markers due; one whose marks are complete saves its state and forwards a marker, one hop per
instant behind the data (08 R151). -/
def RunConfig.takeMarks (g : RunConfig) : RunConfig :=
  let due := g.marks.filter g.markDue
  let mark (e : ElemState) : ElemState :=
    due.foldl (fun e m => if m.elem = e.desc.index then { e with marked := updAt e.marked m.input fun _ => true } else e) e
  let whole (e : ElemState) : Bool :=
    !e.saved && (if e.desc.uses.isEmpty then due.any fun m => m.elem == e.desc.index
                 else e.desc.uses.all fun i => getAt e.marked i false)
  let es := g.elems.map mark
  let forward := (es.filter whole).flatMap fun e =>
    (upTo 4).flatMap fun o => (g.image.consumers (e.src o)).map fun c =>
      { at_ := g.instant + 2, elem := c.1, input := c.2.1 : PreMark }
  { g with
    elems := es.map fun e => if whole e then { e with saved := true } else e
    marks := (g.marks.filter fun m => !g.markDue m) ++ forward }

/-- The markers of the elements without a data input, which arrive in the instant after SNAP. -/
def RunConfig.markSources (g : RunConfig) : RunConfig :=
  { g with
    marks := g.marks ++ ((g.elems.filter fun e => e.desc.uses.isEmpty).map fun e =>
      { at_ := g.instant + 1, elem := e.desc.index, input := 4 }) }

/-- The drain of the focused core before an instant: SNAP's markers, then those that arrive. -/
def State.drainInstant (s : State) : State :=
  match s.me.fabric.drain with
  | none => s
  | some d =>
    let s := if d.instants = 0 then s.modCfg (·.markSources) else s
    (s.modCfg (·.takeMarks)).mapMe fun c =>
      { c with fabric := { c.fabric with drain := some { d with instants := d.instants + 1 } } }

/-- The markers of the ingress ports that stand at a boundary after the entries of the instant (08 R151). -/
def State.markPorts (s : State) (g : RunConfig) : State :=
  if s.me.fabric.drain.isNone then s
  else
    (upTo 16).foldl (fun s p =>
      let x := getAt s.me.fabric.ingress p Port.reset
      let isD := ((g.image.ingressDesc p).map (·.isD)).getD false
      if x.marked || (isD && !x.atBoundary) then s
      else
        (s.modIngress p fun x => { x with marked := true }).modCfg fun h =>
          { h with marks := h.marks ++ (g.image.consumers (.ingress p)).map fun c =>
              { at_ := g.instant + 1, elem := c.1, input := c.2.1 } }) s

/-- A parameter written (14 R312, 15 R326). -/
def RunConfig.setParam (g : RunConfig) (w : ParamWrite) : RunConfig :=
  { g with
    elems := g.elems.map fun e =>
      if e.desc.index = w.elem then e.setP w.k w.value else e
    parmCmds := match w.cmd with | some k => assocSet g.parmCmds w.elem k.addr | none => g.parmCmds }

/-- The parameter writes that act at the start of the instant; the tokens of the PARMs among them fill. -/
def State.writeParams (s : State) : State :=
  match s.me.fabric.config with
  | none => s
  | some g =>
    let due := g.paramWrites.filter fun w => decide (w.at_ ≤ g.instant)
    let rest := g.paramWrites.filter fun w => decide (g.instant < w.at_)
    let s := s.modCfg fun h => due.foldl RunConfig.setParam { h with paramWrites := rest }
    (due.filterMap (·.cmd)).foldl (fun s k => s.succeed k 0 0) s

/-- The columns whose enable is present in the instant; the tokens of their ARMs fill (15 R326). -/
def State.fireArms (s : State) : State × BitVec 12 :=
  match s.me.fabric.config with
  | none => (s, 0)
  | some g =>
    let due := g.arms.filter fun a => decide (a.at_ ≤ g.instant)
    let s := s.modCfg fun h => { h with arms := h.arms.filter fun a => decide (g.instant < a.at_) }
    (due.foldl (fun s a => s.succeed a.cmd 0 0) s, due.foldl (fun m a => m ||| a.cols) 0)

/-- The start of a window of the ingress limiter (05 R97). -/
def State.openWindow (s : State) (t : Nat) : State :=
  let f := s.me.fabric
  if t % 2 ^ 48 % f.limW.toNat ≠ 0 then s
  else
    let (lt, lw) := f.limNext.getD (f.limT, f.limW)
    (s.mapMe fun c => { c with fabric := { c.fabric with limT := lt, limW := lw, limNext := none } }).modCfg fun g =>
      { g with ingTokens := 0 }

/-! ## What leaves elements and ports -/

/-- An item that leaves a source in instant `t`, `lead` clk before it begins, at the place where it arrives (08 R160). -/
def Image.slot (g : Image) (t lead : Nat) (src : Src) (dst : Nat × Nat) (x : Item) : Slot :=
  let d := g.delay src lead dst
  { ready := t + d.1, lead := d.2, item := x }

/-- An item on its way to every input that a source drives. -/
def RunConfig.send (g : RunConfig) (t lead : Nat) (src : Src) (x : Item) : RunConfig :=
  let img := g.image
  (img.consumers src).foldl (fun (g : RunConfig) c =>
    { g with
      elems := g.elems.map fun e =>
        if e.desc.index = c.1 then
          let slot := img.slot t lead src (posOf c.1) (x.numbered (getAt e.bases c.2.1 0))
          { e with fifos := updAt e.fifos c.2.1 (· ++ [slot]) }
        else e }) g

/-- An item on its way to every egress port that a source drives. -/
def State.sendEgress (s : State) (g : Image) (t lead : Nat) (src : Src) (x : Item) : State :=
  (g.egressOf src).foldl (fun s p =>
    s.modEgress p fun y => { y with slots := y.slots ++ [g.slot t lead src (egressPos p) x] }) s

/-- What an element emits on its data outputs put on its way. -/
def State.sendItems (s : State) (g : Image) (t lead i : Nat) (xs : List (Nat × Item)) : State :=
  xs.foldl (fun s x => (s.modCfg fun h => h.send t lead (.elem i x.1) x.2).sendEgress g t lead (.elem i x.1) x.2) s

/-! ## Counters (08 R144, 05 R97) -/

/-- The counters of an element after a reaction; `held` says that an ingress port at its entry is withheld. Resting
counts in no counter (08 R139). -/
def ElemCounters.after (c : ElemCounters) (how : How) (held : Bool) : ElemCounters :=
  let c := if how = .fired then { c with fired := satAdd32 c.fired 1 } else c
  if how = .rest then c
  else if held then { c with throttle := satAdd32 c.throttle 1 }
  else
    match how with
    | .allocw => { c with allocw := satAdd32 c.allocw 1 }
    | .noopnd => { c with noopnd := satAdd32 c.noopnd 1 }
    | .nospace => { c with nospace := satAdd32 c.nospace 1 }
    | _ => c

/-- An element after its reaction. -/
def Reaction.settled (r : Reaction) (held : Bool) : ElemState :=
  { r.e with
    counters := r.e.counters.after r.how held
    enabled := if r.how = .rest then r.e.enabled else !r.done }

/-- Whether one of some ingress ports feeds an element. -/
def ElemRec.fedBy (e : ElemRec) (ps : List Nat) : Bool :=
  e.ins.any fun d => match d.src with | .ingress p => ps.contains p | _ => false

/-- Whether a kill still has a group to act on, or is still to arrive (08 R147). -/
def RunConfig.killLives (g : RunConfig) (k : Kill) : Bool :=
  decide (g.instant < k.at_)
    || match g.elem? k.elem with
       | some e => e.groups.any fun x => x.marker.isNone && x.outSeq == k.seq && (x.out == k.out || e.desc.mode == .fork)
       | none => false

/-! ## The end of a configuration -/

/-- Commands at a port, the running one first, with the bytes that each has moved. -/
def Port.commands (x : Port) : List (Cmd × Nat × Bool) :=
  (x.finished.map fun r => (r.cmd, r.moved, r.target == .join))
    ++ (x.run.toList.map fun r => (r.cmd, r.moved, r.target == .join))
    ++ x.queue.map fun k => (k, 0, packetBox k.packet == some .join)

/-- A port with no command and no data. -/
def Port.cleared (x : Port) : Port := { x.fresh with queue := [], run := none, finished := [] }

/-- Port commands completed with a fault word whose OFFSET is given; a join command learns it from its engine. -/
def State.refusePorts (s : State) (code : Code) (off : Option Nat) (ks : List (Cmd × Nat × Bool)) : State :=
  ks.foldl (fun s k =>
    let n := off.getD k.2.1
    if k.2.2 then s.mapMe fun c => { c with join := { c.join with portFail := some (code, n) } }
    else (s.dropWork k.1.id).refuse k.1 code 3 (some n)) s

/-- The focused core with no configuration. -/
def State.endConfig (s : State) (g : RunConfig) : State :=
  (s.mapMe fun c =>
    { c with
      fabric := c.fabric.ended
      loft := (c.loft.withdraw Requester.isElement).forget Requester.isElement }).mapPipe fun p =>
    { p with fences := p.fences.map fun f => if f.owner = g.owner then { f with cfg := false } else f }

/-- Tiles of the configuration's MTALLOC elements. -/
def RunConfig.allocated (g : RunConfig) (t : Tile) : Bool :=
  t.byConfig && t.allocBy == g.owner

/-- A configuration that ends without committing (08 R145, 15 R327, R328): its held effects and consumes are dropped, the
tiles of its MTALLOC elements are released, its port commands complete, and the CFG token gets the fault word. -/
def State.abortConfig (s : State) (g : RunConfig) (code : Code) (w v0 : Word) : State :=
  let ks := (s.me.fabric.ingress ++ s.me.fabric.egress).flatMap (·.commands)
  let cs := (g.paramWrites.filterMap (·.cmd)) ++ g.arms.map (·.cmd) ++ s.me.fabric.control
  let s := (s.dropConsumes s.cur (·.byConfig)).releaseTiles g.allocated
  let s := s.mapMe fun c =>
    { c with fabric := { c.fabric with ingress := c.fabric.ingress.map (·.cleared), egress := c.fabric.egress.map (·.cleared),
                                       control := [] } }
  let s := (s.endConfig g).refusePorts code none (ks ++ cs.map fun k => (k, 0, false))
  s.failCfg g.id g.addr g.tok g.owner code w v0

/-- Whether one fault reports before another: by element, port and lane (08 R145). -/
def ElemFault.before (a b : ElemFault) : Bool :=
  decide (a.elem < b.elem) || (a.elem == b.elem && (decide (a.port < b.port) || (a.port == b.port && decide (a.lane < b.lane))))

/-- The fault that reports. -/
def firstFault : List ElemFault → Option ElemFault
  | [] => none
  | f :: fs => match firstFault fs with | some x => if x.before f then some x else some f | none => some f

/-- An element fault (08 R145, R146). A detail that no rule states is free. -/
def State.elemFault (s : State) (g : RunConfig) (f : ElemFault) (more : Bool) : State :=
  let w := fabricWord f.code f.elem more f.port f.lane g.instant
  let (v0, s) := match f.val0 with | some v => (v, s) | none => s.anyWord
  let (v1, s) := match f.val1 with | some v => (v, s) | none => s.anyWord
  (s.noteFabric w v0 v1 ((assocGet g.parmCmds f.elem).getD g.addr)).abortConfig g f.code w v0

/-- HALTF: the configuration ends as after a fault, and HALTF's own token fills with 0 (15 R327). -/
def State.haltConfig (s : State) (g : RunConfig) (k : Cmd) : State :=
  (s.abortConfig g .illegalCmd (fabricWord .illegalCmd noElem false 0 0 g.instant) 0).succeed k 0 0

/-- Whether an element holds no data and owes none. -/
def ElemState.idle (e : ElemState) : Bool :=
  (e.fifos.all (·.isEmpty)) && e.groups.isEmpty && e.buf.isEmpty && e.outq.isEmpty && !e.memBusy && e.waitTier.isNone

/-- Whether the marker of a fibre that a drain with eof has taken whole by its count has arrived and is all that is
left at a port (notes/assumptions/32.md). -/
def Port.onlyMarker (x : Port) (t : Nat) : Bool :=
  match x.slots, x.finished.getLast? with
  | [y], some r => decide (y.ready ≤ t) && y.item.marker.isSome && r.eof && r.detail == 0
  | _, _ => false

/-- Whether nothing is left at an egress port and every drain there has taken its last data. -/
def Port.drainedOut (x : Port) (t : Nat) : Bool :=
  (x.slots.isEmpty || x.onlyMarker t) && (x.run.all fun r => r.target == .join)
    && x.queue.all fun k => packetBox k.packet == some .join

/-- Whether a configuration ends with the instant (08 R153). -/
def State.configEnds (s : State) (g : RunConfig) : Bool :=
  g.rootDone && (g.elems.all (·.idle))
    && (upTo 16).all fun p => (getAt g.image.egress p none).isNone || (getAt s.me.fabric.egress p Port.reset).drainedOut g.instant

/-- COMMIT (08 R153): held writes publish in the order of 16 R364, passed reads are counted, the tiles stay, the drains'
tokens and the CFG token fill. A port command that is still running, and a PARM or ARM whose instant has not come, have no
configuration any more (15 R322; notes/assumptions/100.md). -/
def State.commitConfig (s : State) (g : RunConfig) : State :=
  let ended := s.me.fabric.egress.flatMap (·.finished)
  let left := (s.me.fabric.ingress ++ s.me.fabric.egress).flatMap fun x =>
    x.run.toList.map fun r => (r.cmd, r.moved, r.target == .join)
  let control := ((g.paramWrites.filterMap (·.cmd)) ++ g.arms.map (·.cmd)).map fun k => (k, 0, false)
  let s := s.applyRuns (g.held.map (·.run))
  let s := s.commitConsumes s.cur fun x => x.byConfig && x.passed
  let s := s.dropConsumes s.cur (·.byConfig)
  let keep (l : Loft) : Loft :=
    { l with tiles := l.tiles.map fun t => if g.allocated t.2 then (t.1, { t.2 with byConfig := false }) else t }
  let s := s.liveCores.foldl (fun s e => s.modLoft e.2 keep) s
  let clear (x : Port) : Port := { x.fresh with run := none, finished := [] }
  let s := s.mapMe fun c =>
    { c with fabric := { c.fabric with ingress := c.fabric.ingress.map clear, egress := c.fabric.egress.map clear } }
  let s := s.endConfig g
  let s := ended.foldl (fun s r => s.succeed r.cmd r.detail.toNat r.moved) s
  let s := s.refusePorts .illegalCmd (some 120) (left ++ control)
  s.finish s.cur { id := g.id, tok := g.tok, word := 0, code := .none, addr := g.addr, owner := g.owner }

/-! ## INSTANT -/

/-- What the ingress ports do in an instant, in ascending order: what enters, and which ports are withheld. -/
def State.enter (s : State) (v : Env) : State × List (Nat × Item) × List Nat :=
  (upTo 16).foldl (fun (x : State × List (Nat × Item) × List Nat) p =>
    let (s, item, held) := x.1.ingressTurn v p
    (s, x.2.1 ++ (item.toList.map fun i => (p, i)), x.2.2 ++ if held then [p] else [])) (s, [], [])

/-- The reaction of an element, applied to the device where its mode acts on it. -/
def State.reactElem (s : State) (v : Env) (e : ElemState) (sees : Sees) : State × Reaction :=
  if e.desc.mode.onDevice && !e.rests sees && !e.lacks then s.memReact v e sees else (s, v.respond e sees)

/-- The reactions of all elements in ascending order. -/
def State.reactAll (s : State) (v : Env) (cols : BitVec 12) (xs : List Signal) : State × List Reaction :=
  v.cfg.elems.foldl (fun (y : State × List Reaction) e =>
    let (s, r) := y.1.reactElem v e (e.desc.seen cols xs)
    (s, y.2 ++ [{ r with e := { r.e with lead := r.e.leadFrom e v.cfg.instant } }])) (s, [])

/-- What the reactions leave: the elements after them, kills on their way, what is emitted, and the done of ROOT. -/
def State.applyAll (s : State) (v : Env) (rs : List Reaction) (entered : List (Nat × Item)) (withheld : List Nat) : State :=
  let img := v.cfg.image
  let t := v.cfg.instant
  let s := s.modCfg fun g =>
    let g : RunConfig := { g with
      elems := rs.map fun r => r.settled (r.e.desc.fedBy withheld)
      kills := g.kills ++ rs.flatMap (·.kills)
      rootDone := g.rootDone || rs.any fun r => r.e.desc.index == img.root && r.done }
    { g with kills := g.kills.filter g.killLives }
  let s := rs.foldl (fun s r => s.sendItems img t r.e.lead r.e.desc.index r.emits) s
  entered.foldl (fun s x => s.modCfg fun g => g.send t 0 (.ingress x.1) x.2) s

/-- The end of an instant: a fault, HALTF, the end of the configuration, or the next instant. -/
def State.closeInstant (s : State) (fs : List ElemFault) : State :=
  match s.me.fabric.config with
  | none => s
  | some g =>
    match firstFault fs, g.halted with
    | some f, h =>
      let s := s.elemFault g f (decide (1 < fs.length))
      match h with | some k => s.succeed k 0 0 | none => s
    | none, some k => s.haltConfig g k
    | none, none =>
      if s.configEnds g then s.commitConfig g
      else s.modCfg fun g => { g with instant := g.instant + 1 }

/-- INSTANT: every element of the focused core's configuration reacts once. -/
def State.instant (s : State) : State :=
  let s := ((s.drainInstant).writeParams)
  let (s, cols) := s.fireArms
  let s := s.openWindow ((s.me.fabric.config.map (·.instant)).getD 0)
  match s.me.fabric.config with
  | none => s
  | some g =>
    let v : Env := { cfg := g, egress := s.me.fabric.egress, core := s.cur, clk := s.clk }
    let (s, entered, withheld) := s.enter v
    let s := s.markPorts g
    let xs := v.resolve cols
    let (s, rs) := s.reactAll v cols xs
    let s := s.applyAll v rs entered withheld
    let s := (upTo 16).foldl (fun s p => s.egressTurn v p) s
    s.closeInstant (rs.flatMap (·.faults) ++ xs.flatMap v.causality)

/-- INSTANT (08 R139). No instant begins while a read keeps the configuration's held writes from a commit (11 R219). -/
def execInstant (core : CoreNum) (s : State) : Out :=
  .next (s.onCore core fun s =>
    if s.me.fabric.config.any fun g => s.splits (g.held.map (·.run)) then s else s.instant)

/-! ## Timeouts (16 R351, R360) -/

/-- The timeout of an element of one of the two modes: its marker is queued (the next INSTANT emits it). -/
def State.timeoutAt (s : State) (mode : EMode) (i : Nat) : State :=
  match s.me.fabric.config with
  | none => s
  | some g =>
    let v : Env := { cfg := g, egress := s.me.fabric.egress, core := s.cur, clk := s.clk }
    s.modCfg fun g => { g with
      elems := g.elems.map fun e =>
        if e.desc.index == i && e.desc.mode == mode && e.enabled && !e.saved && e.timeoutDue && v.room e then v.timeOut e
        else e }

/-- THR_TIMEOUT. -/
def execThrTimeout (core : CoreNum) (elem : BitVec 7) (s : State) : Out :=
  .next (s.onCore core fun s => s.timeoutAt .thr elem.toNat)

/-- CTLM_TIMEOUT. -/
def execCtlmTimeout (core : CoreNum) (elem : BitVec 7) (s : State) : Out :=
  .next (s.onCore core fun s => s.timeoutAt .ctlm elem.toNat)

end Sys2Proof.Machine
end

