-- ==== Sys2Proof/Machine/Preempt.lean ====
section
/-!
DEFINITION. Pre-emption (04 R82, R83; 10 R205; 13 R284), replay after a soft error (04 R84, 02 R36), and the
settlement of held records through HOLDCTL (04 R84, 06 R112).
-/
namespace Sys2Proof.Machine

/-! ## Choosing a victim (04 R82) -/

/-- Whether a queue's die allows pre-emption, and how long a record waits before it. -/
def Paddock.preemptWait (p : Paddock) (q : QueueId) : Option Nat :=
  match p.ctrlOf q.dieNum with
  | some k => if k.preen then some k.pwait.toNat else none
  | none => none

/-- Whether a task is being stopped in favour of a record. -/
def State.hasVictim (s : State) (pdk : PdkNum) (n : RecName) : Bool :=
  s.liveCores.any fun e =>
    match (s.coreAt e.2).stopping with | some (some o) => o.pdk == pdk && o.name == n | _ => false

/-- Whether a ready record may pre-empt now: it has waited PWAIT clk, no core is eligible, and no victim is on its way
out. -/
def State.mayPreempt (s : State) (p : Paddock) (r : Record) : Bool :=
  r.state == .queued && !s.hasVictim p.num r.name
    && (match p.preemptWait r.queue with | some w => decide (r.waitFrom + w ≤ s.clk) | none => false)
    && !(s.unitCores p r.queue).any fun c => s.eligible p r c

/-- Whether a core's task may be chosen as a victim: not under RUNQ (14 R309), not stopping, and not passed over after
a drain that was cancelled (04 Table SCH-8). -/
def Core.mayStop (c : Core) : Bool :=
  c.stopping.isNone && c.callers.isEmpty && (match c.task with | some t => !t.noVictim | none => false)

/-- The victim for a record: the task of lowest priority in its domain unit, the highest core number among equals. -/
def State.victimFor (s : State) (p : Paddock) (r : Record) : Option CoreNum :=
  let able := (s.unitCores p r.queue).filterMap fun c =>
    let k := s.coreAt c
    match k.task with
    | some t => if k.mayStop && r.tied.all (· == c) && decide (s.effOf p r < t.effPrio) then some (t.effPrio, c) else none
    | none => none
  (able.foldl (fun (best : Option (Nat × CoreNum)) x =>
    match best with
    | some b => if b.1 ≤ x.1 then some x else some b
    | none => some x) none).map (·.2)

/-- The records of a Paddock that may pre-empt, foremost first by effective priority and then by age. -/
def State.preemptors (s : State) (p : Paddock) : List Record :=
  (upTo 4).flatMap fun e => p.records.filter fun r => s.mayPreempt p r && s.effOf p r == e

/-- PREEMPTION: a waiting record stops a task of lower priority. -/
def execPreemption (pdk : PdkNum) (s : State) : Out :=
  .next
    (match s.paddock? pdk with
     | none => s
     | some p =>
       match (s.preemptors p).findSome? fun r => (s.victimFor p r).map fun c => (r, c) with
       | some (r, c) => s.modCore c fun k => { k with stopping := some (some (ownerOf pdk r.name)) }
       | none => s)

/-! ## Stopping the sequencer (04 R82) -/

/-- Whether a task has a command, FENCE or BARTOK token outstanding, which ties its record to the core. -/
def State.tiesRecord (s : State) (o : Owner) : Bool :=
  !(s.tokensOut o).isEmpty || (s.me.pipe.fences.any (·.owner == o)) || s.me.pipe.bartoks.any (·.owner == o)

/-- The stopped task's record queued at the head of its sublist at the priority at which it ran (04 R71, R82). -/
def State.requeueStopped (s : State) (t : Task) (f : Record → Record) : State :=
  match s.paddock? t.owner.pdk, s.record? t.owner with
  | some p, some r =>
    let s := s.modRecord t.owner fun x => { f x with queue := p.homeQueue r, triggered := t.triggered }
    s.enqueue t.owner true t.effPrio
  | _, _ => s

/-- The record for which a core was freed dispatched on it in the next clk, when the core is idle (04 R72), if it is still
ready and the core eligible. -/
def State.dispatchFor (s : State) (o : Option Owner) : State :=
  match o with
  | none => s
  | some o =>
    let s := s.tick 1
    match s.paddock? o.pdk, s.record? o with
    | some p, some r =>
      if r.state == .queued && s.eligible p r s.cur then (s.startTask p r false).1 else s
    | _, _ => s

/-- The task of the focused core saved in an area that the Ostler reserves, whose address no rule gives
(notes/assumptions/98.md), and queued; the core freed, and the waiting record dispatched. `ties` says that a token of
the task is outstanding. -/
def State.saveTask (s : State) (t : Task) (image : Option SavedImage) (ties : Bool) (for_ : Option Owner) : State :=
  let (w, s) := s.anyWord
  let area : BitVec 48 := (field w 6 42 : BitVec 42).setWidth 48 <<< 6
  let tied := if ties then some s.cur else none
  let saved : SavedContext := { seq := s.me.seq }
  let hz := s.me.seq.status.horizon
  ((s.leaveCore).requeueStopped t fun r =>
    { r with ctx := true, frame := area, saved := some saved, image := image, tied := tied, horizon := hz }).dispatchFor for_

/-- The focused core's stop: once the task's accesses are done, its request in a TALLOC is withdrawn and its results
are settled; a task without tiles leaves, a tile task's fabric begins to drain (04 R83, 06 R105). -/
def State.stopTask (s : State) (for_ : Option Owner) : State :=
  match s.me.task with
  | none => s.mapMe fun c => { c with stopping := none }
  | some t =>
    if !s.allIn || s.me.fabric.drain.isSome then s
    else
      let s := s.settleUnits
      let s := s.mapMe fun c =>
        { c with loft := c.loft.withdraw Requester.isSequencer, pipe := { c.pipe with tallocWait := false } }
      if s.isTileTask then s.mapMe fun c => { c with fabric := { c.fabric with drain := some { instants := 0 } } }
      else s.saveTask t none (s.tiesRecord t.owner) for_

/-! ## The fabric's drain (04 Table SCH-8) -/

/-- Whether the focused core's fabric has reached SAVED: nothing loads, no admission is under way, every element is
saved, no item is in flight to an egress port, and the join inbox is empty. -/
def State.drained (s : State) : Bool :=
  s.me.fabric.loading.isNone && s.me.join.inbox.isEmpty && (s.me.suspended.all fun x => x.box != .join)
    && (s.me.consumes.all fun k => k.admitted || k.failed.isSome)
    && (match s.me.fabric.config with
        | some g => (g.elems.all (·.saved)) && s.me.fabric.egress.all fun p => p.slots.all fun x => decide (x.ready ≤ g.instant)
        | none => true)

/-- An element after a save or after a drain that was cancelled: it runs on from its state. -/
def ElemState.unmark (e : ElemState) : ElemState := { e with saved := false, marked := e.marked.map fun _ => false }

/-- A configuration with every mark of a drain removed. -/
def RunConfig.unmark (g : RunConfig) : RunConfig := { g with elems := g.elems.map (·.unmark), marks := [] }

/-- The number of the next group that an output has still to begin on its channels; FORK numbers all its outputs
together. -/
def ElemState.nextSeq (e : ElemState) (o : Nat) : BitVec 8 :=
  let o := if e.desc.mode = .fork then 0 else o
  match e.groups.find? fun g => g.marker.isNone && g.out == o && g.outHdrs == 0 with
  | some g => g.outSeq
  | none => BitVec.ofNat 8 (e.num (8 + o))

/-- The SEQ of the oldest group that an element or its FIFO holds of an input. -/
def ElemState.oldestSeq (e : ElemState) (i : Nat) : Option (BitVec 8) :=
  match e.groups.find? fun g => g.marker.isNone && !(getAt g.hdrs i []).isEmpty with
  | some g => some (getAt g.seqs i 0)
  | none => (getAt e.fifos i []).findSome? fun x => x.item.gword.map fun w => field w 0 8

/-- An element whose input's channel has been renumbered by `d`: the groups held, and the number that SEQ 0 has at the
output. -/
def ElemState.renumberIn (e : ElemState) (i : Nat) (d : BitVec 8) : ElemState :=
  { e with
    bases := updAt e.bases i (· + d)
    groups := e.groups.map fun g =>
      if (getAt g.hdrs i []).isEmpty then g else { g with seqs := updAt g.seqs i (· - d) }
    fifos := updAt e.fifos i fun xs => xs.map fun x => { x with item := x.item.numbered d } }

/-- A configuration as it resumes: on each channel the groups held count from SEQ 0, in order, before any new one, and STEER
numbers its groups from 0 again (08 R131, R151; 15 R323; 16 R354). -/
def RunConfig.renumber (g : RunConfig) (ingress : List Port) : RunConfig :=
  let next (src : Src) : BitVec 8 :=
    match src with
    | .elem j o => match g.elem? j with | some e => e.nextSeq o | none => 0
    | .ingress p => (getAt ingress p Port.reset).seq
    | .none => 0
  let one (e : ElemState) (i : Nat) : ElemState :=
    match e.desc.ins[i]? with
    | some d => if d.isD then e.renumberIn i ((e.oldestSeq i).getD (next d.src - getAt e.bases i 0)) else e
    | none => e
  { g with
    elems := g.elems.map fun e =>
      let e := (upTo 4).foldl one e
      if e.desc.mode = .steer then e.setNum 0 0 else e }

/-- The ports with every mark of a drain removed. -/
def unmarkPorts (ps : List Port) : List Port := ps.map fun p => { p with marked := false }

/-- FABRIC_SAVED: the image is stored with the record, which is queued, and the core is freed. -/
def execFabricSaved (core : CoreNum) (s : State) : Out :=
  .next (s.onCore core fun s =>
    match s.me.task, s.me.fabric.drain, s.me.stopping with
    | some t, some _, some for_ =>
      if s.drained then
        let ties := s.tiesRecord t.owner
        let (img, s) := s.takeImage
        let config := img.config.map fun g => g.unmark.renumber img.ingress
        s.saveTask t (some { img with config := config, ingress := unmarkPorts img.ingress }) ties for_
      else s
    | _, _, _ => s)

/-- The drain window of a core in instants. -/
def State.drainWindow (s : State) (pdk : PdkNum) : Nat :=
  match (s.paddock? pdk).bind (·.ctrlOf (dieOf s.cur)) with | some k => 2 ^ k.drainwin.toNat | none => 2 ^ 16

/-- The focused core's tile task discarded with its held effects and the tiles it allocated; its record starts anew
(04 Table SCH-8). -/
def State.discardTask (s : State) (t : Task) (prio : Nat) (f : Record → Record) : State :=
  let s := (s.dropEngines s.cur).freeTilesOf t.owner
  s.leaveCore.requeueStopped { t with effPrio := prio } fun r =>
    { f r with ctx := false, frame := r.slots, saved := none, image := none, tied := none, horizon := false }

/-- DRAIN_WINDOW_END: a task before its horizon is discarded; past it, the drain is cancelled and the task runs on. -/
def execDrainWindowEnd (core : CoreNum) (s : State) : Out :=
  .next (s.onCore core fun s =>
    match s.me.task, s.me.fabric.drain, s.me.stopping with
    | some t, some d, some for_ =>
      if d.instants < s.drainWindow t.owner.pdk || s.drained then s
      else if !s.me.seq.status.horizon then (s.discardTask t t.effPrio id).dispatchFor for_
      else
        let s := match for_ with
          | some o => s.modRecord o fun r => { r with waitFrom := s.clk }
          | none => s
        s.mapMe fun c =>
          { c with
            stopping := none
            sleeping := none
            task := some { t with noVictim := true }
            fabric := { c.fabric with
              drain := none
              ingress := unmarkPorts c.fabric.ingress
              config := c.fabric.config.map (·.unmark) } }
    | _, _, _ => s)

/-! ## Soft errors (04 R84, 02 R36) -/

/-- Whether an error lies in a part that a replay of the focused core's task covers and its Paddock allows. -/
def State.replayUnit (s : State) (p : Paddock) (t : Task) (u : ErrorUnit) : Bool :=
  match u with
  | .fabric => p.desc.replayFab
  | .corral => p.desc.replayCorral
  | .loft slot =>
    p.desc.replayLoft
      && match s.me.loft.tile? slot.toNat with
         | some x => x.allocBy == t.owner
         | none => false
  | .other => false

/-- A REPLAY event (02 R27). -/
def State.replayEvent (s : State) (p : PdkNum) (name : RecName) (count : Nat) : State :=
  s.report .replay (some p) false
    { FaultRecord.blank s with
      code := Code.replayed.toByte, source := s.cur, val0 := name.toWord,
      val1 := BitVec.ofNat 64 (Code.eccUncorr.toByte.toNat + count * 2 ^ 8) }

/-- The task replayed: discarded, counted, reported and requeued at the head of its sublist. -/
def State.replay (s : State) (t : Task) (n : Nat) : State :=
  let s := s.discardTask t t.prio fun r => { r with replays := n }
  let s := s.modGroup t.owner.pdk t.group fun g => { g with replays := g.replays + 1 }
  s.replayEvent t.owner.pdk t.owner.name n

/-- SOFT_ERROR: Table SCH-9 decides between a replay and a hold of the core's task; a core with no task has nothing
that the table acts on. -/
def execSoftError (core : CoreNum) (unit : ErrorUnit) (s : State) : Out :=
  .next (s.onCore core fun s =>
    match s.me.task with
    | none => s
    | some t =>
      match s.paddock? t.owner.pdk, s.record? t.owner with
      | some p, some r =>
        let st := s.me.seq.status
        if st.tile && !st.horizon && st.rpl && s.replayUnit p t unit && decide (r.replays < p.desc.maxReplay.toNat) then
          s.replay t (r.replays + 1)
        else
          let (w, s) := (s.holdTask Code.eccUncorr.toByte).anyWord
          s.raiseDetached p.num { code := .eccUncorr, val0 := t.owner.name.toWord, val1 := w }
      | _, _ => s)

/-! ## HOLDCTL (04 R84, Table SCH-5) -/

/-- The record that HOLDCTL names: by address, or by group and index. -/
def CtrlPage.named (k : CtrlPage) : RecName :=
  if k.holdL0 then .level0 (field k.holdName 32 16) (field k.holdName 0 32).toNat else .spawned k.holdAddr

/-- The result of an action recorded; only its end is awaited. -/
def State.holdResult (s : State) (pdk : PdkNum) (d : DieNum) (r : BitVec 2) : State :=
  s.modCtrl pdk d fun k => { k with holdResult := r, holdDone := true }

/-- An action of HOLDCTL performed when it is the one written and has not been performed. -/
def State.holdAction (s : State) (pdk : PdkNum) (d : DieNum) (action : BitVec 2)
    (go : State → Paddock → RecName → State) : Out :=
  .next
    (match s.paddock? pdk with
     | none => s
     | some p =>
       match p.ctrlOf d with
       | some k => if k.holdBusy && !k.holdDone && k.holdAction == action then go s p k.named else s
       | none => s)

/-- REQUEUE: a held record returns as ready with CTX = 0. -/
def execRequeue (pdk : PdkNum) (die : DieNum) (s : State) : Out :=
  s.holdAction pdk die 1 fun s p n =>
    match p.record? n with
    | none => s.holdResult pdk die 1
    | some r =>
      if r.state ≠ .held then s.holdResult pdk die 2
      else
        let o := ownerOf pdk n
        let q := if r.run = 0 then r.queue else p.homeQueue r
        let s := s.modRecord o fun x =>
          { x with wkind := .none, hcode := 0, ctx := false, frame := x.slots, queue := q, horizon := false }
        (s.makeReady o false).holdResult pdk die 0

/-- The cluster whose cores a record runs on, where its queue or its last core says so. -/
def Record.cluster (r : Record) : Option Nat :=
  match r.queue with
  | .cluster k => some k
  | .deque c => some (clusterIx c)
  | .package | .die _ => if r.run = 0 then none else some (clusterIx r.lastCore)

/-- One consume on a handle on behalf of an aborted record, as TCONS would make it: in the record's own cluster; a fault is
skipped (06 R112). -/
def State.consumeFor (s : State) (p : Paddock) (r : Record) (h : BitVec 32) : State :=
  if !s.homeOk p h || (r.cluster.any fun k => k != clusterIx (handleCore h)) then s
  else
    match (s.loftAt (handleCore h)).tcons h with
    | .done l => s.modLoft (handleCore h) fun _ => l
    | .fault _ _ => s

/-- The port slots of a frame consumed; the flag says that every slot could be read. -/
def State.consumeSlots (s : State) (p : Paddock) (r : Record) : State × Bool :=
  (upTo 16).foldl (fun (x : State × Bool) k =>
    match x.1.ostlerRead p.num (r.slots.toNat + 4 * k) 4 with
    | .error _ => (x.1, false)
    | .ok bs =>
      let h : BitVec 32 := BitVec.ofNat 32 (natOf bs)
      (if h = 0 then x.1 else x.1.consumeFor p r h, x.2)) (s, true)

/-- A live record that is to be aborted stopped, or taken out of its list; its held reads are released (04 R84). -/
def State.beginAbort (s : State) (pdk : PdkNum) (n : RecName) : State :=
  let o := ownerOf pdk n
  match s.record? o with
  | none => s
  | some r =>
    match r.state with
    | .running c => s.onCore c fun s => s.holdTask 0
    | _ => (s.dropImage pdk r).modRecord o fun r => { r with state := .held, image := none, saved := none, tied := none }

/-- Whether a message that a record's last core sent to another is still on its way there. -/
def State.releasesOut (s : State) (r : Record) : Bool := s.tileMsgs.any fun m => m.reader == r.lastCore && !m.isAnswer

/-- A record that has been stopped aborted: its port slots consumed, its parent's JOIN decremented and its group
marked FAULT. The flag says that nothing was unreadable and no decrement failed. -/
def State.abort (s : State) (p : Paddock) (r : Record) : State × Bool :=
  let (s, read) := s.consumeSlots p r
  let (s, joined) :=
    if r.parent = 0 || r.triggered then (s, true)
    else match s.decJoin p.num r.parent with | some s => (s, true) | none => (s, false)
  ((s.dropRecord (ownerOf p.num r.name)).modGroup p.num r.group fun g => g.fail r.hcode, read && joined)

/-- Several records aborted: all are stopped first, and go on once their releases have reached the home cores, since a
consume waits behind them as TCONS does (06 R112, 14 R305). The answer says whether it was performed in full. -/
def State.abortAll (s : State) (pdk : PdkNum) (ns : List RecName) : State × Option Bool :=
  let s := ns.foldl (fun s n => s.beginAbort pdk n) s
  if ns.any fun n => (s.record? (ownerOf pdk n)).any s.releasesOut then (s, none)
  else
    let (s, ok) := ns.foldl (fun (x : State × Bool) n =>
      match (x.1.paddock? pdk).bind fun p => (p.record? n).map fun r => (p, r) with
      | some (p, r) => let (s, ok) := x.1.abort p r; (s, x.2 && ok)
      | none => x) (s, true)
    (s, some ok)

/-- An abort with its result, when it has been performed. -/
def State.abortResult (s : State) (pdk : PdkNum) (die : DieNum) (ns : List RecName) : State :=
  match s.abortAll pdk ns with
  | (s, some ok) => s.holdResult pdk die (if ok then 0 else 3)
  | (s, none) => s

/-- ABORT_RECORD. -/
def execAbortRecord (pdk : PdkNum) (die : DieNum) (s : State) : Out :=
  s.holdAction pdk die 2 fun s p n =>
    match p.record? n with
    | none => s.holdResult pdk die 1
    | some _ => s.abortResult pdk die [n]

/-- ABORT_GROUP: every live record of the named record's group, and its generator stops. -/
def execAbortGroup (pdk : PdkNum) (die : DieNum) (s : State) : Out :=
  s.holdAction pdk die 3 fun s p n =>
    match p.record? n with
    | none => s.holdResult pdk die 1
    | some r =>
      let s := s.modGroup pdk r.group fun g => { g with next := max g.next (getAt g.counts 0 0) }
      s.abortResult pdk die ((p.records.filter fun x => x.group == r.group).map (·.name))

/-- HOLD_ACTION_END: BUSY clears once the action has been performed. -/
def execHoldActionEnd (pdk : PdkNum) (die : DieNum) (s : State) : Out :=
  .next (s.modCtrl pdk die fun k => if k.holdBusy && k.holdDone then { k with holdBusy := false, holdDone := false } else k)

end Sys2Proof.Machine
end

