-- ==== Sys2Proof/Machine/Deadlock.lean ====
section
/-!
DEFINITION. DEADLOCK_SAMPLE: what every blocked agent waits on, the closed wait-for sets, and the report (04 R80, R81).
-/
namespace Sys2Proof.Machine

/-! ## Agents and releasers (04 Table SCH-7) -/

/-- An agent: its core, AKIND and UNIT (04 R81); a LAUNCH that has left its inbox counts 256 times its group's number more
than the inbox. -/
abbrev AgentKey := CoreNum × Nat × Nat

/-- A blocked agent: its key, its entry in a report, and the agents that may release what it waits on; none when
something that is not blocked may. -/
structure WaitFor where
  key : AgentKey
  member : Member
  by_ : Option (List AgentKey)

/-- The key of a member that stands for itself. -/
def Member.key (m : Member) : AgentKey := (m.core, m.akind, m.unit)

/-- The sequencer of a core. -/
def seqKey (c : CoreNum) : AgentKey := (c, 0, 0)
/-- The command in an inbox of a core. -/
def boxKey (c : CoreNum) (b : Box) : AgentKey := (c, 1, boxUnit b)
/-- The LAUNCH of a core whose group is live. -/
def launchKey (c : CoreNum) (g : GroupNum) : AgentKey := (c, 1, boxUnit .ostler + 256 * (g.toNat + 1))
/-- An element of a core's configuration. -/
def elemKey (c : CoreNum) (i : Nat) : AgentKey := (c, 2, i)

/-- All inboxes of a core. -/
def allBoxes : List Box :=
  List.flatten [[.join, .bte, .remote, .ostler], (upTo 16).map fun p => .ingress (BitVec.ofNat 4 p),
    (upTo 16).map fun p => .egress (BitVec.ofNat 4 p), [.control]]

/-- The port command that runs at a port. -/
def portRun (ps : List Port) (p : Nat) : Option PortRun := (getAt ps p Port.reset).run

/-- The commands of a core with the inbox that they stand in or came from. -/
def State.commandsOf (s : State) (c : CoreNum) : List (Box × Cmd) :=
  let k := s.coreAt c
  (allBoxes.flatMap fun b => (k.inbox b).map fun x => (b, x)) ++ (k.suspended.map fun x => (x.box, x.cmd))
    ++ ((s.mcasts.filter fun m => m.core == c).map fun m => (.bte, m.cmd))
    ++ ((upTo 16).flatMap fun p =>
        (portRun k.fabric.ingress p).toList.map fun r => (Box.ingress (BitVec.ofNat 4 p), r.cmd))
    ++ (upTo 16).flatMap fun p =>
        match portRun k.fabric.egress p with
        | some r => if r.target = .join then [] else [(Box.egress (BitVec.ofNat 4 p), r.cmd)]
        | none => []

/-- Whether a core has accesses or results under way, each of which ends by itself. -/
def Core.underWay (k : Core) : Bool :=
  !k.pipe.loads.isEmpty || !k.pipe.prds.isEmpty || !k.pipe.stores.isEmpty || !k.pipe.atomics.isEmpty
    || k.pipe.divUnit.isSome || k.pipe.fpUnit.isSome || !k.done.isEmpty || k.fabric.loading.isSome

/-- The elements of a core's configuration that do not rest. -/
def Core.activeElems (k : Core) : List Nat :=
  match k.fabric.config with
  | some g => (g.elems.filter fun e => e.enabled && !e.saved).map (·.desc.index)
  | none => []

/-- The agents whose doing ends a core's configuration. -/
def Core.configKeys (k : Core) (c : CoreNum) : List AgentKey :=
  (k.activeElems.map (elemKey c)) ++ (upTo 16).flatMap fun p =>
    match portRun k.fabric.egress p with
    | some r => if r.target = .join then [boxKey c .join] else [boxKey c (.egress (BitVec.ofNat 4 p))]
    | none => if (getAt k.fabric.egress p Port.reset).slots.isEmpty then [] else [seqKey c]

/-- Every agent of a Paddock, or none when a record is ready or parked or something is under way. -/
def State.agentsOf (s : State) (p : Paddock) : Option (List AgentKey) :=
  let cs := (s.liveCores.map (·.2)).filter p.desc.ownsCore
  let busy := p.records.any fun r => r.state == .queued || r.state == .parked
  if busy || (cs.any fun c => (s.coreAt c).underWay) || (s.shadows.any fun x => x.owner.pdk == p.num) then none
  else
    some (cs.flatMap fun c =>
      let k := s.coreAt c
      (if k.idle then [] else [seqKey c]) ++ ((s.commandsOf c).map fun x => boxKey c x.1) ++ k.activeElems.map (elemKey c))

/-! ## What each kind of agent waits on -/

/-- The cores on which some records run, or none when one of them does not run. -/
def runningKeys (rs : List Record) : Option (List AgentKey) :=
  rs.mapM fun (r : Record) => match r.state with | .running c => some (seqKey c) | _ => none

/-- The engine commands and elements that read tiles in a partition of a Loft. -/
def State.readerKeys (s : State) (home : CoreNum) (part : Nat) : List AgentKey :=
  s.liveCores.flatMap fun e =>
    let c := e.2
    let reads := (s.coreAt c).consumes.filter fun x =>
      handleCore x.handle == home && ((s.loftAt home).current? x.handle).any fun t => t.part == part
    reads.flatMap fun x =>
      if 2 ^ 32 ≤ x.cmd then [elemKey c (x.cmd - 2 ^ 32)]
      else ((s.commandsOf c).filter fun k => k.2.id == x.cmd).map fun k => boxKey c k.1

/-- Releasers of a partition of a Loft: the tasks of the groups that own tiles there, and what reads those tiles. -/
def State.poolKeys (s : State) (p : Paddock) (home : CoreNum) (part : Nat) : Option (List AgentKey) :=
  let owners := ((s.loftAt home).tiles.filter fun t => t.2.part == part && t.2.pdk == p.num).map (·.2.group)
  (runningKeys (p.records.filter fun r => owners.contains r.group)).map (· ++ s.readerKeys home part)

/-- Releasers of a task group: its live records, none of which is still to be made. -/
def Paddock.groupKeys (p : Paddock) (g : Group) : Option (List AgentKey) :=
  let rs := p.records.filter fun r => r.group == g.number
  if g.next < getAt g.counts 0 0 || rs.isEmpty then none else runningKeys rs

/-- The cores that may dispatch from the queue of a number (04 R81). -/
def State.queueKeys (s : State) (p : Paddock) (n : Nat) : Option (List AgentKey) :=
  let q : QueueId :=
    if n = 0 then .package else if n < 8 then .die (BitVec.ofNat 2 (n - 1)) else if n < 128 then .cluster (n - 8)
    else .deque (BitVec.ofNat 10 (n - 128))
  (s.unitCores p q).mapM fun c => if (s.coreAt c).idle then none else some (seqKey c)

/-- Releasers of a tier page: the sequencers of the Paddock, and its commands that wait to bring pages in. -/
def State.pageKeys (s : State) (p : Paddock) : Option (List AgentKey) :=
  let cs := (s.liveCores.map (·.2)).filter fun c => p.desc.ownsCore c && !(s.coreAt c).idle
  if p.records.any fun r => r.state == .queued then none
  else some (cs.flatMap fun c => seqKey c :: (if (s.coreAt c).bte.any fun k => pktOp k.packet == 0x42 then [boxKey c .bte] else []))

/-- Releasers of a register that awaits a result: the command or the configuration whose token it is. -/
def State.tokenKeys (s : State) (c : CoreNum) (r : Reg) : Option (List AgentKey) :=
  let k := s.coreAt c
  let o := (k.task.map (·.owner)).getD { pdk := 0, name := noTask, run := 0 }
  let cmd := (s.commandsOf c).find? fun x => x.2.tok == r && x.2.owner == o
  let ended := k.fabric.egress.any fun x => x.finished.any fun f => f.cmd.tok == r && f.cmd.owner == o
  let cfg := k.fabric.config.any fun g => g.tok == r && g.owner == o
  let launch := (s.paddocks.flatMap (·.groups)).find? fun g =>
    match g.sink with | .token d x => d == c && x.tok == r && x.owner == o | .message _ | .none => false
  match cmd, launch with
  | some x, _ => some [boxKey c x.1]
  | none, some g => some [launchKey c g.number]
  | none, none => if ended || cfg then some (k.configKeys c) else none

/-- Releasers of what a fence covers: it is blocked only through suspended commands. -/
def State.fenceKeys (s : State) (c : CoreNum) : Option (List AgentKey) :=
  let k := s.coreAt c
  let ks := k.suspended.map fun x => boxKey c x.box
  if k.underWay || ks.isEmpty || (s.shadows.any fun x => x.core == c) then none else some ks

/-- What the sequencer of a core waits on. -/
def State.seqWait (s : State) (p : Paddock) (c : CoreNum) : List WaitFor :=
  let k := s.coreAt c
  let b := k.block
  let n := b.object.toNat
  if k.idle || k.sleeping.isSome || !(decide (1 ≤ b.okind.toNat ∧ b.okind.toNat ≤ 11)) then []
  else
    let by_ := match b.okind.toNat with
      | 1 => s.poolKeys p (BitVec.ofNat 10 (n / 8)) (n % 8)
      | 2 => s.queueKeys p n
      | 3 | 7 => s.agentsOf p
      | 4 => s.fenceKeys c
      | 8 => s.pageKeys p
      | 9 => s.tokenKeys c (BitVec.ofNat 6 n)
      | 10 => some [(c, 1, n)]
      | 11 => some (k.configKeys c)
      | _ => none
    [{ key := seqKey c,
       member := { core := c, akind := 0, okind := b.okind.toNat, unit := 0, object := b.object.setWidth 64, pdk := p.num },
       by_ := by_ }]

/-- A wait of the command at an inbox. -/
def cmdWait (p : Paddock) (c : CoreNum) (b : Box) (okind : Nat) (object : Nat) (by_ : Option (List AgentKey)) : WaitFor :=
  { key := boxKey c b,
    member := { core := c, akind := 1, okind := okind, unit := boxUnit b, object := BitVec.ofNat 64 object, pdk := p.num },
    by_ := by_ }

/-- Releasers of the pending range of a command: the task that commits a join's, the command that has still to end, and
nothing blocked for one that publishes by itself. -/
def State.rangeKeys (s : State) (c : CoreNum) (cmd : Nat) : Option (List AgentKey) :=
  match s.shadows.find? fun x => x.core == c && x.cmd == cmd with
  | some x => if x.isJoin && s.runsOn c x.owner then some [seqKey c] else none
  | none => ((s.commandsOf c).find? fun k => k.2.id == cmd).map fun k => [boxKey c k.1]

/-- The wait of a command that its core's pending ranges hold (11 R220). -/
def State.rangeWait (s : State) (p : Paddock) (c : CoreNum) (b : Box) (k : Cmd) : List WaitFor :=
  let f := s.focus c
  let entry (by_ : Option (List AgentKey)) : List WaitFor :=
    let w := cmdWait p c b (1 + Config.pendingWait.1 % 11) 0 by_
    [{ w with member := { w.member with object := Config.pendingWait.2 } }]
  match k.hold with
  | .no => []
  | .full =>
    if f.me.ranges.length < Config.maxPendingRanges then []
    else entry ((f.me.ranges.mapM fun (r : PendRange) => s.rangeKeys c r.cmd).map List.flatten)
  | .ranges xs => match f.holders k xs with | [] => [] | n :: _ => entry (s.rangeKeys c n)

/-- The waits of the commands at the heads of a core's inboxes on its pending ranges. -/
def State.inboxWaits (s : State) (p : Paddock) (c : CoreNum) : List WaitFor :=
  allBoxes.flatMap fun b => match ((s.coreAt c).inbox b).head? with | some k => s.rangeWait p c b k | none => []

/-- The wait of a COPY whose follow-on finds the join inbox full. -/
def State.followWaits (s : State) (p : Paddock) (c : CoreNum) : List WaitFor :=
  if (s.coreAt c).join.inbox.length < boxCapacity .join then []
  else (s.shadows.filter fun x => x.core == c && x.followOn.isSome && x.runs.isEmpty).map fun _ =>
    cmdWait p c .bte 10 (boxUnit .join) (some [boxKey c .join])

/-- The waits on task groups: of each LAUNCH on its own group, and of one that finds as many groups as there may be on the
group that was formed first. -/
def State.groupWaits (s : State) (p : Paddock) (c : CoreNum) : List WaitFor :=
  let own := p.groups.filterMap fun g =>
    match g.sink with
    | .token d _ =>
      if d = c then some { cmdWait p c .ostler 6 g.number.toNat (p.groupKeys g) with key := launchKey c g.number } else none
    | .message _ | .none => none
  let full := match p.groups.head?, (s.coreAt c).ostler with
    | some g, _ :: _ =>
      if p.groupsFull then [cmdWait p c .ostler 6 g.number.toNat ((p.groups.mapM p.groupKeys).map List.flatten)] else []
    | _, _ => []
  own ++ full

/-- What delivers data to an input of a source: its element, the command at its port, or, with no command there, the
sequencer that could issue one. -/
def Core.producers (k : Core) (c : CoreNum) (src : Src) : Option (List AgentKey) :=
  match src with
  | .elem i _ => some [elemKey c i]
  | .ingress p =>
    let x := getAt k.fabric.ingress p Port.reset
    if x.run.isSome then some [boxKey c (.ingress (BitVec.ofNat 4 p))]
    else if x.queue.isEmpty then some [seqKey c] else none
  | .none => some []

/-- What takes data at an egress port: the command there, or the sequencer that could issue one. -/
def Core.takers (k : Core) (c : CoreNum) (p : Nat) : Option (List AgentKey) :=
  let x := getAt k.fabric.egress p Port.reset
  match x.run with
  | some r => some [if r.target = .join then boxKey c .join else boxKey c (.egress (BitVec.ofNat 4 p))]
  | none => if x.queue.isEmpty then some [seqKey c] else none

/-- The first channel from a source that has no room: the OBJECT of R81 and its releasers. -/
def Env.fullChannel (v : Env) (k : Core) (src : Src) : Option (Nat × Option (List AgentKey)) :=
  let g := v.cfg.image
  let c := v.core
  let full := (g.consumers src).find? fun x =>
    match v.cfg.elem? x.1 with
    | some e => !hasRoom (getAt e.fifos x.2.1 []) (g.capacity src x.2.2.window) (g.delay src 0 (posOf x.1)).1
    | none => false
  match full with
  | some x => some (x.1 + 256 * x.2.1, some [elemKey c x.1])
  | none => ((g.egressOf src).find? fun p =>
      match getAt g.egress p none with
      | some d => !hasRoom (getAt v.egress p Port.reset).slots (g.capacity src d.window) (g.delay src 0 (egressPos p)).1
      | none => false).map fun p => (0x80 + p, k.takers c p)

/-- What the port commands of a core wait on. -/
def State.portWaits (s : State) (p : Paddock) (c : CoreNum) (v : Env) : List WaitFor :=
  let k := s.coreAt c
  let ins := (upTo 16).flatMap fun q =>
    let b : Box := .ingress (BitVec.ofNat 4 q)
    match portRun k.fabric.ingress q with
    | none => []
    | some r =>
      match r.tier with
      | some va => [cmdWait p c b 8 va.toNat (s.pageKeys p)]
      | none => match v.fullChannel k (.ingress q) with | some (o, by_) => [cmdWait p c b 5 o by_] | none => []
  let outs := (upTo 16).flatMap fun q =>
    let x := getAt k.fabric.egress q Port.reset
    match x.run, getAt v.cfg.image.egress q none with
    | some r, some d =>
      let b : Box := if r.target = .join then .join else .egress (BitVec.ofNat 4 q)
      match r.tier with
      | some va => [cmdWait p c b 8 va.toNat (s.pageKeys p)]
      | none => if x.slots.isEmpty then [cmdWait p c b 5 (0x80 + q) (some [elemKey c d.src])] else []
    | _, _ => []
  ins ++ outs

/-- What the commands of a core that have left its ports wait on: those suspended, those held at their inboxes, MCASTs,
LAUNCHes and the COPYs with a follow-on. -/
def State.heldWaits (s : State) (p : Paddock) (c : CoreNum) : List WaitFor :=
  ((s.coreAt c).suspended.map fun x => cmdWait p c x.box 8 x.va.toNat (s.pageKeys p))
    ++ s.inboxWaits p c ++ s.followWaits p c ++ s.groupWaits p c
    ++ (s.mcasts.filter fun m => m.core == c).flatMap fun m =>
      match m.tier with
      | some va => [cmdWait p c .bte 8 va.toNat (s.pageKeys p)]
      | none =>
      match findIx (fun i g => g.isNone && bit m.mask i && !bit m.failed i) m.granted with
      | some i =>
        let home := getAt (clusterCores c) i c
        [cmdWait p c .bte 1 (home.toNat * 8 + m.part) (s.poolKeys p home m.part)]
      | none => []

/-- The input on which an element that lacks an operand waits, and what may bring it: nothing does for inputs that hold a
marker and data. -/
def Env.operandWait (v : Env) (k : Core) (e : ElemState) : Nat × Option (List AgentKey) :=
  let c := v.core
  let self := e.desc.index
  let at_ (i : Nat) : Nat := self + 256 * i
  match e.desc.uses.find? fun i => (v.head e i).isNone with
  | some i =>
    match e.desc.ins[i]? with
    | some d => (at_ i, if (getAt e.fifos i []).isEmpty then k.producers c d.src else none)
    | none => (at_ i, none)
  | none =>
    if e.desc.uses.isEmpty then
      match e.desc.bodySource, (v.cfg.image.consumers (e.src 0)).head? with
      | some j, _ => (at_ 0, some [elemKey c j])
      | none, some x => (x.1 + 256 * x.2.1, some [elemKey c x.1])
      | none, none => (at_ 0, none)
    else
      match e.desc.pred with
      | some j => (at_ 0, some [elemKey c j])
      | none => (at_ 0, some [elemKey c self])

/-- What an element waits on, when it stalls. -/
def State.elemWait (s : State) (p : Paddock) (v : Env) (k : Core) (xs : List Signal) (e : ElemState) : List WaitFor :=
  let c := v.core
  let entry (okind object : Nat) (by_ : Option (List AgentKey)) : List WaitFor :=
    [{ key := elemKey c e.desc.index,
       member := { core := c, akind := 2, okind := okind, unit := e.desc.index, object := BitVec.ofNat 64 object, pdk := p.num },
       by_ := by_ }]
  match e.waitTier with
  | some va => entry 8 va.toNat (s.pageKeys p)
  | none =>
    match ((s.focus c).reactElem v e (e.desc.seen 0 xs)).2.how with
    | .allocw => entry 1 (c.toNat * 8 + (e.p 2).toNat) (s.poolKeys p c (e.p 2).toNat)
    | .noopnd => let (o, by_) := v.operandWait k e; entry 5 o by_
    | .nospace =>
      match (upTo 4).findSome? fun o => v.fullChannel k (e.src o) with
      | some (o, by_) => entry 5 o by_
      | none => []
    | _ => []

/-- Every blocked agent of a core. -/
def State.coreWaits (s : State) (c : CoreNum) : List WaitFor :=
  let k := s.coreAt c
  match s.paddockOf c with
  | none => []
  | some p =>
    let own := s.seqWait p c ++ s.heldWaits p c
    match k.fabric.config, k.fabric.drain with
    | some g, none =>
      let v : Env := { cfg := g, egress := k.fabric.egress, core := c, clk := s.clk }
      let xs := v.resolve 0
      own ++ s.portWaits p c v ++ g.elems.flatMap (s.elemWait p v k xs)
    | _, _ => own

/-! ## Closed sets (04 R80) -/

/-- The waits whose releasers are all among some keys. -/
def WaitFor.within (w : WaitFor) (ks : List AgentKey) : Bool :=
  match w.by_ with | some bs => bs.all ks.contains | none => false

/-- The greatest closed set among some waits; the first argument bounds the search. -/
def closedSet : Nat → List WaitFor → List WaitFor
  | 0, ws => ws
  | n + 1, ws =>
    let ks := ws.map (·.key)
    let rest := ws.filter (·.within ks)
    if rest.length = ws.length then ws else closedSet n rest

/-- The keys reached from some keys through releasers; the first argument bounds the search. -/
def reached (ws : List WaitFor) : Nat → List AgentKey → List AgentKey
  | 0, ks => ks
  | n + 1, ks =>
    let more := (ws.filter fun w => ks.contains w.key).flatMap fun w => (w.by_.getD []).filter fun b => !ks.contains b
    if more.isEmpty then ks else reached ws n (ks ++ more.eraseDups)

/-- The order of members in a report. -/
def Member.rank (m : Member) : Nat := m.core.toNat * 2 ^ 16 + m.akind * 2 ^ 8 + m.unit

/-- Members in ascending order, one for each agent. -/
def sortMembers (ms : List Member) : List Member :=
  (ms.foldl (fun (acc : List (Nat × Member)) m => if (acc.any fun x => x.1 == m.rank) then acc else insertAt acc m.rank m) []).map
    (·.2)

/-- The closed sets that contain no smaller one (notes/assumptions/33.md). -/
def leastSets (ws : List WaitFor) : List (List Member) :=
  let from_ (w : WaitFor) : List AgentKey := reached ws ws.length [w.key]
  let least := ws.filter fun w => (from_ w).all fun k => (reached ws ws.length [k]).contains w.key
  (least.map fun w => sortMembers ((ws.filter fun x => (from_ w).contains x.key).map (·.member))).eraseDups

/-- The wait-for sets of the package. -/
def State.waitSets (s : State) : List (List Member) :=
  let ws := s.liveCores.flatMap fun e => s.coreWaits e.2
  leastSets (closedSet ws.length ws)

/-! ## The report (04 R81) -/

/-- An entry of a report, as two words. -/
def Member.words (m : Member) : List Word :=
  [BitVec.ofNat 64 (m.core.toNat + m.akind * 2 ^ 16 + m.okind * 2 ^ 24 + m.unit * 2 ^ 32), m.object]

/-- The words of a report, its header first. -/
def reportWords (clk : Nat) (ms : List Member) : List Word :=
  let n := ms.length
  [BitVec.ofNat 64 (n + (decide (255 < n)).toNat * 2 ^ 32), BitVec.ofNat 64 clk] ++ (ms.take 255).flatMap (·.words)

/-- Whether every member is an element of one configuration. -/
def inOneFabric (ms : List Member) : Bool :=
  match ms with | m :: _ => ms.all fun x => x.akind == 2 && x.core == m.core | [] => false

/-- A set declared: its report written on the die of its lowest member, and the trap raised for its Paddock. -/
def State.declare (s : State) (ms : List Member) : State :=
  match ms with
  | [] => s
  | m :: _ =>
    let d := dieOf m.core
    (s.modCtrl m.pdk d fun k => { k with report := reportWords s.clk ms }).raiseDetached m.pdk
      { code := if inOneFabric ms then .fabricDeadlock else .deadlock, val0 := d.setWidth 64, val1 := BitVec.ofNat 64 ms.length }

/-- DEADLOCK_SAMPLE: at each hub clk that is a multiple of 2^15 the detector samples, and declares the sets that it found
at the sample before as well and has not reported. -/
def execDeadlockSample (s : State) : Out :=
  .next
    (if s.clk % 2 ^ 15 ≠ 0 ∨ s.hub.sampledAt = some s.clk then s
     else
       let now := s.waitSets
       let before := if s.hub.sampledAt.any fun t => t + 2 ^ 15 == s.clk then s.hub.lastSample else []
       let fresh := now.filter fun x => before.contains x && !s.hub.reported.contains x
       let old := now.filter s.hub.reported.contains
       let s : State := { s with
         hub := { s.hub with sampledAt := some s.clk, lastSample := now, reported := old ++ fresh } }
       fresh.foldl State.declare s)

end Sys2Proof.Machine
end

