-- ==== Sys2Proof/Machine/Frames.lean ====
section
/-!
DEFINITION. Frames of host messages (02 R22 to R25): the reasons to discard a frame, RESPONSE, and the access that MEMRD and
MEMWR make (02 R30).
-/
namespace Sys2Proof.Machine

/-! ## Types (Table HST-2) -/

/-- TYPE of LAUNCH. -/
def typeLaunch : Byte := 0x01
/-- TYPE of MEMRD. -/
def typeMemrd : Byte := 0x02
/-- TYPE of MEMWR. -/
def typeMemwr : Byte := 0x03
/-- TYPE of PDCFG. -/
def typePdcfg : Byte := 0x04
/-- TYPE of RESET. -/
def typeReset : Byte := 0x05
/-- TYPE of QUERY. -/
def typeQuery : Byte := 0x06
/-- TYPE of SYSCFG. -/
def typeSyscfg : Byte := 0x07
/-- TYPE of ATTEST. -/
def typeAttest : Byte := 0x08

/-- LEN of a type with its payload; none for an unassigned type. -/
def lenOf (type : Byte) (payload : List Byte) : Option Nat :=
  match type.toNat with
  | 1 => some 256
  | 2 => some 16
  | 3 => some (16 + round16 (natAt payload 8 4))
  | 4 => some 512
  | 5 | 6 | 7 => some 16
  | 8 => some 32
  | _ => none

/-- Whether a frame is discarded (02 R23). -/
def frameBad (type : Byte) (f : Frame) (expect : BitVec 16) : Bool :=
  f.check != frameCheck type f || f.seq != expect || decide (4112 < f.len.toNat) || f.len.toNat != f.payload.length
    || (lenOf type f.payload).any (· != f.len.toNat) || field f.flags 1 7 != 0 || f.reserved != 0

/-! ## Answers -/

/-- What a message comes to: STATUS, code and data. -/
structure Reply where
  status : HStatus
  code : Byte
  data : List Byte
  deriving DecidableEq, Repr

/-- Performed, with no data. -/
def Reply.ok : Reply := { status := .ok, code := 0, data := [] }
/-- Performed, with data. -/
def Reply.with (d : List Byte) : Reply := { Reply.ok with data := d }
/-- Refused with a status. -/
def Reply.refuse (st : HStatus) : Reply := { Reply.ok with status := st }
/-- The access faulted. -/
def Reply.fault (c : Code) : Reply := { Reply.ok with status := .fault, code := c.toByte }

/-- The payload of a RESPONSE (02 R25). -/
def Reply.payload (r : Reply) : List Byte := [r.status.toByte, r.code, 0, 0, 0, 0, 0, 0] ++ r.data

/-- A message answered; a type that uses PDK is answered with the events of its Paddock (02 R29). -/
def State.respond (s : State) (type : Byte) (f : Frame) (r : Reply) : State :=
  let subject := (natAt f.payload 0 1)
  let p : Option PdkNum :=
    match type.toNat with
    | 1 | 4 | 5 => some f.pdk
    | 2 | 3 => if bit f.flags 0 then none else some f.pdk
    | 6 => if subject = 2 then some f.pdk else none
    | _ => none
  s.post (laneOf p) { type := .response, tag := f.tag, pdk := p, payload := r.payload, record := none }

/-- A FAULT event that stands in the place of a RESPONSE (02 R23 to R25). -/
def State.refuseFrame (s : State) (f : Frame) (code : Code) (st : HStatus) (val0 val1 : Word) : State :=
  s.report .fault none false
    { FaultRecord.blank s with code := code.toByte, status := st.toByte, val0 := val0, val1 := val1, tag := f.tag }

/-! ## Host memory access (02 R30) -/

/-- The address, byte count and data of an access descriptor. -/
def accAddr (f : Frame) : Word := descWord f.payload 0
/-- The byte count. -/
def accCount (f : Frame) : Nat := natAt f.payload 8 4

/-- Whether the descriptor may be performed at all. -/
def accOk (f : Frame) : Bool :=
  let n := accCount f
  decide (1 ≤ n ∧ n ≤ 4096) && natAt f.payload 12 4 == 0 && decide ((accAddr f).toNat % 2 ^ 16 + n ≤ 2 ^ 16)

/-- The targets of a host access, piece by piece of 4 KiB, or the code that ends it. -/
def State.hostSpan (s : State) (pdk : PdkNum) (va n : Nat) (wr : Bool) : Except Code (List (Target × Nat)) :=
  let a : Acc := if wr then Acc.write .paddock else Acc.read .paddock
  (upTo (pieces va n)).mapM fun (k : Nat) =>
    let lo := if k = 0 then va else (va / 4096 + k) * 4096
    let hi := min (va + n) ((va / 4096 + k + 1) * 4096)
    match (s.translate none pdk (BitVec.ofNat 64 lo) a).2 with
    | .error f => .error f.code
    | .ok t => match s.accessError none t (hi - lo) wr with | some (c, _) => .error c | none => .ok (t, hi - lo)

/-- Whether a PHYS address names this device. -/
def State.physHere (s : State) (a : Word) : Bool :=
  (field a 44 20 : BitVec 20) == s.hub.devid.getD 0

/-- Whether a local physical range lies in HBM or in the tier window. -/
def physOk (a n : Nat) : Bool := decide (a + n ≤ hbmEnd) || decide (tierStart ≤ a ∧ a + n ≤ tierEnd)

/-- Bytes that a host read brings back, and the state after it. -/
def State.readSpan (s : State) : List (Target × Nat) → State × List Byte
  | [] => (s, [])
  | (t, n) :: rest =>
    let bs := s.readTarget t n
    let (s, more) := (s.afterRead t).readSpan rest
    (s, bs ++ more)

/-- Bytes that a host write stores. -/
def State.writeSpan (s : State) : List (Target × Nat) → List Byte → State
  | [], _ => s
  | (t, n) :: rest, bs => (s.perform t (bs.take n)).writeSpan rest (bs.drop n)

/-- First address of the Loft windows (03 Table ADR-2). -/
def loftWindows : Nat := 0x0C0000000000

/-- A PHYS access to a Loft window: the tile of a slot, as through the aperture (03 R46, R47; notes/assumptions/37.md). -/
def State.physLoft (s : State) (a n : Nat) : Except Code (List (Target × Nat)) :=
  let w : Word := BitVec.ofNat 64 a
  let core : CoreNum := field w 30 10
  let slot : BitVec 9 := field w 21 9
  let off := a % 2 ^ 21
  if !s.enabledCore core then .error .xlate
  else
    match (s.loftAt core).tile? slot.toNat with
    | none => .error .tileStale
    | some t => if off + n ≤ 4096 * t.granules.length then .ok [(.loft core slot off, n)] else .error .tileSize

/-- The pieces of a PHYS access: under no key, as memory holds the bytes; registers take no such access (03 R48). -/
def State.physSpan (s : State) (a n : Nat) (wr : Bool) : Except Code (List (Target × Nat)) :=
  if isMmio a then .error .perm
  else if loftWindows ≤ a ∧ a < loftWindows + 2 ^ 40 then s.physLoft a n
  else if !physOk a n then .error .xlate
  else if s.tierDown a then .error .xlate
  else
    match s.accessError none (.mem a none .wb false) n wr with
    | some (c, _) => .error c
    | none => .ok [(.mem a none .wb false, n)]

/-- The pieces of the access that a frame asks for, or its refusal. -/
def State.hostAccess (s : State) (f : Frame) (wr : Bool) : Except Reply (List (Target × Nat)) :=
  if !accOk f then .error (.refuse .badField)
  else
    let r :=
      if bit f.flags 0 then
        if s.physHere (accAddr f) then some (s.physSpan ((accAddr f).toNat % 2 ^ 44) (accCount f) wr) else none
      else some (s.hostSpan f.pdk (accAddr f).toNat (accCount f) wr)
    match r with
    | none => .error (.refuse .badField)
    | some (.error c) => .error (.fault c)
    | some (.ok l) => .ok l

/-- Whether a message names a Paddock that does not exist, where its type uses one. -/
def State.noPaddock (s : State) (f : Frame) : Bool := (s.paddock? f.pdk).isNone

/-- What refuses a LAUNCH or a MEMRD while its Paddock is being stopped (02 R35). -/
def State.stopRefusal (s : State) (pdk : PdkNum) : Option HStatus :=
  (s.paddock? pdk).bind fun p => p.stopping.map fun k => match k with | .destroy => .noPaddock | .reset => .aborted

/-- MEMRD performed. -/
def State.performMemrd (s : State) (f : Frame) : State × Reply :=
  if !bit f.flags 0 && s.noPaddock f then (s, .refuse .noPaddock)
  else if !bit f.flags 0 && (s.stopRefusal f.pdk).isSome then (s, .refuse ((s.stopRefusal f.pdk).getD .aborted))
  else
    match s.hostAccess f false with
    | .error r => (s, r)
    | .ok l => let (s, bs) := s.readSpan l; (s, .with bs)

/-- MEMWR performed: all of the write in one step, or none of it. -/
def State.performMemwr (s : State) (f : Frame) : State × Reply :=
  if !bit f.flags 0 && s.noPaddock f then (s, .refuse .noPaddock)
  else
    match s.hostAccess f true with
    | .error r => (s, r)
    | .ok l => (s.writeSpan l ((f.payload.drop 16).take (accCount f)), .ok)

end Sys2Proof.Machine
end

