-- ==== Sys2Proof/Machine/PaddockOps.lean ====
section
/-!
DEFINITION. Paddocks as the host forms and ends them: PDCFG CREATE, MODIFY, DESTROY and KEYLOAD, and RESET of scope 1
(02 R31 to R36).
-/
namespace Sys2Proof.Machine

/-! ## The descriptor (02 Table HST-6) -/

/-- The fields of a descriptor. -/
def descOf (b : List Byte) : PdkDesc :=
  let at_ (off n : Nat) : Nat := natAt b off n
  let w2 : Byte := BitVec.ofNat 8 (at_ 2 1)
  let w3 : Byte := BitVec.ofNat 8 (at_ 3 1)
  { action := BitVec.ofNat 8 (at_ 0 1), maxReplay := field w2 0 4, replayFab := bit w2 4, replayCorral := bit w2 5
    replayLoft := bit w2 6, abandonTrap := bit w3 0, mirror := bit w3 1, clusters := BitVec.ofNat 80 (at_ 8 10)
    ptroot := descWord b 24, stvec := descWord b 32, utvec := descWord b 40, keymask := descWord b 48
    draw := (upTo 4).map fun k => at_ (56 + 2 * k) 2
    parts := (upTo 8).map fun k => (at_ (64 + 8 * k) 2, at_ (66 + 8 * k) 2)
    hbm := (upTo 8).map fun k => { base := at_ (128 + 16 * k) 8, limit := at_ (136 + 16 * k) 8 }
    qbound := (upTo 4).map fun k => at_ (256 + 4 * k) 4 }

/-- The 512 bytes of a descriptor, [511:272] zero (02 Table HST-8, R42). -/
def PdkDesc.bytes (d : PdkDesc) (n : PdkNum) : List Byte :=
  let w2 := d.maxReplay.toNat + d.replayFab.toNat * 16 + d.replayCorral.toNat * 32 + d.replayLoft.toNat * 64
  let w3 := d.abandonTrap.toNat + d.mirror.toNat * 2
  [d.action, n.setWidth 8, BitVec.ofNat 8 w2, BitVec.ofNat 8 w3, 0, 0, 0, 0]
    ++ bytesOf d.clusters.toNat 10 ++ List.replicate 6 0 ++ bytesOf d.ptroot.toNat 8 ++ bytesOf d.stvec.toNat 8
    ++ bytesOf d.utvec.toNat 8 ++ bytesOf d.keymask.toNat 8 ++ d.draw.flatMap (bytesOf · 2)
    ++ d.parts.flatMap (fun x => bytesOf x.1 2 ++ bytesOf x.2 2 ++ [0, 0, 0, 0])
    ++ d.hbm.flatMap (fun r => bytesOf r.base 8 ++ bytesOf r.limit 8) ++ d.qbound.flatMap (bytesOf · 4)
    ++ List.replicate 240 0

/-- Whether `n` bytes from an offset are zero. -/
def zeroBytes (b : List Byte) (off n : Nat) : Bool := natAt b off n == 0

/-- Whether the reserved fields of a CREATE, MODIFY or DESTROY descriptor are zero. -/
def descReservedOk (b : List Byte) : Bool :=
  natAt b 2 1 / 128 == 0 && natAt b 3 1 / 4 == 0 && zeroBytes b 4 4 && zeroBytes b 18 6
    && ((upTo 8).all fun k => zeroBytes b (68 + 8 * k) 4) && zeroBytes b 272 240

/-- Whether every field of a descriptor is in range (02 R32, BAD_FIELD). -/
def State.descFieldsOk (s : State) (d : PdkDesc) : Bool :=
  (d.clusters &&& s.chip.fused) == 0
    && (d.parts.all fun x => decide (x.1 ≤ x.2 ∧ x.2 ≤ 512)) && decide ((d.parts.map (·.1)).sum ≤ 512)
    && (d.qbound.all fun q => decide (1 ≤ q ∧ q ≤ 65536)) && d.ptroot.toNat % 4096 == 0
    && d.hbm.all fun r =>
      r.base % 2 ^ 21 == 0 && r.limit % 2 ^ 21 == 0 && decide (r.base ≤ r.limit ∧ r.limit ≤ hbmEnd)

/-- Whether two ranges overlap; one whose base equals its limit is unused. -/
def HbmRange.meets (a b : HbmRange) : Bool :=
  decide (a.base < a.limit ∧ b.base < b.limit ∧ a.base < b.limit ∧ b.base < a.limit)

/-- The sum of the shares of every Paddock but one on a die. -/
def State.sharesBut (s : State) (n : Option PdkNum) (d : Nat) : Nat :=
  ((s.paddocks.filter fun p => n.all (· != p.num)).map fun p => getAt p.desc.draw d 0).sum

/-- Whether the shares of a descriptor fit beside the others; a share that does not rise above `old` is not tested. -/
def State.sharesOk (s : State) (n : PdkNum) (old : List Nat) (d : PdkDesc) : Bool :=
  (upTo 4).all fun k =>
    let x := getAt d.draw k 0
    let die := s.die (BitVec.ofNat 2 k)
    decide (x ≤ getAt old k 0 ∨ s.sharesBut (some n) k + x + 7 * die.jtok ≤ die.pool)

/-- Whether a descriptor clashes with no other Paddock in clusters, memory and key slots. -/
def State.descApart (s : State) (n : PdkNum) (d : PdkDesc) : Bool :=
  s.paddocks.all fun p =>
    p.num == n ||
      ((p.desc.clusters &&& d.clusters) == 0 && (p.desc.keymask &&& d.keymask) == 0
        && !(p.desc.hbm.any fun a => d.hbm.any fun b => a.meets b))

/-! ## Forming and changing (02 R32, R33) -/

/-- A control page at its reset values (03 Tables ADR-6, ADR-7; 04 Table SCH-5; 05 Table COR-4). -/
def CtrlPage.reset : CtrlPage :=
  { tlbinva := 0, busy := false, doneCount := 0, agingA := 20, devD := 0, droopK := 4, pwait := 1024, preen := true,
    pkgw := 1, diew := 1, clw := 1, drainwin := 16, holdAction := 0, holdL0 := false, holdAddr := 0, holdResult := 0,
    holdBusy := false, holdDone := false, holdName := 0, throttle := 0, report := [] }

/-- A Paddock with empty queues. -/
def Paddock.fresh (n : PdkNum) (d : PdkDesc) : Paddock :=
  { num := n, desc := d, ctrl := List.replicate 4 CtrlPage.reset, records := [], groups := [], pointers := [], order := 0 }

/-- STVEC of every core of a Paddock written. -/
def State.setStvec (s : State) (p : Paddock) : State :=
  (s.coresOf p).foldl (fun s c => s.modCore c fun k => { k with seq := { k.seq with stvec := p.desc.stvec } }) s

/-- CREATE; one for whose queues hub firmware finds no memory is a conflict (04 R71). -/
def State.performCreate (s : State) (f : Frame) : State × Reply :=
  let d := descOf f.payload
  if !descReservedOk f.payload || !s.descFieldsOk d then (s, .refuse .badField)
  else if !s.noPaddock f || !s.descApart f.pdk d || !s.sharesOk f.pdk [] d || !s.hub.queueMemory then (s, .refuse .conflict)
  else
    let p := Paddock.fresh f.pdk d
    (({ s with paddocks := s.paddocks ++ [p] } : State).setStvec p, .ok)

/-- Every TLB entry of a Paddock dropped on every die. -/
def State.dropAllTlb (s : State) (n : PdkNum) : State :=
  (upTo 4).foldl (fun s k => s.dropTlb n (BitVec.ofNat 2 k) 0 (2 ^ 64)) s

/-- A MODIFY that is accepted takes effect. -/
def State.applyModify (s : State) (p : Paddock) (d : PdkDesc) : State :=
  let s := s.modPaddock p.num fun x => { x with desc := d }
  let s := if d.stvec = p.desc.stvec then s else s.setStvec { p with desc := d }
  if d.ptroot = p.desc.ptroot then s else s.dropAllTlb p.num

/-- MODIFY. -/
def State.performModify (s : State) (f : Frame) : State × Reply :=
  match s.paddock? f.pdk with
  | none => (s, .refuse .noPaddock)
  | some p =>
    let d := descOf f.payload
    if !descReservedOk f.payload || !s.descFieldsOk d || d.clusters != p.desc.clusters || d.hbm != p.desc.hbm then
      (s, .refuse .badField)
    else if !s.descApart f.pdk d || !s.sharesOk f.pdk p.desc.draw d then (s, .refuse .conflict)
    else (s.applyModify p d, .ok)

/-! ## Stopping (02 R35) -/

/-- The Loft of a core of a stopped Paddock: every tile released without counting down, and its bytes zero. -/
def Loft.stopped (l : Loft) : Loft :=
  { l.releaseWhere fun _ => true with
    bytes := [], written := [], incoming := [], fifos := List.replicate 8 [], granted := [] }

/-- A core of a stopped Paddock: idle, its work gone. Registers of the sequencer, of the sensor, of the limiter and of
fabric faults keep their values (notes/assumptions/38.md). -/
def Core.stopped (c : Core) : Core :=
  { Core.reset with
    seq := c.seq, stall := c.stall, sensor := c.sensor, loft := c.loft.stopped
    fabric := { Fabric.reset with
      limT := c.fabric.limT, limW := c.fabric.limW, limNext := c.fabric.limNext, ffword := c.fabric.ffword
      ffval0 := c.fabric.ffval0, ffval1 := c.fabric.ffval1, ffcmd := c.fabric.ffcmd } }

/-- The work that the cores of a Paddock have under way outside themselves dropped. -/
def State.dropTraffic (s : State) (d : PdkDesc) : State :=
  { s with
    shadows := s.shadows.filter fun x => !d.ownsCore x.core
    mcasts := s.mcasts.filter fun x => !d.ownsCore x.core
    tileMsgs := s.tileMsgs.filter fun x => !d.ownsCore x.reader && !d.ownsCore x.home
    hub := { s.hub with remoteWaits := s.hub.remoteWaits.filter fun x => !d.ownsCore x.core } }

/-- The cores of a Paddock stopped. -/
def State.stopCores (s : State) (d : PdkDesc) : State :=
  (s.liveCores.filter fun e => d.ownsCore e.2).foldl (fun s e => (s.releasePower e.2).modCore e.2 Core.stopped) s

/-- Whether an address lies in some range of a list. -/
def inRanges (l : List HbmRange) (a : Nat) : Bool := l.any fun r => decide (r.base ≤ a ∧ a < r.limit)

/-- HBM ranges and key slots of a Paddock zeroed, full bits of the ranges clear. -/
def State.zeroPaddock (s : State) (d : PdkDesc) : State :=
  { s with
    mem := s.mem.filter fun c => !inRanges d.hbm c.1
    encBy := s.encBy.filter fun e => !inRanges d.hbm e.1
    badWords := s.badWords.filter fun w => !inRanges d.hbm (32 * w)
    fullBits := s.fullBits.filter fun a => !inRanges d.hbm a
    hub := { s.hub with keys := s.hub.keys.filter fun k => !bit d.keymask k.1.toNat } }

/-- A COMPLETION with STATUS ABORTED for a group that a host message launched. -/
def State.abortLaunch (s : State) (pdk : PdkNum) (g : Group) : State :=
  match g.sink with
  | .message tag =>
    s.post (laneOf (some pdk))
      { type := .completion, tag := tag, pdk := some pdk, payload := ({ g with aborted := true } : Group).payload pdk tag s.clk,
        record := none }
  | .token _ _ | .none => s

/-- Steps 1 to 6 of R35: the Paddock runs nothing, holds no tile, and its unfinished launches are reported. -/
def State.beginStop (s : State) (p : Paddock) (k : StopKind) : State :=
  let s := (s.stopCores p.desc).dropTraffic p.desc
  let s := p.groups.foldl (fun s g => s.abortLaunch p.num g) s
  s.modPaddock p.num fun x => { x with records := [], groups := [], pointers := [], stopping := some k }

/-- Step 7 of R35, and what follows it: DESTROY frees the Paddock, RESET keeps its descriptor with empty queues. -/
def State.endStop (s : State) (p : Paddock) (k : StopKind) : State :=
  let s := (s.zeroPaddock p.desc).dropAllTlb p.num
  match k with
  | .destroy =>
    { s with paddocks := s.paddocks.filter fun x => x.num != p.num
             dies := s.dies.map fun d => { d with images := d.images.filter fun i => i.pdk != p.num } }
  | .reset => s.modPaddock p.num fun x => { x with stopping := none }

/-- DESTROY whose fields are good, or RESET of scope 1: the stop begins, and its answer follows when it ends, which is
at once unless stops take time (notes/assumptions/95.md). -/
def State.stopPaddock (s : State) (p : Paddock) (k : StopKind) : State × Option Reply :=
  let s := s.beginStop p k
  if s.hub.slowStops then (s, none) else (s.endStop p k, some .ok)

/-- DESTROY; no answer stands for a stop that takes time. -/
def State.performDestroy (s : State) (f : Frame) : State × Option Reply :=
  match s.paddock? f.pdk with
  | none => (s, some (.refuse .noPaddock))
  | some p => if !descReservedOk f.payload then (s, some (.refuse .badField)) else s.stopPaddock p .destroy

/-- RESET of scope 1: the descriptor stays and empty queues are formed. -/
def State.performReset (s : State) (f : Frame) : State × Option Reply :=
  if natAt f.payload 0 16 ≠ 1 then (s, some (.refuse .badField))
  else
    match s.paddock? f.pdk with
    | none => (s, some (.refuse .noPaddock))
    | some p => s.stopPaddock p .reset

/-! ## Keys (02 R34) -/

/-- Whether a KEYLOAD descriptor's reserved bytes are zero and its slot exists. -/
def keyloadOk (b : List Byte) : Bool := zeroBytes b 3 61 && zeroBytes b 448 64 && decide (natAt b 2 1 ≤ 63)

/-- KEYLOAD. -/
def State.performKeyload (s : State) (f : Frame) : State × Reply :=
  let slot : BitVec 6 := BitVec.ofNat 6 (natAt f.payload 2 1)
  match s.paddock? f.pdk with
  | none => (s, .refuse .noPaddock)
  | some p =>
    if !keyloadOk f.payload then (s, .refuse .badField)
    else if !bit p.desc.keymask slot.toNat then (s, .refuse .conflict)
    else
      match Config.rsaOaepDecrypt (sliceBytes f.payload 64 384) with
      | none => (s, .refuse .denied)
      | some k => ({ s with hub := { s.hub with keys := assocSet s.hub.keys slot k } }, .ok)

/-- A state and an answer that stands. -/
def answered (r : State × Reply) : State × Option Reply := (r.1, some r.2)

/-- PDCFG by its ACTION (02 R31). -/
def State.performPdcfg (s : State) (f : Frame) : State × Option Reply :=
  if natAt f.payload 1 1 ≠ f.pdk.toNat then (s, some (.refuse .badField))
  else
    match natAt f.payload 0 1 with
    | 1 => answered (s.performCreate f)
    | 2 => answered (s.performModify f)
    | 3 => s.performDestroy f
    | 4 => answered (s.performKeyload f)
    | _ => (s, some (.refuse .badField))

end Sys2Proof.Machine
end

