-- ==== Sys2Proof/Machine/Messages.lean ====
section
/-!
DEFINITION. What the hub does with host messages: queries, settings and attestation (02 R38 to R42), the queues of the two
lanes (02 R23 to R28), and the rows of the opcode table that are messages. What a message does is settled by its TYPE and
its payload; a row names the case in which it is usually sent.
-/
namespace Sys2Proof.Machine

/-! ## QUERY (02 R39 Table HST-8) -/

/-- Pool, sum of shares and draw admitted now of every die. -/
def State.drawBytes (s : State) : List Byte :=
  (upTo 4).flatMap fun k =>
    bytesOf (s.die (BitVec.ofNat 2 k)).pool 2 ++ bytesOf (s.sharesBut none k) 2
      ++ bytesOf (s.admitted (BitVec.ofNat 2 k) none) 2

/-- QUERY of the sensor register of a core. -/
def State.querySensor (s : State) (index : Nat) : Reply :=
  let c : CoreNum := BitVec.ofNat 10 index
  if index < 1024 ∧ s.enabledCore c then .with (bytesOf (s.coreAt c).sensor.word.toNat 8) else .refuse .badField

/-- QUERY of the descriptor of a Paddock. -/
def State.queryPaddock (s : State) (n : PdkNum) : Reply :=
  match s.paddock? n with
  | some p => .with (p.desc.bytes n)
  | none => .refuse .noPaddock

/-- QUERY of the fault log: up to 64 records, oldest first. -/
def State.queryLog (s : State) (index : Nat) : Reply :=
  if index ≤ s.mgmt.log.length then .with (((s.mgmt.log.drop index).take 64).flatMap FaultRecord.bytes)
  else .refuse .badField

/-- QUERY. -/
def State.performQuery (s : State) (f : Frame) : Reply :=
  let index := natAt f.payload 8 4
  if !zeroBytes f.payload 1 7 || !zeroBytes f.payload 12 4 then .refuse .badField
  else
    match natAt f.payload 0 1 with
    | 0 => .with s.deviceInfo
    | 1 => s.querySensor index
    | 2 => s.queryPaddock f.pdk
    | 3 => s.queryLog index
    | 4 => .with s.drawBytes
    | 5 => .with (Config.certificateChain.take 4096)
    | _ => .refuse .badField

/-! ## SYSCFG (02 R38 Table HST-7) -/

/-- Key 0x01: the device identifier, once (01 R14). -/
def State.setDevid (s : State) (v : Word) : State × Reply :=
  if 786431 < v.toNat then (s, .refuse .badField)
  else if s.hub.devid.isSome then (s, .refuse .denied)
  else ({ s with hub := { s.hub with devid := some (v.setWidth 20) } }, .ok)

/-- Key 0x02: the four die pools (01 R17). -/
def State.setPools (s : State) (v : Word) : State × Reply :=
  let pool (k : Nat) : Nat := (field v (16 * k) 16 : BitVec 16).toNat
  if 9120 < ((upTo 4).map pool).sum then (s, .refuse .badField)
  else if (upTo 4).all fun k => decide (s.sharesBut none k + 7 * (s.die (BitVec.ofNat 2 k)).jtok ≤ pool k) then
    ({ s with dies := s.dies.mapIdx fun k d => { d with pool := pool k } }, .ok)
  else (s, .refuse .conflict)

/-- Key 0x03: the warning threshold of a die (01 R18); bits of the value that Table HST-7 does not name are ignored
(notes/assumptions/78.md). -/
def State.setWarn (s : State) (v : Word) : State × Reply :=
  let t := (field v 8 8 : BitVec 8).toNat
  if 70 ≤ t ∧ t ≤ 100 then (s.modDie (field v 0 2) fun d => { d with warnAt := t }, .ok) else (s, .refuse .badField)

/-- SYSCFG. -/
def State.performSyscfg (s : State) (f : Frame) : State × Reply :=
  let v := descWord f.payload 8
  if !zeroBytes f.payload 1 7 then (s, .refuse .badField)
  else
    match natAt f.payload 0 1 with
    | 1 => s.setDevid v
    | 2 => s.setPools v
    | 3 => s.setWarn v
    | 4 => ({ s with hub := { s.hub with scrubPeriod := v } }, .ok)
    | _ => (s, .refuse .badField)

/-! ## ATTEST (02 R42) -/

/-- The descriptors of every Paddock, in Paddock order. -/
def State.descriptors (s : State) : List Byte :=
  (upTo 16).flatMap fun k =>
    match s.paddock? (BitVec.ofNat 4 k) with
    | some p => p.desc.bytes p.num
    | none => []

/-- Bytes [143:0] of the report. -/
def State.attestBody (s : State) (nonce : List Byte) : List Byte :=
  nonce ++ sha256 s.mgmt.running ++ measurementM1 ++ sha256 s.descriptors
    ++ bytesOf Config.serialNumber.toNat 8 ++ s.devidBytes ++ bytesOf Config.rollbackCounter.toNat 4

/-- ATTEST. -/
def State.performAttest (s : State) (f : Frame) : Reply :=
  let b := s.attestBody (f.payload.take 32)
  .with (b ++ bytesOf (Config.attestSignature b).toNat 384)

/-! ## LAUNCH (02 R37) -/

/-- LAUNCH performed: the state and the reply, or none while it waits for one of 256 groups to retire (04 R65). -/
def State.performLaunch (s : State) (f : Frame) : Option (State × Reply) :=
  match s.paddock? f.pdk with
  | none => some (s, .refuse .noPaddock)
  | some p =>
    if (s.stopRefusal f.pdk).isSome then some (s, .refuse ((s.stopRefusal f.pdk).getD .aborted))
    else if natAt f.payload 0 1 ≠ f.pdk.toNat ∨ (firstBad (launchChecks f.payload)).isSome then
      some (s, .refuse .badField)
    else if p.groupsFull then none
    else some (s.installGroup p f.payload (.message f.tag), .ok)

/-! ## The queues of the lanes (02 R24, R28) -/

/-- Whether the configuration step is taken: a Paddock is being stopped (02 R28, R35). -/
def State.configuring (s : State) : Bool := s.paddocks.any fun p => p.stopping.isSome

/-- A message performed, or none while it waits; one that has begun and has no answer yet keeps its place. -/
def State.performMessage (s : State) (m : QueuedMsg) : Option (State × Option Reply) :=
  let f := m.frame
  match m.type.toNat with
  | 1 => (s.performLaunch f).map answered
  | 2 => some (answered (s.performMemrd f))
  | 3 => some (answered (s.performMemwr f))
  | 4 => if s.configuring then none else some (s.performPdcfg f)
  | 5 => if s.configuring then none else some (s.performReset f)
  | 6 => some (s, some (s.performQuery f))
  | 7 => some (answered (s.performSyscfg f))
  | 8 => some (s, some (s.performAttest f))
  | _ => some (s, some (.refuse .badField))

/-- Whether a message resets the module (Table HST-2: scope 0). -/
def QueuedMsg.resetsModule (m : QueuedMsg) : Bool := m.type == typeReset && zeroBytes m.frame.payload 0 16

/-- The message at the head of a lane answered: it leaves its lane. -/
def State.answerHead (s : State) (l : Lane) (m : QueuedMsg) (r : Reply) : State :=
  let s : State := { s with hub := s.hub.modLane l fun x => { x with queue := x.queue.tail } }
  s.respond m.type m.frame r

/-- The message at the head of a lane performed and answered, or none when there is none or it waits. A RESET of the
module has no RESPONSE: the module enters step 1, and MODULE_RESET runs the sequence. -/
def State.serveHead (s : State) (l : Lane) : Option State :=
  match (s.hub.lane l).queue with
  | [] => none
  | m :: _ =>
    if m.resetsModule then some (s.dark 1)
    else
      (s.performMessage m).map fun (s, r) =>
        match r with
        | some r => s.answerHead l m r
        | none => s

/-- The heads of both lanes performed as long as one can be; `fuel` bounds the messages. -/
def State.serveFor (s : State) : Nat → State
  | 0 => s
  | fuel + 1 =>
    match (s.serveHead .lane0).or (s.serveHead .lane1) with
    | some s' => s'.serveFor fuel
    | none => s

/-- Every message that can be performed is performed. -/
def State.serveLanes (s : State) : State := s.serveFor (s.hub.lane0.queue.length + s.hub.lane1.queue.length)

/-- A frame arrives at a lane: discarded, refused, or queued and performed in its turn (02 R23 to R25). -/
def State.accept (s : State) (type : Byte) (f : Frame) : State :=
  let l := s.hub.lane f.lane
  if !l.up then s
  else
    let t : State := { s with hub := s.hub.modLane f.lane fun x => { x with expect := f.seq + 1 } }
    if frameBad type f l.expect then
      let (c, t) := t.anyCode
      t.refuseFrame f c .badFrame (l.expect.setWidth 64) (f.seq.setWidth 64)
    else if !s.hub.ready && type != typeQuery && type != typeReset then
      t.refuseFrame f .illegalCmd .notReady 0 0
    else if Config.maxLaneQueue ≤ l.queue.length then
      let (c, t) := t.anyCode
      t.refuseFrame f c .overrun 0 0
    else
      ({ t with hub := t.hub.modLane f.lane fun x =>
          { x with queue := x.queue ++ [{ type := type, frame := f }] } } : State).serveLanes

/-- A stop that takes time ends: the Paddock is zeroed, the message that asked for it is answered, and others go on (02
R35). -/
def State.finishStop (s : State) (n : PdkNum) : State :=
  match s.paddock? n with
  | none => s
  | some p =>
    match p.stopping with
    | none => s
    | some k =>
      let s := s.endStop p k
      let asked (l : Lane) : Option QueuedMsg := (s.hub.lane l).queue.head?.filter fun m =>
        (m.type == typePdcfg || m.type == typeReset) && m.frame.pdk == n
      let s := match asked .lane0, asked .lane1 with
        | some m, _ => s.answerHead .lane0 m .ok
        | none, some m => s.answerHead .lane1 m .ok
        | none, none => s
      s.serveLanes

/-! ## The rows -/

/-- LAUNCH_MESSAGE (02 R37). -/
def execLaunchMessage (f : Frame) (s : State) : Out := .next (s.accept typeLaunch f)
/-- MEMRD (02 R30). -/
def execMemrd (f : Frame) (s : State) : Out := .next (s.accept typeMemrd f)
/-- MEMWR (02 R30). -/
def execMemwr (f : Frame) (s : State) : Out := .next (s.accept typeMemwr f)
/-- CREATE (02 R32). -/
def execCreate (f : Frame) (s : State) : Out := .next (s.accept typePdcfg f)
/-- MODIFY (02 R33). -/
def execModify (f : Frame) (s : State) : Out := .next (s.accept typePdcfg f)
/-- DESTROY (02 R35). -/
def execDestroy (f : Frame) (s : State) : Out := .next (s.accept typePdcfg f)
/-- KEYLOAD (02 R34). -/
def execKeyload (f : Frame) (s : State) : Out := .next (s.accept typePdcfg f)
/-- PADDOCK_RESET (02 R35). -/
def execPaddockReset (f : Frame) (s : State) : Out := .next (s.accept typeReset f)
/-- QUERY_DEVICE_INFO (02 R39, R40). -/
def execQueryDeviceInfo (f : Frame) (s : State) : Out := .next (s.accept typeQuery f)
/-- QUERY_SENSOR (02 R39, 01 R20). -/
def execQuerySensor (f : Frame) (s : State) : Out := .next (s.accept typeQuery f)
/-- QUERY_PADDOCK (02 R39). -/
def execQueryPaddock (f : Frame) (s : State) : Out := .next (s.accept typeQuery f)
/-- QUERY_FAULT_LOG (02 R39, R43). -/
def execQueryFaultLog (f : Frame) (s : State) : Out := .next (s.accept typeQuery f)
/-- QUERY_DRAW (02 R39). -/
def execQueryDraw (f : Frame) (s : State) : Out := .next (s.accept typeQuery f)
/-- QUERY_CERTIFICATES (02 R39). -/
def execQueryCertificates (f : Frame) (s : State) : Out := .next (s.accept typeQuery f)
/-- SYSCFG_DEVID (02 R38, 01 R14). -/
def execSyscfgDevid (f : Frame) (s : State) : Out := .next (s.accept typeSyscfg f)
/-- SYSCFG_POOLS (02 R38, 01 R17). -/
def execSyscfgPools (f : Frame) (s : State) : Out := .next (s.accept typeSyscfg f)
/-- SYSCFG_WARN (02 R38, 01 R18). -/
def execSyscfgWarn (f : Frame) (s : State) : Out := .next (s.accept typeSyscfg f)
/-- SYSCFG_SCRUB (02 R38, 01 R10). -/
def execSyscfgScrub (f : Frame) (s : State) : Out := .next (s.accept typeSyscfg f)
/-- ATTEST (02 R42). -/
def execAttest (f : Frame) (s : State) : Out := .next (s.accept typeAttest f)
/-- UNASSIGNED_TYPE (02 R23). -/
def execUnassignedType (type : Byte) (f : Frame) (s : State) : Out := .next (s.accept type f)

/-- GROUP_RETIRE (04 R70): a LAUNCH message that waits for a group may then be performed (04 R65). -/
def execGroupRetire (pdk : PdkNum) (group : GroupNum) (s : State) : Out := .next ((s.groupRetire pdk group).serveLanes)

end Sys2Proof.Machine
end

