-- ==== Sys2Proof/Machine/Environment.lean ====
section
/-!
DEFINITION. What happens to the module from outside (01 R9 to R20; 02 R44): sensors, thermal limits, links, ports and
lanes that fail, and scrub.
-/
namespace Sys2Proof.Machine

/-! ## Sensors and thermal limits (01 R18, R20) -/

/-- The highest temperature in the latest samples of a die's sensors (01 R18). -/
def State.hottest (s : State) (d : DieNum) : Int :=
  ((dieCores d).filter s.enabledCore).foldl (fun m c => max m (s.coreAt c).sensor.temp.toInt) (-(2 : Int) ^ 15)

/-- Whether the hottest sensor of a die stands at or above its warning threshold. -/
def State.tooWarm (s : State) (d : DieNum) : Bool := decide ((4 * (s.die d).warnAt : Nat) ≤ s.hottest d)

/-- A sample taken: the next sample number, with the readings. -/
def Sensor.sample (x : Sensor) (r : SensorReading) : Sensor := { temp := r.temp, droop := r.droop, seq := x.seq + 1 }

/-- The sample of one core, which the management port keeps as well. -/
def State.sampleCore (s : State) (r : SensorReading) : State :=
  if s.enabledCore r.core && !(s.die (dieOf r.core)).tripped then
    let x := (s.coreAt r.core).sensor.sample r
    let s := s.modCore r.core fun c => { c with sensor := x }
    { s with mgmt := { s.mgmt with samples := assocSet s.mgmt.samples r.core x } }
  else s

/-- A die whose hottest sensor has fallen below its threshold may cross it again. -/
def State.cool (s : State) (d : DieNum) : State := if s.tooWarm d then s else s.modDie d fun x => { x with hot := false }

/-- Whether the sensors sample: step 7 of the reset sequence has started them (01 R21). -/
def State.sampling (s : State) : Bool := s.mgmt.main && decide (8 ≤ s.mgmt.step.toNat)

/-- SENSOR_SAMPLE: the cores that the environment reads are sampled. -/
def execSensorSample (readings : List SensorReading) (s : State) : Out :=
  .next
    (if s.sampling then
       (upTo 4).foldl (fun s d => s.cool (BitVec.ofNat 2 d)) (readings.foldl State.sampleCore s)
     else s)

/-- THERMAL_WARNING: the hottest sample of a die has come to stand at or above its threshold
(notes/assumptions/96.md): it is reported and sets the die's warning flag, once for each crossing. -/
def execThermalWarning (die : DieNum) (temp : BitVec 16) (s : State) : Out :=
  .next
    (if s.hub.ready && s.tooWarm die && !(s.die die).hot && temp.toInt = s.hottest die then
       let s := s.modDie die fun d => { d with hot := true }
       let s : State := { s with mgmt := { s.mgmt with warn := s.mgmt.warn ||| (1#4 <<< die.toNat) } }
       s.report .thermal none true { FaultRecord.blank s with val0 := die.setWidth 64, val1 := temp.setWidth 64 }
     else s)

/-- A core of a die that has tripped: held in reset. -/
def State.stopDie (s : State) (d : DieNum) : State :=
  let away (c : CoreNum) : Bool := dieOf c != d
  let s := (s.liveCores.filter fun e => dieOf e.2 == d).foldl (fun s e => s.modCore e.2 fun _ => Core.reset) s
  { s with
    shadows := s.shadows.filter fun x => away x.core
    mcasts := s.mcasts.filter fun x => away x.core
    tileMsgs := s.tileMsgs.filter fun x => away x.reader && away x.home
    hub := { s.hub with remoteWaits := s.hub.remoteWaits.filter fun x => away x.core } }

/-- The trip threshold, 110 °C in units of a sensor (01 R18, R20). -/
def tripAt : Int := 440

/-- THERMAL_TRIP: the die's hottest sensor has reached the trip threshold; the die's clock stops, it is held in reset
until a module reset, and a MACHINE_CHECK names it. -/
def execThermalTrip (die : DieNum) (s : State) : Out :=
  .next
    (if s.hub.ready && !(s.die die).tripped && decide (tripAt ≤ s.hottest die) then
       let s := (s.stopDie die).modDie die fun d => { d with tripped := true }
       let s : State := { s with mgmt := { s.mgmt with trip := s.mgmt.trip ||| (1#4 <<< die.toNat) } }
       s.machineCheck none hubSource 0 (die.setWidth 64) 0
     else s)

/-! ## Links (01 R8, R9; that the hub die is 4 is the model's choice, notes/assumptions/39.md) -/

/-- Whether two dies have a UCIe link. -/
def linked2 (a b : Nat) : Bool :=
  match min a b, max a b with
  | 0, 1 | 0, 2 | 1, 3 | 2, 3 | 0, 4 | 1, 4 | 2, 4 | 3, 4 => true
  | _, _ => false

/-- Whether a link has failed since the last module reset. -/
def Hub.linkFailed (h : Hub) (a b : BitVec 3) : Bool := h.linksDown.contains (a, b) || h.linksDown.contains (b, a)

/-- A remote command that ends with a code, the rest of its word unstated. -/
def State.failRemote (s : State) (c : Code) (w : RemoteWait) : State :=
  let (x, s) := s.anyWord
  s.finish w.core { w.completion with code := c, word := tokenWord c x.toNat (x.toNat / 256) }

/-- The remote commands that meet a test end with a code. -/
def State.failRemotes (s : State) (c : Code) (p : RemoteWait → Bool) : State :=
  let ws := s.hub.remoteWaits.filter p
  let s : State := { s with hub := { s.hub with remoteWaits := s.hub.remoteWaits.filter fun w => !p w } }
  ws.foldl (State.failRemote · c) s

/-- LINK_RETRY_TIMEOUT: the link is down until a module reset, and a MACHINE_CHECK names its two dies. What is in flight
on it ends with ECC_UNCORR: remote commands now, every other access where it would return (notes/assumptions/39.md). -/
def execLinkRetryTimeout (a b : BitVec 3) (s : State) : Out :=
  .next
    (if s.hub.ready && linked2 a.toNat b.toNat && !s.hub.linkFailed a b then
       let s : State := { s with hub := { s.hub with linksDown := s.hub.linksDown ++ [(a, b)] } }
       let s := s.failRemotes .eccUncorr fun w => s.linkCut (some w.core) (.remote 0 0 .wb)
       s.machineCheck none hubSource 0 (a.setWidth 64) (b.setWidth 64)
     else s)

/-- An event of the hub with a code and VAL0, whose VAL1 no rule states, posted and logged (02 Table HST-12). -/
def State.hubEvent (s : State) (c : Code) (val0 : Word) : State :=
  let (w, s) := s.anyWord
  s.report .fault none true { FaultRecord.blank s with code := c.toByte, val0 := val0, val1 := w }

/-- CXL_LINK_DOWN (01 R12). -/
def execCxlLinkDown (port : BitVec 2) (s : State) : Out :=
  .next
    (if s.hub.ready && !bit s.hub.cxlDown port.toNat then
       ({ s with hub := { s.hub with cxlDown := s.hub.cxlDown ||| (1#4 <<< port.toNat) } } : State).hubEvent .linkDown
         (port.setWidth 64)
     else s)

/-- The remote commands of a port that had not been delivered when it went down complete with LINK_DOWN (01 R13). -/
def State.failPort (s : State) (port : BitVec 4) : State :=
  s.failRemotes .linkDown fun w => w.port == port && Config.undelivered s.hub.routing w.serial s.clk

/-- PORT_DOWN (01 R13). -/
def execPortDown (port : BitVec 4) (s : State) : Out :=
  .next
    (if s.hub.ready && !bit s.hub.portsDown port.toNat then
       let s : State := { s with hub := { s.hub with portsDown := s.hub.portsDown ||| (1#16 <<< port.toNat) } }
       (s.failPort port).hubEvent .linkDown (port.setWidth 64)
     else s)

/-- LANE_FAILURE: the other lane carries all traffic, what the host has not acknowledged first, and hears of it (01 R15, 02
R29). A host message reaches the model only when the hub has acknowledged it at link level. -/
def execLaneFailure (lane : Lane) (s : State) : Out :=
  .next
    (if (s.hub.lane lane).up then
       let s : State := { s with hub := s.hub.failLane lane }
       let (w, s) := s.anyWord
       s.hubEvent .linkDown w
     else s)

/-- A word of HBM takes an uncorrectable error (01 R11). -/
def State.spoil (s : State) (pa : Nat) : State :=
  if isHbm pa then { s with badWords := insertNat s.badWords (pa / 32) } else s

/-- SCRUB: while scrub runs, a word of HBM that it finds uncorrectable is reported with its physical address (01 R11). -/
def execScrub (pa : BitVec 44) (s : State) : Out :=
  .next
    (if s.hub.ready && s.hub.scrubPeriod != 0 && isHbm pa.toNat then
       (s.spoil pa.toNat).hubEvent .eccUncorr (pa.setWidth 64)
     else s)

/-! ## What no row names -/

/-- What the surroundings do between the rows of the opcode table. -/
def State.surround (s : State) (a : EnvAct) : State :=
  match a with
  | .corrected d => s.modDie d fun x => { x with corrected := x.corrected + 1 }
  | .badWord pa => s.spoil pa
  | .badGranule c g => s.modLoft c fun l => { l with bad := insertNat l.bad g }
  | .remap => { s with hub := { s.hub with tierMap := s.hub.tierMap + 1 } }
  | .routing t => { s with hub := { s.hub with routing := t } }
  | .acknowledge l n => { s with hub := s.hub.modLane l fun x => { x with unacked := x.unacked.drop n } }
  | .lane l takes => { s with hub := (s.hub.modLane l fun x => { x with blocked := !takes }).deliver l }
  | .slowStops b => { s with hub := { s.hub with slowStops := b } }
  | .stopEnds n => s.finishStop n
  | .queueMemory b => { s with hub := { s.hub with queueMemory := b } }

end Sys2Proof.Machine
end

