-- ==== Sys2Proof/Machine/Float.lean ====
section
/-!
DEFINITION. Scalar floating point (14 R315 to R318): arithmetic in FP32 and FP64, comparison, classification and
CVT, with the sticky flags of Table SYN-6.
-/
namespace Sys2Proof.Machine

/-- The format that fn[3] selects. -/
def fpFmt (dbl : Bool) : Fmt := if dbl then Fmt.fp64 else Fmt.fp32

/-- The operand of a format in a register. -/
def fpArg (dbl : Bool) (v : Word) : Num := (fpFmt dbl).decode v.toNat

/-- The flags of an operation that gave NaN from operands that were not NaN. -/
def nanFlags (made : Bool) : FpFlags := if made then FpFlags.invalid else FpFlags.none

/-- An exact value rounded once into a register (14 R315, R316). -/
def fpRound (dbl : Bool) (x : Num) (rm : Rounding) (extra : FpFlags) : Word × FpFlags :=
  let (c, fl) := (fpFmt dbl).round x rm false
  (BitVec.ofNat 64 c, { nx := fl.nx || extra.nx, uf := fl.uf || extra.uf, of := fl.of || extra.of,
                        dz := fl.dz || extra.dz, nv := fl.nv || extra.nv })

/-- a + b. -/
def fpAdd (dbl : Bool) (rm : Rounding) (a b : Num) : Word × FpFlags :=
  let r := a.add b rm
  fpRound dbl r rm (nanFlags (r.isNan && !a.isNan && !b.isNan))

/-- a × b. -/
def fpMul (dbl : Bool) (rm : Rounding) (a b : Num) : Word × FpFlags :=
  let r := a.mul b
  fpRound dbl r rm (nanFlags (r.isNan && !a.isNan && !b.isNan))

/-- a × b + c, rounded once. -/
def fpFma (dbl : Bool) (rm : Rounding) (a b c : Num) : Word × FpFlags :=
  let p := a.mul b
  let r := p.add c rm
  fpRound dbl r rm (nanFlags ((p.isNan && !a.isNan && !b.isNan) || (r.isNan && !p.isNan && !c.isNan)))

/-- a / b before rounding, and its flags. -/
def numDiv (a b : Num) (bits : Nat) : Num × FpFlags :=
  match a, b with
  | .nan, _ | _, .nan => (.nan, FpFlags.none)
  | .inf _, .inf _ => (.nan, FpFlags.invalid)
  | .inf x, .fin y _ _ => (.inf (x != y), FpFlags.none)
  | .fin x _ _, .inf y => (.fin (x != y) 0 0, FpFlags.none)
  | .fin x m e, .fin y n f =>
    if n = 0 then (if m = 0 then (.nan, FpFlags.invalid) else (.inf (x != y), FpFlags.divZero))
    else if m = 0 then (.fin (x != y) 0 0, FpFlags.none)
    else (Num.quot (x != y) m n (e - f) bits, FpFlags.none)

/-- a / b. -/
def fpDiv (dbl : Bool) (rm : Rounding) (a b : Num) : Word × FpFlags :=
  let (r, fl) := numDiv a b ((fpFmt dbl).t + 3)
  fpRound dbl r rm fl

/-- √a before rounding, and its flags: √−0 = −0, and a value below −0 is invalid. -/
def numSqrt (a : Num) (bits : Nat) : Num × FpFlags :=
  match a with
  | .nan => (.nan, FpFlags.none)
  | .inf neg => if neg then (.nan, FpFlags.invalid) else (.inf false, FpFlags.none)
  | .fin neg m e =>
    if m = 0 then (.fin neg 0 0, FpFlags.none)
    else if neg then (.nan, FpFlags.invalid)
    else (Num.root m e bits, FpFlags.none)

/-- √a. -/
def fpSqrt (dbl : Bool) (rm : Rounding) (a : Num) : Word × FpFlags :=
  let (r, fl) := numSqrt a ((fpFmt dbl).t + 3)
  fpRound dbl r rm fl

/-! ## Instructions with an interlocked result -/

/-- A result written with its flags. -/
def State.fpDone (s : State) (sd : Reg) (r : Word × FpFlags) : Out := ((s.raise r.2).put sd r.1).done

/-- A two-source arithmetic instruction. -/
def State.fpForm (s : State) (o : FpOps) (f : Bool → Rounding → Num → Num → Word × FpFlags) : Out :=
  s.withOps [(o.sa, o.ea), (o.sb, o.eb)] [o.sd]
    (s.fpDone o.sd (f o.dbl o.rm (fpArg o.dbl (s.reg o.sa)) (fpArg o.dbl (s.reg o.sb))))

/-- FADD. -/
def execFadd (o : FpOps) (s : State) : Out := s.fpForm o fpAdd
/-- FSUB. -/
def execFsub (o : FpOps) (s : State) : Out := s.fpForm o fun dbl rm a b => fpAdd dbl rm a b.neg
/-- FMUL. -/
def execFmul (o : FpOps) (s : State) : Out := s.fpForm o fpMul

/-- FMA: the addend is read through sd without a bit of its own (12 R228). -/
def execFma (o : FpOps) (s : State) : Out :=
  s.withOps [(o.sa, o.ea), (o.sb, o.eb), (o.sd, false)] [o.sd]
    (s.fpDone o.sd (fpFma o.dbl o.rm (fpArg o.dbl (s.reg o.sa)) (fpArg o.dbl (s.reg o.sb)) (fpArg o.dbl (s.reg o.sd))))

/-- An instruction enters the FDIV and FSQRT unit, which takes one at a time; FP_RESULT writes its result. The
flags are raised at issue. -/
def State.fpUnitForm (s : State) (sd : Reg) (r : Word × FpFlags) : Out :=
  if s.me.pipe.fpUnit.isSome then s.stall Block.unit
  else ((s.raise r.2).mapPipe fun p => { p with fpUnit := some { dst := sd, value := r.1, owner := s.here } }).done

/-- FDIV. -/
def execFdiv (o : FpOps) (s : State) : Out :=
  s.withOps [(o.sa, o.ea), (o.sb, o.eb)] [o.sd]
    (s.fpUnitForm o.sd (fpDiv o.dbl o.rm (fpArg o.dbl (s.reg o.sa)) (fpArg o.dbl (s.reg o.sb))))

/-- FSQRT. -/
def execFsqrt (o : UOps) (dbl : Bool) (rm : Rounding) (s : State) : Out :=
  s.withOps [(o.sa, o.ea)] [o.sd] (s.fpUnitForm o.sd (fpSqrt dbl rm (fpArg dbl (s.reg o.sa))))

/-- FP_RESULT: the unit of a core writes its result (14 R316). -/
def execFpResult (core : CoreNum) (s : State) : Out :=
  match (s.coreAt core).pipe.fpUnit with
  | none => .next s
  | some r =>
    let s := s.modCore core fun k => { k with pipe := { k.pipe with fpUnit := none } }
    .next (s.onCore core fun s => s.fillFor r.owner r.dst r.value fun s _ => s)

/-! ## Comparison and classification (14 R317) -/

/-- The operand of a format as bits. -/
def fpBits (dbl : Bool) (v : Word) : Word := if dbl then v else (field v 0 32).setWidth 64

/-- The smaller (or larger, with `big`) of two operands; −0 < +0, and a NaN gives the other operand. -/
def fpPick (dbl big : Bool) (a b : Word) : Word :=
  let x := fpArg dbl a
  let y := fpArg dbl b
  if x.isNan && y.isNan then BitVec.ofNat 64 (fpFmt dbl).nanCode
  else if x.isNan then fpBits dbl b
  else if y.isNan then fpBits dbl a
  else
    let below := x.lt y || (x.eq y && x.isNeg && !y.isNeg)
    if below != big then fpBits dbl a else fpBits dbl b

/-- FMIN. -/
def execFmin (o : ROps) (dbl : Bool) (s : State) : Out := s.rForm o (fpPick dbl false)
/-- FMAX. -/
def execFmax (o : ROps) (dbl : Bool) (s : State) : Out := s.rForm o (fpPick dbl true)

/-- FCMP's result and flags. -/
def fpCompare (cond : FCond) (a b : Num) : Word × FpFlags :=
  let un := a.isNan || b.isNan
  match cond with
  | .eq => (ofBool (a.eq b), FpFlags.none)
  | .lt => (ofBool (!un && a.lt b), nanFlags un)
  | .le => (ofBool (!un && !b.lt a), nanFlags un)
  | .unord => (ofBool un, FpFlags.none)

/-- FCMP. -/
def execFcmp (o : ROps) (dbl : Bool) (cond : FCond) (s : State) : Out :=
  s.withOps [(o.sa, o.ea), (o.sb, o.eb)] [o.sd]
    (s.fpDone o.sd (fpCompare cond (fpArg dbl (s.reg o.sa)) (fpArg dbl (s.reg o.sb))))

/-- The class bit of a value (14 R317). -/
def fpClass (dbl : Bool) (v : Word) : Nat :=
  let f := fpFmt dbl
  match f.decode v.toNat with
  | .nan => if v.toNat / 2 ^ (f.t - 1) % 2 = 0 then 8 else 9
  | .inf neg => if neg then 0 else 7
  | .fin neg m e =>
    if m = 0 then (if neg then 3 else 4)
    else if m < 2 ^ f.t ∧ e = f.qmin then (if neg then 2 else 5)
    else (if neg then 1 else 6)

/-- FCLASS. -/
def execFclass (o : UOps) (dbl : Bool) (s : State) : Out :=
  s.uForm o.sd o.sa o.ea fun v => BitVec.ofNat 64 (2 ^ fpClass dbl v)

/-! ## CVT (14 R318) -/

/-- The format of a code, with the binary8 variants of F8SEL (07 R116). -/
def Seq.scalarFmt (q : Seq) : ScalarFmt → AnyFmt
  | .fp32 => .fp Fmt.fp32
  | .fp16 => .fp Fmt.fp16
  | .bf16 => .fp Fmt.bf16
  | .fp64 => .fp Fmt.fp64
  | .b8a => .fp (Fmt.binary8 q.f8va)
  | .b8b => .fp (Fmt.binary8 q.f8vb)
  | .i8 => .int { width := 8, signed := true }
  | .i16 => .int { width := 16, signed := true }
  | .i32 => .int { width := 32, signed := true }
  | .i64 => .int { width := 64, signed := true }
  | .u8 => .int { width := 8, signed := false }
  | .u16 => .int { width := 16, signed := false }
  | .u32 => .int { width := 32, signed := false }
  | .u64 => .int { width := 64, signed := false }

/-- A result in a register: a signed integer is sign-extended, everything else zero-extended. -/
def AnyFmt.toWord (f : AnyFmt) (c : Nat) : Word :=
  match f with
  | .fp _ => BitVec.ofNat 64 c
  | .int t => BitVec.ofInt 64 (t.decode c)

/-- The result of CVT and its flags. A destination equal to the source maps only infinities of an IEEE format, so
every binary8 code stays as it is. -/
def Seq.cvt (q : Seq) (dst src : ScalarFmt) (rm : Rounding) (sat : Bool) (v : Word) : Word × FpFlags :=
  if dst = src ∧ (src = .b8a ∨ src = .b8b) then ((field v 0 8).setWidth 64, FpFlags.none)
  else
    let (c, fl) := (q.scalarFmt src).convert (q.scalarFmt dst) v.toNat rm sat
    ((q.scalarFmt dst).toWord c, fl)

/-- CVT. -/
def execCvt (o : UOps) (dst src : ScalarFmt) (rm : Rounding) (sat : Bool) (s : State) : Out :=
  s.withOps [(o.sa, o.ea)] [o.sd] (s.fpDone o.sd (s.me.seq.cvt dst src rm sat (s.reg o.sa)))

end Sys2Proof.Machine
end

