-- ==== Sys2Proof/Machine/Integer.lean ====
section
/-!
DEFINITION. Integer register functions, immediates, bit fields, constants, multiply and divide (13 R257 to
R266).
-/
namespace Sys2Proof.Machine

/-! ## Shared operations -/

/-- Shift amount: b[5:0] (13 R257). -/
def amount (b : Word) : Nat := b.toNat % 64
/-- a << n. -/
def shlBy (a : Word) (n : Nat) : Word := a <<< n
/-- a >> n, zeros entering. -/
def shrBy (a : Word) (n : Nat) : Word := a >>> n
/-- a >> n, copies of a[63] entering. -/
def sarBy (a : Word) (n : Nat) : Word := a.sshiftRight n
/-- Signed minimum. -/
def minS (a b : Word) : Word := if a.slt b then a else b
/-- Signed maximum. -/
def maxS (a b : Word) : Word := if a.slt b then b else a
/-- Unsigned minimum. -/
def minU (a b : Word) : Word := if a < b then a else b
/-- Unsigned maximum. -/
def maxU (a b : Word) : Word := if a < b then b else a
/-- Number of zero bits above the highest one bit; 64 for 0 (13 R259). -/
def clzOf (a : Word) : Nat := ((upTo 64).find? fun k => bit a (63 - k)).getD 64
/-- Number of zero bits below the lowest one bit; 64 for 0. -/
def ctzOf (a : Word) : Nat := ((upTo 64).find? fun k => bit a k).getD 64
/-- Number of one bits. -/
def popcOf (a : Word) : Nat := ((upTo 64).filter fun k => bit a k).length
/-- v[n−1:0] zero-extended, for n from 1 to 64 (12 R246). -/
def zextOf (v : Word) (n : Nat) : Word := BitVec.ofNat 64 (v.toNat % 2 ^ n)
/-- v[n−1:0] read as two's complement (12 R246). -/
def sextOf (v : Word) (n : Nat) : Word :=
  let x := v.toNat % 2 ^ n
  if 2 ^ (n - 1) ≤ x then BitVec.ofNat 64 x - BitVec.ofNat 64 (2 ^ n) else BitVec.ofNat 64 x
/-- `old` with bits [pos + n − 1 : pos] replaced by the low bits of `v`. -/
def insertBits (old v : Word) (pos n : Nat) : Word :=
  let mask : Word := BitVec.ofNat 64 ((2 ^ n - 1) * 2 ^ pos)
  (old &&& ~~~ mask) ||| ((v <<< pos) &&& mask)
/-- Bits [127:64] of the signed product. -/
def mulHiS (a b : Word) : Word := BitVec.ofInt 64 (a.toInt * b.toInt / 2 ^ 64)
/-- Bits [127:64] of the unsigned product. -/
def mulHiU (a b : Word) : Word := BitVec.ofNat 64 (a.toNat * b.toNat / 2 ^ 64)
/-- Unsigned quotient (13 R265). -/
def divU (a b : Word) : Word := if b = 0 then BitVec.allOnes 64 else BitVec.ofNat 64 (a.toNat / b.toNat)
/-- Unsigned remainder. -/
def remU (a b : Word) : Word := if b = 0 then a else BitVec.ofNat 64 (a.toNat % b.toNat)
/-- Signed quotient, truncated toward zero; −2^63 / −1 is 2^63. -/
def divS (a b : Word) : Word := if b = 0 then BitVec.allOnes 64 else BitVec.ofInt 64 (a.toInt.tdiv b.toInt)
/-- Signed remainder, with the sign of a. -/
def remS (a b : Word) : Word := if b = 0 then a else BitVec.ofInt 64 (a.toInt.tmod b.toInt)

/-! ## Opcode 0x01 (13 Table INT-1) -/

/-- ADD. -/
def execAdd (o : ROps) (s : State) : Out := s.rForm o fun a b => a + b
/-- SUB. -/
def execSub (o : ROps) (s : State) : Out := s.rForm o fun a b => a - b
/-- AND. -/
def execAnd (o : ROps) (s : State) : Out := s.rForm o fun a b => a &&& b
/-- OR. -/
def execOr (o : ROps) (s : State) : Out := s.rForm o fun a b => a ||| b
/-- XOR. -/
def execXor (o : ROps) (s : State) : Out := s.rForm o fun a b => a ^^^ b
/-- ANDN. -/
def execAndn (o : ROps) (s : State) : Out := s.rForm o fun a b => a &&& ~~~ b
/-- ORN. -/
def execOrn (o : ROps) (s : State) : Out := s.rForm o fun a b => a ||| ~~~ b
/-- SHL. -/
def execShl (o : ROps) (s : State) : Out := s.rForm o fun a b => shlBy a (amount b)
/-- SHR. -/
def execShr (o : ROps) (s : State) : Out := s.rForm o fun a b => shrBy a (amount b)
/-- SAR. -/
def execSar (o : ROps) (s : State) : Out := s.rForm o fun a b => sarBy a (amount b)
/-- ROTL. -/
def execRotl (o : ROps) (s : State) : Out := s.rForm o fun a b => a.rotateLeft (amount b)

/-! ## Opcode 0x02 (13 Table INT-2) -/

/-- MIN. -/
def execMin (o : ROps) (s : State) : Out := s.rForm o minS
/-- MAX. -/
def execMax (o : ROps) (s : State) : Out := s.rForm o maxS
/-- MINU. -/
def execMinu (o : ROps) (s : State) : Out := s.rForm o minU
/-- MAXU. -/
def execMaxu (o : ROps) (s : State) : Out := s.rForm o maxU
/-- SEQ. -/
def execSeq (o : ROps) (s : State) : Out := s.rForm o fun a b => ofBool (a == b)
/-- SNE. -/
def execSne (o : ROps) (s : State) : Out := s.rForm o fun a b => ofBool (a != b)
/-- SLT. -/
def execSlt (o : ROps) (s : State) : Out := s.rForm o fun a b => ofBool (a.slt b)
/-- SLTU. -/
def execSltu (o : ROps) (s : State) : Out := s.rForm o fun a b => ofBool (decide (a < b))

/-! ## Opcode 0x03: multiply and divide (13 R264 to R266) -/

/-- MUL. -/
def execMul (o : ROps) (s : State) : Out := s.rForm o fun a b => a * b
/-- MULHI. -/
def execMulhi (o : ROps) (s : State) : Out := s.rForm o mulHiS
/-- MULHIU. -/
def execMulhiu (o : ROps) (s : State) : Out := s.rForm o mulHiU

/-- A divide enters the divider, which takes one instruction at a time; its result is written by
DIVIDE_RESULT and its destination stays full (13 R266). -/
def State.divForm (s : State) (o : ROps) (f : Word → Word → Word) : Out :=
  s.withOps [(o.sa, o.ea), (o.sb, o.eb)] [o.sd]
    (if s.me.pipe.divUnit.isSome then s.stall Block.unit
     else (s.mapPipe fun p =>
       { p with divUnit := some { dst := o.sd, value := f (s.reg o.sa) (s.reg o.sb), owner := s.here } }).done)

/-- DIV. -/
def execDiv (o : ROps) (s : State) : Out := s.divForm o divS
/-- DIVU. -/
def execDivu (o : ROps) (s : State) : Out := s.divForm o divU
/-- REM. -/
def execRem (o : ROps) (s : State) : Out := s.divForm o remS
/-- REMU. -/
def execRemu (o : ROps) (s : State) : Out := s.divForm o remU

/-! ## Opcode 0x04 and LEA (13 R259, R260) -/

/-- CLZ. -/
def execClz (o : UOps) (s : State) : Out := s.uForm o.sd o.sa o.ea fun a => BitVec.ofNat 64 (clzOf a)
/-- CTZ. -/
def execCtz (o : UOps) (s : State) : Out := s.uForm o.sd o.sa o.ea fun a => BitVec.ofNat 64 (ctzOf a)
/-- POPC. -/
def execPopc (o : UOps) (s : State) : Out := s.uForm o.sd o.sa o.ea fun a => BitVec.ofNat 64 (popcOf a)
/-- BREV. -/
def execBrev (o : UOps) (s : State) : Out := s.uForm o.sd o.sa o.ea fun a => a.reverse
/-- LEA: a + (b << k). -/
def execLea (o : ROps) (k : BitVec 2) (s : State) : Out := s.rForm o fun a b => a + shlBy b k.toNat

/-! ## Immediates (13 R261) -/

/-- ADDI. -/
def execAddi (o : IOps) (s : State) : Out := s.uForm o.sd o.sa o.ea fun a => a + sextTo64 o.imm
/-- ANDI. -/
def execAndi (o : IOps) (s : State) : Out := s.uForm o.sd o.sa o.ea fun a => a &&& sextTo64 o.imm
/-- ORI. -/
def execOri (o : IOps) (s : State) : Out := s.uForm o.sd o.sa o.ea fun a => a ||| sextTo64 o.imm
/-- XORI. -/
def execXori (o : IOps) (s : State) : Out := s.uForm o.sd o.sa o.ea fun a => a ^^^ sextTo64 o.imm
/-- SHLI. -/
def execShli (o : ShiftOps) (s : State) : Out := s.uForm o.sd o.sa o.ea fun a => shlBy a o.amount.toNat
/-- SHRI. -/
def execShri (o : ShiftOps) (s : State) : Out := s.uForm o.sd o.sa o.ea fun a => shrBy a o.amount.toNat
/-- SARI. -/
def execSari (o : ShiftOps) (s : State) : Out := s.uForm o.sd o.sa o.ea fun a => sarBy a o.amount.toNat
/-- SLTI. -/
def execSlti (o : IOps) (s : State) : Out := s.uForm o.sd o.sa o.ea fun a => ofBool (a.slt (sextTo64 o.imm))
/-- SLTIU. -/
def execSltiu (o : IOps) (s : State) : Out := s.uForm o.sd o.sa o.ea fun a => ofBool (decide (a < sextTo64 o.imm))

/-! ## Extension, bit fields and constants (13 R262, R263) -/

/-- SEXT: the encoding holds the width minus 1. -/
def execSext (o : ShiftOps) (s : State) : Out := s.uForm o.sd o.sa o.ea fun a => sextOf a (o.amount.toNat + 1)
/-- ZEXT. -/
def execZext (o : ShiftOps) (s : State) : Out := s.uForm o.sd o.sa o.ea fun a => zextOf a (o.amount.toNat + 1)
/-- BFX. -/
def execBfx (o : FieldOps) (s : State) : Out :=
  s.uForm o.sd o.sa o.ea fun a => zextOf (shrBy a o.pos.toNat) (o.len.toNat + 1)
/-- BFXS. -/
def execBfxs (o : FieldOps) (s : State) : Out :=
  s.uForm o.sd o.sa o.ea fun a => sextOf (shrBy a o.pos.toNat) (o.len.toNat + 1)
/-- BFI. -/
def execBfi (o : FieldOps) (s : State) : Out :=
  s.insertForm o.sd [(o.sa, o.ea)] fun old => insertBits old (s.reg o.sa) o.pos.toNat (o.len.toNat + 1)
/-- LI. -/
def execLi (o : LOps) (s : State) : Out := s.withOps [] [o.sd] (s.put o.sd (sextTo64 o.imm)).done
/-- LIS1 replaces bits [35:18]. -/
def execLis1 (o : LOps) (s : State) : Out := s.insertForm o.sd [] fun old => insertBits old (zextTo64 o.imm) 18 18
/-- LIS2 replaces bits [53:36]. -/
def execLis2 (o : LOps) (s : State) : Out := s.insertForm o.sd [] fun old => insertBits old (zextTo64 o.imm) 36 18
/-- LIS3 replaces bits [63:54]. -/
def execLis3 (sd : Reg) (imm : BitVec 10) (s : State) : Out :=
  s.insertForm sd [] fun old => insertBits old (zextTo64 imm) 54 10

/-! ## The divider's result -/

/-- DIVIDE_RESULT: the running divide fills its destination (13 R266). -/
def execDivideResult (core : CoreNum) (s : State) : Out :=
  .next (s.onCore core fun s =>
    match s.me.pipe.divUnit with
    | none => s
    | some r =>
      (s.mapPipe fun p => { p with divUnit := none }).fillFor r.owner r.dst r.value fun s _ => s)

end Sys2Proof.Machine
end

