-- ==== Sys2Proof/Machine/Management.lean ====
section
/-!
DEFINITION. The management port (02 R43 Tables HST-9 to HST-11): what its registers read as and what a write does.
-/
namespace Sys2Proof.Machine

/-! ## Reads -/

/-- MSTATUS. -/
def Mgmt.mstatus (m : Mgmt) : Word :=
  BitVec.ofNat 64 (m.main.toNat + m.ready.toNat * 2 + m.fwok.toNat * 4 + m.fwslot.toNat * 8 + m.step.toNat * 2 ^ 4
    + m.failstep.toNat * 2 ^ 8 + m.trip.toNat * 2 ^ 12 + m.warn.toNat * 2 ^ 16)

/-- MCTL. -/
def Mgmt.mctl (m : Mgmt) : Word := BitVec.ofNat 64 (m.hold.toNat + m.fwstage.toNat * 2 + m.fwswap.toNat * 4)

/-- LOGCNT. -/
def Mgmt.logcnt (m : Mgmt) : Word := BitVec.ofNat 64 (m.log.length + m.logLost.toNat * 2 ^ 16)

/-- The words that LOGDATA returns next: of the record popped last, or else of the oldest. -/
def Mgmt.logNext (m : Mgmt) : List Word × List FaultRecord :=
  match m.logRest, m.log with
  | w :: ws, l => (w :: ws, l)
  | [], r :: l => ((upTo 6).map fun k => descWord r.bytes (8 * k), l)
  | [], [] => ([], [])

/-- LOGDATA read: its word, and the port after it. -/
def Mgmt.readLog (m : Mgmt) : Mgmt :=
  let (ws, l) := m.logNext
  { m with readData := ws.headD 0, logRest := ws.tail, log := l }

/-- SENSDATA: the sensor register of core SENSIDX, or the last sample while main power is down. -/
def State.sensdata (s : State) : Word :=
  if s.mgmt.main then (s.coreAt s.mgmt.sensidx).sensor.word
  else match assocGet s.mgmt.samples s.mgmt.sensidx with | some x => x.word | none => 0

/-- DEVID. -/
def State.devidReg (s : State) : Word :=
  match s.hub.devid with
  | some d => if s.mgmt.main then d.setWidth 64 else 0xFFFFFFFF
  | none => 0xFFFFFFFF

/-- What a register reads as; LOGDATA, whose reads pop the log, and FWDATA hold nothing of their own. -/
def State.mgmtValue (s : State) (off : Nat) : Word :=
  match off with
  | 0x000 => s.mgmt.mstatus
  | 0x008 => s.mgmt.mctl
  | 0x010 => s.mgmt.logcnt
  | 0x020 => s.mgmt.sensidx.setWidth 64
  | 0x028 => s.sensdata
  | 0x030 => s.mgmt.fwaddr
  | 0x040 => s.devidReg
  | _ => 0

/-! ## Writes -/

/-- MCTL.HOLD: 1 holds the module at step 1, 0 lets a held module run from step 2. -/
def State.setHold (s : State) (v : Bool) : State :=
  if v then
    let s := s.dark 1
    { s with mgmt := { s.mgmt with hold := true } }
  else if s.mgmt.hold then { s with mgmt := { s.mgmt with hold := false, step := 2 } }
  else s

/-- MCTL.FWSTAGE; what has been staged stays when the image is closed (notes/assumptions/35.md). -/
def State.setStage (s : State) (v : Bool) : State := { s with mgmt := { s.mgmt with fwstage := v } }
/-- MCTL.FWSWAP. -/
def State.setSwap (s : State) (v : Bool) : State := { s with mgmt := { s.mgmt with fwswap := v } }

/-- FWDATA: eight bytes of the staging image at FWADDR, which advances, while FWSTAGE is 1. -/
def Mgmt.stage (m : Mgmt) (v : Word) : Mgmt :=
  if !m.fwstage then m
  else
    { m with
      staging := (List.range 8).foldl (fun l k => insertAt l (m.fwaddr.toNat + k) (field v (8 * k) 8)) m.staging
      fwaddr := m.fwaddr + 8 }

/-- MSTATUS.WARN: ones clear flags. -/
def State.clearWarn (s : State) (mask : BitVec 4) : State := { s with mgmt := { s.mgmt with warn := s.mgmt.warn &&& ~~~ mask } }

/-- MCTL written; a HOLD that does not change does nothing (R21 restarts the sequence on a 1 that is written). -/
def State.writeMctl (s : State) (v : Word) : State := ((s.setHold (bit v 0)).setStage (bit v 1)).setSwap (bit v 2)

/-- A register written; read-only registers and offsets that no table names ignore it (00 R3). -/
def State.mgmtWrite (s : State) (off : Nat) (v : Word) : State :=
  match off with
  | 0x000 => s.clearWarn (field v 16 4)
  | 0x008 => s.writeMctl v
  | 0x020 => { s with mgmt := { s.mgmt with sensidx := field v 0 10 } }
  | 0x030 => { s with mgmt := { s.mgmt with fwaddr := v &&& ~~~ 7 } }
  | 0x038 => { s with mgmt := s.mgmt.stage v }
  | _ => s

/-! ## The rows -/

/-- What the management port does while it has standby power (01 R16). -/
def State.onStandby (s : State) (f : State → State) : Out := .next (if s.mgmt.standby then f s else s)

/-- LOGDATA: one read of the register. -/
def execLogdata (s : State) : Out := s.onStandby fun s => { s with mgmt := s.mgmt.readLog }
/-- FWDATA: one write of the register. -/
def execFwdata (value : Word) (s : State) : Out := s.onStandby (·.mgmtWrite 0x038 value)
/-- HOLD: the bit written. -/
def execHold (value : Bool) (s : State) : Out := s.onStandby (·.setHold value)
/-- FWSTAGE: the bit written. -/
def execFwstage (value : Bool) (s : State) : Out := s.onStandby (·.setStage value)
/-- FWSWAP: the bit written. -/
def execFwswap (value : Bool) (s : State) : Out := s.onStandby (·.setSwap value)
/-- WARN: ones written to the field. -/
def execWarn (mask : BitVec 4) (s : State) : Out := s.onStandby (·.clearWarn mask)

/-- REGISTER_WRITE: a store to a control page performs (03, 04, 05), or the management port writes a register. -/
def execRegisterWrite (w : RegWrite) (s : State) : Out :=
  match w with
  | .store core id => s.storeRegister core id
  | .management off v => s.onStandby (·.mgmtWrite off.toNat v)

end Sys2Proof.Machine
end

