-- ==== Sys2Proof/Machine/Remote.lean ====
section
/-!
DEFINITION. The remote commands RPUT, RGET, RAMO and RSEND, and the delivery of remote messages (15 R337 to R340;
01 R13, R14).
-/
namespace Sys2Proof.Machine

/-! ## Sending (15 R337) -/

/-- Device identifiers stop below this number (01 R14). -/
def deviceLimit : Nat := 786432

/-- The device that a remote descriptor names. -/
def remoteDevice (d : List Byte) : BitVec 20 := BitVec.ofNat 20 (natAt d 16 4)

/-- The checks on the DEVICE field. -/
def deviceChecks (d : List Byte) : List (Bool × Nat) :=
  [(natAt d 16 4 / 2 ^ 20 == 0, descOff 16 20), (decide (natAt d 16 4 % 2 ^ 20 < deviceLimit), descOff 16 0)]

/-- The checks on an RPUT or RGET descriptor. -/
def transferChecks (d : List Byte) : List (Bool × Nat) :=
  [(descZero d 14 2, descOff 8 0)] ++ deviceChecks d ++ [(natAt d 20 4 != 0, descOff 20 0)]

/-- The checks on an RAMO descriptor. -/
def ramoChecks (d : List Byte) : List (Bool × Nat) :=
  [(natAt d 0 8 % 8 == 0 && descZero d 6 2, descOff 0 0), (descZero d 8 8, descOff 8 0)] ++ deviceChecks d
    ++ [(descZero d 20 4, descOff 20 0), (natAt d 40 8 % 8 == 0, descOff 40 0), (descZero d 48 16, descOff 48 0)]

/-- The checks on an RSEND descriptor. -/
def rsendChecks (d : List Byte) : List (Bool × Nat) :=
  [(natAt d 0 8 % 16 == 0, descOff 0 0), (descZero d 8 8, descOff 8 0)] ++ deviceChecks d
    ++ [(descZero d 20 44, descOff 20 0)]

/-- A remote command that cannot be delivered ends with a code, the rest of the word unstated (notes/assumptions/24.md). -/
def State.refuseLink (s : State) (k : Cmd) (c : Code) : State :=
  let (w, s) := s.anyWord
  s.failWith k c (tokenWord c w.toNat (w.toNat / 256))

/-- The scale-out ports that are up, rising. -/
def Hub.upPorts (h : Hub) : List (BitVec 4) := ((upTo 16).filter fun p => !bit h.portsDown p).map (BitVec.ofNat 4)

/-- The port on which commands of a core to a device travel: a hash over the ports that are up (01 R13). -/
def Hub.portFor (h : Hub) (core : CoreNum) (device : BitVec 20) : BitVec 4 :=
  getAt h.upPorts (Config.portHash core device % h.upPorts.length) 0

/-- A remote command sent: it leaves its inbox, and its answer is awaited. -/
def State.sendRemote (s : State) (k : Cmd) (device : BitVec 20) (c : RemoteCmd) (count : Nat) (dest : List Run) : State :=
  let s := s.popBox .remote
  let n := s.hub.nextSerial
  let m : RemoteMsg := { device := device, pdk := k.owner.pdk, core := s.cur, serial := n, cmd := c }
  let w : RemoteWait := { serial := n, device := device, port := s.hub.portFor s.cur device, core := s.cur,
                          completion := k.ends .none (tokenWord .none 0 count), dest := dest }
  { s with hub := { s.hub with nextSerial := n + 1, remoteOut := s.hub.remoteOut ++ [m],
                               remoteWaits := s.hub.remoteWaits ++ [w] } }

/-- A remote command goes on when it can travel, with what `go` sends: LINK_DOWN while no port carries it (01 R14),
ECC_UNCORR where the way to the hub crosses a failed link (01 R9). -/
def State.overLink (s : State) (k : Cmd) (go : Except Stop State) : Except Stop State :=
  if !s.linked then .ok ((s.popBox .remote).refuseLink k .linkDown)
  else if s.linkCut (some s.cur) (.remote 0 0 .wb) then .ok ((s.popBox .remote).refuseLink k .eccUncorr)
  else go

/-- RPUT: the bytes are read here and written at the home (15 R338). -/
def State.startRput (s : State) (k : Cmd) (i : Instr) : Except Stop State := do
  let (s, d) ← s.readDesc k i
  checkDesc s i d (transferChecks d)
  s.overLink k do
    let va := natAt d 0 8
    let len := natAt d 20 4
    s.notHeld k [(va, len)]
    let (s, bs) ← s.readMem (s.keeperOf k) 0 0 va len
    .ok (s.sendRemote k (remoteDevice d) (.put (BitVec.ofNat 48 (natAt d 8 6)) bs) len [])

/-- RPUT. -/
def execRput (tok : Reg) (ext : BitVec 48) (s : State) : Out :=
  let k := s.headCmd .remote tok
  .next (s.settle .remote k ((s.resume k).startRput k (.rput tok ext)))

/-- RGET: the places of the bytes are found here before the read is sent (15 R338). -/
def State.startRget (s : State) (k : Cmd) (i : Instr) : Except Stop State := do
  let (s, d) ← s.readDesc k i
  checkDesc s i d (transferChecks d)
  s.overLink k do
    let len := natAt d 20 4
    let (s, rs) ← s.spanMem (s.keeperOf k) 2 0 (natAt d 0 8) (List.replicate len 0)
    .ok (s.sendRemote k (remoteDevice d) (.get (BitVec.ofNat 48 (natAt d 8 6)) len) len rs)

/-- RGET. -/
def execRget (tok : Reg) (ext : BitVec 48) (s : State) : Out :=
  let k := s.headCmd .remote tok
  .next (s.settle .remote k ((s.resume k).startRget k (.rget tok ext)))

/-- RAMO: one atomic at the home, whose old value comes back (15 R339). -/
def State.startRamo (s : State) (k : Cmd) (i : Instr) (op : BitVec 4) : Except Stop State := do
  let (s, d) ← s.readDesc k i
  checkDesc s i d (ramoChecks d)
  s.overLink k do
    let (s, rs) ← s.spanMem (s.keeperOf k) 2 0 (natAt d 40 8) (List.replicate 8 0)
    .ok (s.sendRemote k (remoteDevice d) (.amo (BitVec.ofNat 48 (natAt d 0 6)) op (descWord d 24) (descWord d 32)) 8 rs)

/-- RAMO. -/
def execRamo (tok : Reg) (ext : BitVec 48) (op : BitVec 4) (s : State) : Out :=
  let k := s.headCmd .remote tok
  .next (s.settle .remote k ((s.resume k).startRamo k (.ramo tok ext op) op))

/-- The record address of a carried LAUNCH packet, or the OFFSET at which it is refused (15 R340). -/
def carriedLaunch (p : Packet) : Except Nat (BitVec 48) :=
  match decodePacket p with
  | .ok (.launch _ _ a) => .ok a
  | .error (.body (.launch _ _ _) off) => .error off
  | _ => .error 120

/-- RSEND: the packet and the launch record are read here and sent (15 R340). -/
def State.startRsend (s : State) (k : Cmd) (i : Instr) : Except Stop State := do
  let (s, d) ← s.readDesc k i
  checkDesc s i d (rsendChecks d)
  s.overLink k do
    let va := natAt d 0 8
    s.notHeld k [(va, 16)]
    let (s, bs) ← s.readMem (s.keeperOf k) 3 0 va 16
    let p : Packet := BitVec.ofNat 128 (natOf bs)
    match carriedLaunch p with
    | .error off => .error (.fault s .illegalCmd 3 (some off))
    | .ok a =>
      s.notHeld k [(a.toNat, 256)]
      let (s, rec) ← s.readMem (s.keeperOf k) 0 0 a.toNat 256
      .ok (s.sendRemote k (remoteDevice d) (.send p rec) 0 [])

/-- RSEND. -/
def execRsend (tok : Reg) (ext : BitVec 48) (s : State) : Out :=
  let k := s.headCmd .remote tok
  .next (s.settle .remote k ((s.resume k).startRsend k (.rsend tok ext)))

/-! ## At the home (15 R337 to R340) -/

/-- The agent of a remote command at its home: USER privilege in the Paddock of the issuer's number. -/
def homeAgent (m : RemoteMsg) : Agent := { core := none, pdk := m.pdk, priv := .user }

/-- An answer sent back. -/
def State.replyTo (s : State) (m : RemoteMsg) (code : Code) (operand : Nat) (off : Nat) (data : List Byte) : State :=
  let r : RemoteMsg := { m with cmd := .reply code.toByte (BitVec.ofNat 8 operand) (BitVec.ofNat 48 off) data }
  { s with hub := { s.hub with remoteOut := s.hub.remoteOut ++ [r] } }

/-- The answer for a stop at the home: it never suspends a command. -/
def State.replyStop (s : State) (m : RemoteMsg) (operand : Nat) (e : Stop) : State :=
  match e with
  | .fault _ code op off => s.replyTo m code op (off.getD 0) []
  | .tier _ f => s.replyTo m f.code operand 0 []
  | .wait | .pause _ => s

/-- The offset of a tier miss at the home: the first piece of a range that meets one. -/
def State.missOffset (s : State) (a : Agent) (va n : Nat) (wr : Bool) : Nat :=
  let at_ (k : Nat) : Nat := if k = 0 then va else (va / 4096 + k) * 4096
  match (upTo (pieces va n)).find? fun k =>
    match (s.engTarget a (at_ k) 1 wr).2 with | .ok _ => false | .error f => f.code == .tierMiss with
  | some k => at_ k - va
  | none => 0

/-- A write performed at the home and published in one step, not taken before every read that stands in the way has
returned (11 R219). -/
def State.homePut (s : State) (m : RemoteMsg) (va : BitVec 48) (bs : List Byte) : State :=
  match s.spanMem (homeAgent m) 2 0 va.toNat bs with
  | .ok (t, rs) => if t.splits rs then s else (t.applyRuns rs).replyTo m .none 0 0 []
  | .error (.tier _ f) => s.replyTo m f.code 2 (s.missOffset (homeAgent m) va.toNat bs.length true) []
  | .error e => s.replyStop m 2 e

/-- A read performed at the home. -/
def State.homeGet (s : State) (m : RemoteMsg) (va : BitVec 48) (n : Nat) : State :=
  match s.readMem (homeAgent m) 0 0 va.toNat n with
  | .ok (s, bs) => s.replyTo m .none 0 0 bs
  | .error (.tier _ f) => s.replyTo m f.code 0 (s.missOffset (homeAgent m) va.toNat n false) []
  | .error e => s.replyStop m 0 e

/-- The operation of an RAMO (15 R339). -/
def ramoOp (n : BitVec 4) : AmoOp :=
  match n.toNat with
  | 0 => .add | 1 => .and | 2 => .or | 3 => .xor | 4 => .min | 5 => .max | 6 => .minu | 7 => .maxu | 8 => .swp | _ => .cas

/-- An atomic performed at the home. -/
def State.homeAmo (s : State) (m : RemoteMsg) (va : BitVec 48) (op : BitVec 4) (opnd expect : Word) : State :=
  match s.translate none m.pdk (va.setWidth 64) (Acc.both .user).byEngine with
  | (_, .error f) => s.replyTo m f.code 2 0 []
  | (_, .ok t) =>
    match s.accessError none t 8 false with
    | some (c, _) => s.replyTo m c 2 0 []
    | none =>
    let old := wordOf (s.readTarget t 8)
    let s := match (ramoOp op).apply old opnd expect with
      | some v => s.perform t (bytesOf v.toNat 8)
      | none => s
    s.replyTo m .none 0 0 (bytesOf old.toNat 8)

/-- A launch performed at the home, none while 256 groups are live there. -/
def State.homeLaunch (s : State) (m : RemoteMsg) (bs : List Byte) : Option State :=
  match s.paddock? m.pdk with
  | none => some (s.replyTo m .perm 0 0 [])
  | some p =>
    if natAt bs 0 1 ≠ m.pdk.toNat then some (s.replyTo m .illegalCmd 0 0 [])
    else
      match firstBad (launchChecks bs) with
      | some off => some (s.replyTo m .illegalCmd 0 off [])
      | none => if p.groupsFull then none else some ((s.installGroup p bs .none).replyTo m .none 0 0 [])

/-! ## Accesses of another device to pages that it maps as REMOTE (03 R53) -/

/-- An access to local physical memory that this device performs for another: PERM where it may not be made, or the
error that it meets. The home moves bytes as they lie in its memory. -/
def State.homePhys (s : State) (m : RemoteMsg) (pa n : Nat) (wr : Bool) (go : Target → State) : State :=
  let t : Target := .mem pa none .wb false
  match (s.paddock? m.pdk).filter fun p => s.homeAllows p.desc pa n with
  | none => s.replyTo m .perm 0 0 []
  | some _ =>
    match s.accessError none t n wr with
    | some (c, i) => s.replyTo m c 0 i []
    | none => go t

/-- An atomic on local physical memory for another device. -/
def State.homePhysAmo (s : State) (m : RemoteMsg) (pa : Nat) (op : BitVec 4) (opnd expect : Word) : State :=
  s.homePhys m pa 8 false fun t =>
    let old := wordOf (s.readTarget t 8)
    let s := match (ramoOp op).apply old opnd expect with
      | some v => s.perform t (bytesOf v.toNat 8)
      | none => s
    s.replyTo m .none 0 0 (bytesOf old.toNat 8)

/-! ## Answers -/

/-- Runs with the bytes that have come back, in order. -/
def fillRuns : List Run → List Byte → List Run
  | [], _ => []
  | r :: rest, bs => { r with bytes := bs.take r.bytes.length } :: fillRuns rest (bs.drop r.bytes.length)

/-- The answer to a command of this device: its bytes are published and its completion follows, or its fault. -/
def State.takeReply (s : State) (w : RemoteWait) (code : Code) (operand : Byte) (off : BitVec 48) (data : List Byte) : State :=
  let s : State := { s with hub := { s.hub with remoteWaits := s.hub.remoteWaits.filter fun x => x.serial != w.serial } }
  if code = .none then
    let rs := fillRuns w.dest data
    match s.runsError (some w.core) 0 rs with
    | some (c, off) => s.finish w.core { w.completion with code := c, word := tokenWord c 2 off }
    | none => (s.applyRuns rs).finish w.core w.completion
  else s.finish w.core { w.completion with code := code, word := tokenWord code operand.toNat off.toNat }

/-- REMOTE_DELIVERY: a message reaches this device from the scale-out ports. An answer whose bytes a read keeps from
their publish (11 R219) is not taken yet. -/
def execRemoteDelivery (m : RemoteMsg) (s : State) : Out :=
  .next
    (if !s.linked then s
     else
       match m.cmd with
       | .put va bs => s.homePut m va bs
       | .get va n => s.homeGet m va n
       | .amo va op opnd expect => s.homeAmo m va op opnd expect
       | .send _ bs => (s.homeLaunch m bs).getD s
       | .readPhys pa n => s.homePhys m pa.toNat n false fun t => s.replyTo m .none 0 0 (s.readTarget t n)
       | .writePhys pa bs => s.homePhys m pa.toNat bs.length true fun t => (s.perform t bs).replyTo m .none 0 0 []
       | .amoPhys pa op opnd expect => s.homePhysAmo m pa.toNat op opnd expect
       | .reply code operand off data =>
         match s.hub.remoteWaits.find? fun w => w.serial == m.serial && w.core == m.core, Code.ofByte code with
         | some w, some c =>
           if c = .none && s.splits (fillRuns w.dest data) then s else s.takeReply w c operand off data
         | _, _ => s)

end Sys2Proof.Machine
end

