-- ==== Sys2Proof/Machine/Dispatch.lean ====
section
/-!
DEFINITION. The one dispatch from an instruction to its meaning: one arm for every row of
spec/opcode_table.json, each a direct call.
-/
namespace Sys2Proof.Machine

/-- The meaning of an instruction of the focused core, of a command of an engine of the focused core, or of an
event (95_what_each_step_holds.md). -/
def exec (i : Instr) (s : State) : Host.Outcome State Fault Refusal :=
  match i with
  | .add o => Sys2Proof.Machine.execAdd o s
  | .sub o => Sys2Proof.Machine.execSub o s
  | .and o => Sys2Proof.Machine.execAnd o s
  | .or o => Sys2Proof.Machine.execOr o s
  | .xor o => Sys2Proof.Machine.execXor o s
  | .andn o => Sys2Proof.Machine.execAndn o s
  | .orn o => Sys2Proof.Machine.execOrn o s
  | .shl o => Sys2Proof.Machine.execShl o s
  | .shr o => Sys2Proof.Machine.execShr o s
  | .sar o => Sys2Proof.Machine.execSar o s
  | .rotl o => Sys2Proof.Machine.execRotl o s
  | .min o => Sys2Proof.Machine.execMin o s
  | .max o => Sys2Proof.Machine.execMax o s
  | .minu o => Sys2Proof.Machine.execMinu o s
  | .maxu o => Sys2Proof.Machine.execMaxu o s
  | .seq o => Sys2Proof.Machine.execSeq o s
  | .sne o => Sys2Proof.Machine.execSne o s
  | .slt o => Sys2Proof.Machine.execSlt o s
  | .sltu o => Sys2Proof.Machine.execSltu o s
  | .mul o => Sys2Proof.Machine.execMul o s
  | .mulhi o => Sys2Proof.Machine.execMulhi o s
  | .mulhiu o => Sys2Proof.Machine.execMulhiu o s
  | .div o => Sys2Proof.Machine.execDiv o s
  | .divu o => Sys2Proof.Machine.execDivu o s
  | .rem o => Sys2Proof.Machine.execRem o s
  | .remu o => Sys2Proof.Machine.execRemu o s
  | .divideResult core => Sys2Proof.Machine.execDivideResult core s
  | .clz o => Sys2Proof.Machine.execClz o s
  | .ctz o => Sys2Proof.Machine.execCtz o s
  | .popc o => Sys2Proof.Machine.execPopc o s
  | .brev o => Sys2Proof.Machine.execBrev o s
  | .lea o k => Sys2Proof.Machine.execLea o k s
  | .addi o => Sys2Proof.Machine.execAddi o s
  | .andi o => Sys2Proof.Machine.execAndi o s
  | .ori o => Sys2Proof.Machine.execOri o s
  | .xori o => Sys2Proof.Machine.execXori o s
  | .shli o => Sys2Proof.Machine.execShli o s
  | .shri o => Sys2Proof.Machine.execShri o s
  | .sari o => Sys2Proof.Machine.execSari o s
  | .slti o => Sys2Proof.Machine.execSlti o s
  | .sltiu o => Sys2Proof.Machine.execSltiu o s
  | .sext o => Sys2Proof.Machine.execSext o s
  | .zext o => Sys2Proof.Machine.execZext o s
  | .bfx o => Sys2Proof.Machine.execBfx o s
  | .bfxs o => Sys2Proof.Machine.execBfxs o s
  | .bfi o => Sys2Proof.Machine.execBfi o s
  | .li o => Sys2Proof.Machine.execLi o s
  | .lis1 o => Sys2Proof.Machine.execLis1 o s
  | .lis2 o => Sys2Proof.Machine.execLis2 o s
  | .lis3 sd imm => Sys2Proof.Machine.execLis3 sd imm s
  | .beq o => Sys2Proof.Machine.execBeq o s
  | .bne o => Sys2Proof.Machine.execBne o s
  | .blt o => Sys2Proof.Machine.execBlt o s
  | .bge o => Sys2Proof.Machine.execBge o s
  | .bltu o => Sys2Proof.Machine.execBltu o s
  | .bgeu o => Sys2Proof.Machine.execBgeu o s
  | .jmp off => Sys2Proof.Machine.execJmp off s
  | .jal off => Sys2Proof.Machine.execJal off s
  | .jr o imm => Sys2Proof.Machine.execJr o imm s
  | .jalr o => Sys2Proof.Machine.execJalr o s
  | .loop o last => Sys2Proof.Machine.execLoop o last s
  | .ld o => Sys2Proof.Machine.execLd o s
  | .lds o => Sys2Proof.Machine.execLds o s
  | .st o => Sys2Proof.Machine.execSt o s
  | .ldq o => Sys2Proof.Machine.execLdq o s
  | .stq o => Sys2Proof.Machine.execStq o s
  | .loadReturn core id ecc => Sys2Proof.Machine.execLoadReturn core id ecc s
  | .storeAcknowledge core id ecc => Sys2Proof.Machine.execStoreAcknowledge core id ecc s
  | .amoadd o => Sys2Proof.Machine.execAmoadd o s
  | .amoand o => Sys2Proof.Machine.execAmoand o s
  | .amoor o => Sys2Proof.Machine.execAmoor o s
  | .amoxor o => Sys2Proof.Machine.execAmoxor o s
  | .amomin o => Sys2Proof.Machine.execAmomin o s
  | .amomax o => Sys2Proof.Machine.execAmomax o s
  | .amominu o => Sys2Proof.Machine.execAmominu o s
  | .amomaxu o => Sys2Proof.Machine.execAmomaxu o s
  | .amoswp o => Sys2Proof.Machine.execAmoswp o s
  | .cas o => Sys2Proof.Machine.execCas o s
  | .lda o acq scope => Sys2Proof.Machine.execLda o acq scope s
  | .stl o rel scope => Sys2Proof.Machine.execStl o rel scope s
  | .atomicAtHome core id => Sys2Proof.Machine.execAtomicAtHome core id s
  | .fence o => Sys2Proof.Machine.execFence o s
  | .fencec o => Sys2Proof.Machine.execFencec o s
  | .fenceTokenFill core id => Sys2Proof.Machine.execFenceTokenFill core id s
  | .ldf o => Sys2Proof.Machine.execLdf o s
  | .fput o => Sys2Proof.Machine.execFput o s
  | .fclr o => Sys2Proof.Machine.execFclr o s
  | .ftest o => Sys2Proof.Machine.execFtest o s
  | .fempty sd => Sys2Proof.Machine.execFempty sd s
  | .femptyTimeout core reg => Sys2Proof.Machine.execFemptyTimeout core reg s
  | .rfull sd sa => Sys2Proof.Machine.execRfull sd sa s
  | .bararr o scope => Sys2Proof.Machine.execBararr o scope s
  | .barexp o scope => Sys2Proof.Machine.execBarexp o scope s
  | .bartok o scope => Sys2Proof.Machine.execBartok o scope s
  | .talloc o part => Sys2Proof.Machine.execTalloc o part s
  | .tcons o => Sys2Proof.Machine.execTcons o s
  | .tfree o => Sys2Proof.Machine.execTfree o s
  | .tinfo o => Sys2Proof.Machine.execTinfo o s
  | .tsend o port => Sys2Proof.Machine.execTsend o port s
  | .taddr o => Sys2Proof.Machine.execTaddr o s
  | .spawn o trap rpl ute tile => Sys2Proof.Machine.execSpawn o trap rpl ute tile s
  | .retire => Sys2Proof.Machine.execRetire s
  | .yield o kind => Sys2Proof.Machine.execYield o kind s
  | .etrig => Sys2Proof.Machine.execEtrig s
  | .runq sd => Sys2Proof.Machine.execRunq sd s
  | .cmd o => Sys2Proof.Machine.execCmd o s
  | .cmdm o slot => Sys2Proof.Machine.execCmdm o slot s
  | .prd o => Sys2Proof.Machine.execPrd o s
  | .pwr o => Sys2Proof.Machine.execPwr o s
  | .cfg o graph => Sys2Proof.Machine.execCfg o graph s
  | .instq sd => Sys2Proof.Machine.execInstq sd s
  | .fadd o => Sys2Proof.Machine.execFadd o s
  | .fsub o => Sys2Proof.Machine.execFsub o s
  | .fmul o => Sys2Proof.Machine.execFmul o s
  | .fdiv o => Sys2Proof.Machine.execFdiv o s
  | .fsqrt o dbl rm => Sys2Proof.Machine.execFsqrt o dbl rm s
  | .fma o => Sys2Proof.Machine.execFma o s
  | .fmin o dbl => Sys2Proof.Machine.execFmin o dbl s
  | .fmax o dbl => Sys2Proof.Machine.execFmax o dbl s
  | .fcmp o dbl cond => Sys2Proof.Machine.execFcmp o dbl cond s
  | .fclass o dbl => Sys2Proof.Machine.execFclass o dbl s
  | .fpResult core => Sys2Proof.Machine.execFpResult core s
  | .cvt o dst src rm sat => Sys2Proof.Machine.execCvt o dst src rm sat s
  | .trap n => Sys2Proof.Machine.execTrap n s
  | .eret => Sys2Proof.Machine.execEret s
  | .mfs sd n => Sys2Proof.Machine.execMfs sd n s
  | .mts o n => Sys2Proof.Machine.execMts o n s
  | .wfe => Sys2Proof.Machine.execWfe s
  | .wfeTimeout core => Sys2Proof.Machine.execWfeTimeout core s
  | .sev => Sys2Proof.Machine.execSev s
  | .halt => Sys2Proof.Machine.execHalt s
  | .bkpt => Sys2Proof.Machine.execBkpt s
  | .instructionFetch core => Sys2Proof.Machine.execInstructionFetch core s
  | .feed o => Sys2Proof.Machine.execFeed o s
  | .feedt o => Sys2Proof.Machine.execFeedt o s
  | .feedc o => Sys2Proof.Machine.execFeedc o s
  | .drain o => Sys2Proof.Machine.execDrain o s
  | .draint o => Sys2Proof.Machine.execDraint o s
  | .eofi tok port level => Sys2Proof.Machine.execEofi tok port level s
  | .parm tok elem k value => Sys2Proof.Machine.execParm tok elem k value s
  | .arm tok cols => Sys2Proof.Machine.execArm tok cols s
  | .haltf tok => Sys2Proof.Machine.execHaltf tok s
  | .jdense tok f m n base ext => Sys2Proof.Machine.execJdense tok f m n base ext s
  | .jsparse tok f ext => Sys2Proof.Machine.execJsparse tok f ext s
  | .jgath tok f nb ext => Sys2Proof.Machine.execJgath tok f nb ext s
  | .jfeed tok src count afmt rm => Sys2Proof.Machine.execJfeed tok src count afmt rm s
  | .jdrain tok ordered target => Sys2Proof.Machine.execJdrain tok ordered target s
  | .jpeek tok addr => Sys2Proof.Machine.execJpeek tok addr s
  | .jclr tok => Sys2Proof.Machine.execJclr tok s
  | .jspill tok addr cap => Sys2Proof.Machine.execJspill tok addr cap s
  | .copy tok ext faddr ftok => Sys2Proof.Machine.execCopy tok ext faddr ftok s
  | .mcast tok ext => Sys2Proof.Machine.execMcast tok ext s
  | .pagein tok ext => Sys2Proof.Machine.execPagein tok ext s
  | .publish tok addr len scope => Sys2Proof.Machine.execPublish tok addr len scope s
  | .fill tok body => Sys2Proof.Machine.execFill tok body s
  | .rput tok ext => Sys2Proof.Machine.execRput tok ext s
  | .rget tok ext => Sys2Proof.Machine.execRget tok ext s
  | .ramo tok ext op => Sys2Proof.Machine.execRamo tok ext op s
  | .rsend tok ext => Sys2Proof.Machine.execRsend tok ext s
  | .launch tok early addr => Sys2Proof.Machine.execLaunch tok early addr s
  | .remoteDelivery m => Sys2Proof.Machine.execRemoteDelivery m s
  | .commandCompletion core id => Sys2Proof.Machine.execCommandCompletion core id s
  | .shadowPublish id => Sys2Proof.Machine.execShadowPublish id s
  | .configurationStart core => Sys2Proof.Machine.execConfigurationStart core s
  | .mappingTimeout core => Sys2Proof.Machine.execMappingTimeout core s
  | .instant core => Sys2Proof.Machine.execInstant core s
  | .thrTimeout core elem => Sys2Proof.Machine.execThrTimeout core elem s
  | .ctlmTimeout core elem => Sys2Proof.Machine.execCtlmTimeout core elem s
  | .ingLim core id => Sys2Proof.Machine.execIngLim core id s
  | .dispatchClk die => Sys2Proof.Machine.execDispatchClk die s
  | .generatorEnqueue pdk group => Sys2Proof.Machine.execGeneratorEnqueue pdk group s
  | .groupRetire pdk group => Sys2Proof.Machine.execGroupRetire pdk group s
  | .preemption pdk => Sys2Proof.Machine.execPreemption pdk s
  | .fabricSaved core => Sys2Proof.Machine.execFabricSaved core s
  | .drainWindowEnd core => Sys2Proof.Machine.execDrainWindowEnd core s
  | .softError core unit => Sys2Proof.Machine.execSoftError core unit s
  | .requeue pdk die => Sys2Proof.Machine.execRequeue pdk die s
  | .abortRecord pdk die => Sys2Proof.Machine.execAbortRecord pdk die s
  | .abortGroup pdk die => Sys2Proof.Machine.execAbortGroup pdk die s
  | .holdActionEnd pdk die => Sys2Proof.Machine.execHoldActionEnd pdk die s
  | .deadlockSample => Sys2Proof.Machine.execDeadlockSample s
  | .loftGrantClk core => Sys2Proof.Machine.execLoftGrantClk core s
  | .tileAdmission id => Sys2Proof.Machine.execTileAdmission id s
  | .tileCount id => Sys2Proof.Machine.execTileCount id s
  | .heldRelease id => Sys2Proof.Machine.execHeldRelease id s
  | .admissionAnswer id => Sys2Proof.Machine.execAdmissionAnswer id s
  | .tokenRingClk die => Sys2Proof.Machine.execTokenRingClk die s
  | .tokenHoldExpiry core => Sys2Proof.Machine.execTokenHoldExpiry core s
  | .jtok die value => Sys2Proof.Machine.execJtok die value s
  | .go core id => Sys2Proof.Machine.execGo core id s
  | .invalidationDone pdk die => Sys2Proof.Machine.execInvalidationDone pdk die s
  | .thrcntRead core id => Sys2Proof.Machine.execThrcntRead core id s
  | .partcntRead core id => Sys2Proof.Machine.execPartcntRead core id s
  | .loftstatRead core id => Sys2Proof.Machine.execLoftstatRead core id s
  | .registerWrite w => Sys2Proof.Machine.execRegisterWrite w s
  | .sensorSample readings => Sys2Proof.Machine.execSensorSample readings s
  | .thermalWarning die temp => Sys2Proof.Machine.execThermalWarning die temp s
  | .thermalTrip die => Sys2Proof.Machine.execThermalTrip die s
  | .linkRetryTimeout a b => Sys2Proof.Machine.execLinkRetryTimeout a b s
  | .cxlLinkDown port => Sys2Proof.Machine.execCxlLinkDown port s
  | .portDown port => Sys2Proof.Machine.execPortDown port s
  | .laneFailure lane => Sys2Proof.Machine.execLaneFailure lane s
  | .scrub pa => Sys2Proof.Machine.execScrub pa s
  | .standbyPowerGood => Sys2Proof.Machine.execStandbyPowerGood s
  | .mainPowerGood => Sys2Proof.Machine.execMainPowerGood s
  | .moduleReset r => Sys2Proof.Machine.execModuleReset r s
  | .launchMessage f => Sys2Proof.Machine.execLaunchMessage f s
  | .memrd f => Sys2Proof.Machine.execMemrd f s
  | .memwr f => Sys2Proof.Machine.execMemwr f s
  | .create f => Sys2Proof.Machine.execCreate f s
  | .modify f => Sys2Proof.Machine.execModify f s
  | .destroy f => Sys2Proof.Machine.execDestroy f s
  | .keyload f => Sys2Proof.Machine.execKeyload f s
  | .paddockReset f => Sys2Proof.Machine.execPaddockReset f s
  | .queryDeviceInfo f => Sys2Proof.Machine.execQueryDeviceInfo f s
  | .querySensor f => Sys2Proof.Machine.execQuerySensor f s
  | .queryPaddock f => Sys2Proof.Machine.execQueryPaddock f s
  | .queryFaultLog f => Sys2Proof.Machine.execQueryFaultLog f s
  | .queryDraw f => Sys2Proof.Machine.execQueryDraw f s
  | .queryCertificates f => Sys2Proof.Machine.execQueryCertificates f s
  | .syscfgDevid f => Sys2Proof.Machine.execSyscfgDevid f s
  | .syscfgPools f => Sys2Proof.Machine.execSyscfgPools f s
  | .syscfgWarn f => Sys2Proof.Machine.execSyscfgWarn f s
  | .syscfgScrub f => Sys2Proof.Machine.execSyscfgScrub f s
  | .attest f => Sys2Proof.Machine.execAttest f s
  | .logdata => Sys2Proof.Machine.execLogdata s
  | .fwdata value => Sys2Proof.Machine.execFwdata value s
  | .hold value => Sys2Proof.Machine.execHold value s
  | .fwstage value => Sys2Proof.Machine.execFwstage value s
  | .fwswap value => Sys2Proof.Machine.execFwswap value s
  | .warn mask => Sys2Proof.Machine.execWarn mask s
  | .undecodableInstruction word reason => Sys2Proof.Machine.execUndecodableInstruction word reason s
  | .unassignedType type f => Sys2Proof.Machine.execUnassignedType type f s
  | .mainPowerLoss => Sys2Proof.Machine.execMainPowerLoss s
  | .standbyPowerLoss => Sys2Proof.Machine.execStandbyPowerLoss s

end Sys2Proof.Machine
end

