-- ==== Sys2Proof/Machine/Run.lean ====
section
/-!
DEFINITION. One step of the device: who moves next (notes/assumptions/2.md), what a sequencer does at an instruction
boundary (13 R254, R278, R284; 04 R82), what an engine does with the head of its inbox (15 R319, R321), and the turns
that the model takes where no schedule says otherwise.
-/
namespace Sys2Proof.Machine

/-! ## Sequencers -/

/-- Whether a core has power and is out of reset (01 R18, R21). -/
def State.coreRuns (s : State) (c : CoreNum) : Bool :=
  s.mgmt.main && s.hub.ready && s.enabledCore c && !(s.die (dieOf c)).tripped

/-- The focused core's first trap that its running task raised, and the others. -/
def State.ownTrap (s : State) : Option (PendTrap × List PendTrap) :=
  takeFirst (fun t => !t.detached && t.owner == s.here) s.me.pipe.traps

/-- The focused core's first trap that belongs to no running task, and the others. -/
def State.strayTrap (s : State) : Option (PendTrap × List PendTrap) := takeFirst (·.detached) s.me.pipe.traps

/-- Whether a grant waits that the sequencer's TALLOC takes up first (06 R104). -/
def State.grantWaits (s : State) : Bool := (assocGet s.me.loft.granted .sequencer).isSome

/-- The focused core with the request of a waiting TALLOC withdrawn (06 R105). -/
def State.withdrawTalloc (s : State) : State :=
  s.mapMe fun c => { c with loft := c.loft.withdraw Requester.isSequencer, pipe := { c.pipe with tallocWait := false } }

/-- A trap of the running task taken at the boundary (13 R278, R285). -/
def State.takePending (s : State) (t : PendTrap) (rest : List PendTrap) : State :=
  let s := (s.mapPipe fun p => { p with traps := rest }).withdrawTalloc
  s.takeTrap t.info (t.tpc.getD s.pc) t.async

/-- The instruction word at the focused core's pc, when its line is in the instruction buffer. -/
def State.fetched (s : State) : Option IWord :=
  if s.pc.toNat % 4 ≠ 0 then none else (s.me.lineOf s.pc).map fun l => l.word s.pc

/-- The focused core's next instruction fetched, decoded and executed (13 R254, 12 R233). -/
def State.runNext (s : State) : Out :=
  match s.fetched with
  | none => exec (.instructionFetch s.cur) s
  | some w =>
    let s := s.mapMe fun c => c.useLine c.seq.pc
    match decode w with
    | .ok i => exec i s
    | .error r => exec (.undecodableInstruction w r) s

/-- The turn of an idle core: a supervisor trap that belongs to no running task is entered on it (13 R284). -/
def State.idleTurn (s : State) : Out :=
  match s.strayTrap with
  | some (t, rest) => .next ((s.mapPipe fun p => { p with traps := rest }).takeDetached t.owner.pdk t.info)
  | none => .next s

/-- The turn of a core with a task or a handler: a trap of its own, a stop, a supervisor trap for which the core is
freed, a sleep, or its next instruction. -/
def State.busyTurn (s : State) : Out :=
  match s.ownTrap, s.grantWaits with
  | some (t, rest), false => .next (s.takePending t rest)
  | _, grant =>
    match s.me.stopping.filter fun _ => !grant with
    | some w => .next (s.stopTask w)
    | none =>
      if s.strayTrap.isSome && s.me.mayStop then .next (s.mapMe fun c => { c with stopping := some none })
      else if s.me.sleeping.isSome then .next (s.mapMe fun c => c.endSleep s.clk)
      else s.runNext

/-- The turn of the focused core. -/
def State.coreTurn (s : State) : Out :=
  if !s.coreRuns s.cur then .next s
  else if s.me.task.isNone && s.me.detached.isNone then s.idleTurn
  else s.busyTurn

/-! ## Engines -/

/-- The first JPEEK of a list of commands moved to its front: it runs beside the others (10 R181). -/
def peekFirst (q : List Cmd) : List Cmd :=
  match takeFirst (fun k => pktOp k.packet == 0x25) q with
  | some (k, rest) => k :: rest
  | none => q

/-- Whether the focused core's queue of the BTE may start its next command: the one before has ended (05 R92). -/
def State.bteFree (s : State) : Bool :=
  (s.shadows.all fun x => x.core != s.cur || x.isJoin) && (s.me.suspended.all fun x => x.box != .bte)
    && s.mcasts.all fun m => m.core != s.cur

/-- The opcode of a command. -/
def Cmd.op (k : Cmd) : Nat := pktOp k.packet

/-- Whether the engine behind an inbox of the focused core may start a command: the one before has ended, or has been
sent (15 Table CMD-1). A JPEEK runs beside the others (10 R181). -/
def State.engineFree (s : State) (b : Box) : Bool :=
  match b with
  | .bte => s.bteFree
  | .ingress p => (portAt s.me.fabric.ingress p).run.isNone && s.me.fabric.loading.isNone
  | .egress p => (portAt s.me.fabric.egress p).run.isNone && s.me.fabric.loading.isNone
  | .join =>
    match s.me.join.inbox.head? with
    | some k => k.op == 0x25 || (s.me.suspended.filter fun x => x.box == .join).all fun x => x.cmd.op == 0x25 && k.accumulates
    | none => true
  | .remote | .ostler => s.me.suspended.all fun x => x.box != b
  | .control => true

/-- A command whose packet does not decode: refused after the checks that come before (15 R321). -/
def State.refusePacket (s : State) (b : Box) (k : Cmd) (e : PacketError) : State :=
  match e with
  | .header off => s.settle b k (.error (.fault s .illegalCmd 3 (some off)))
  | .ext => s.settle b k (.error (.fault s .illegalCmd 3 (some 104)))
  | .body i off =>
    match s.readDesc k i with
    | .error e => s.settle b k (.error e)
    | .ok (s', _) => s'.settle b k (.error (.fault s' .illegalCmd 3 (some off)))

/-- The turn of the engine behind an inbox of the focused core: the command at its head goes on. -/
def State.engineTurn (s : State) (b : Box) : Out :=
  let s := if b = .join then s.mapMe fun c => { c with join := { c.join with inbox := peekFirst c.join.inbox } } else s
  match (s.me.inbox b).head? with
  | none => .next s
  | some k =>
    if !s.coreRuns s.cur || !s.engineFree b then .next s
    else
      match decodePacket k.packet with
      | .ok i => exec i s
      | .error e => .next (s.refusePacket b k e)

/-! ## Events -/

/-- Whether a row is an event: what happens to the device rather than what a sequencer or an engine runs. -/
def isEvent (i : Instr) : Bool :=
  match i with
  | .divideResult _ | .loadReturn _ _ _ | .storeAcknowledge _ _ _ | .atomicAtHome _ _ | .fenceTokenFill _ _
  | .femptyTimeout _ _ | .fpResult _ | .wfeTimeout _ | .instructionFetch _ | .remoteDelivery _ | .commandCompletion _ _
  | .shadowPublish _ | .configurationStart _ | .mappingTimeout _ | .instant _ | .thrTimeout _ _ | .ctlmTimeout _ _
  | .ingLim _ _ | .dispatchClk _ | .generatorEnqueue _ _ | .groupRetire _ _ | .preemption _ | .fabricSaved _
  | .drainWindowEnd _ | .softError _ _ | .requeue _ _ | .abortRecord _ _ | .abortGroup _ _ | .holdActionEnd _ _
  | .deadlockSample | .loftGrantClk _ | .tileAdmission _ | .tileCount _ | .heldRelease _ | .admissionAnswer _
  | .tokenRingClk _ | .tokenHoldExpiry _ | .jtok _ _ | .go _ _ | .invalidationDone _ _ | .thrcntRead _ _ | .partcntRead _ _
  | .loftstatRead _ _ | .registerWrite _ | .sensorSample _ | .thermalWarning _ _ | .thermalTrip _ | .linkRetryTimeout _ _
  | .cxlLinkDown _ | .portDown _ | .laneFailure _ | .scrub _ | .standbyPowerGood | .mainPowerGood | .moduleReset _
  | .launchMessage _ | .memrd _ | .memwr _ | .create _ | .modify _ | .destroy _ | .keyload _ | .paddockReset _
  | .queryDeviceInfo _ | .querySensor _ | .queryPaddock _ | .queryFaultLog _ | .queryDraw _ | .queryCertificates _
  | .syscfgDevid _ | .syscfgPools _ | .syscfgWarn _ | .syscfgScrub _ | .attest _ | .logdata | .fwdata _ | .hold _
  | .fwstage _ | .fwswap _ | .warn _ | .unassignedType _ _ | .mainPowerLoss | .standbyPowerLoss => true
  | _ => false

/-! ## The turns that the model takes where no schedule stands -/

/-- Every inbox of a core. -/
def Box.all : List Box :=
  List.flatten [[.control, .join, .bte, .remote, .ostler], (upTo 16).map fun k => .ingress (BitVec.ofNat 4 k),
    (upTo 16).map fun k => .egress (BitVec.ofNat 4 k)]

/-- Events by which work that the focused core has under way goes on. -/
def State.pendingEvents (s : State) : List Instr :=
  let c := s.cur
  let p := s.me.pipe
  let when (b : Bool) (i : Instr) : List Instr := if b then [i] else []
  let ofMsg (m : TileMsg) : Instr :=
    match m.kind with
    | .admission => .tileAdmission m.id
    | .count => .tileCount m.id
    | .release => .heldRelease m.id
    | .answer _ _ _ => .admissionAnswer m.id
  List.flatten
    [p.stores.map fun x => .storeAcknowledge c x.id false, p.atomics.map fun x => .atomicAtHome c x.id,
      p.loads.map fun l => .loadReturn c l.id false, p.prds.map fun x => .loadReturn c x.id false,
      when p.divUnit.isSome (.divideResult c), when p.fpUnit.isSome (.fpResult c),
      [.loftGrantClk c], s.tileMsgs.map ofMsg, s.shadows.map fun x => .shadowPublish x.id,
      when s.me.fabric.loading.isSome (.configurationStart c), when s.me.fabric.config.isSome (.instant c),
      [.tokenRingClk (dieOf c)], s.me.done.map fun x => .commandCompletion c x.id, p.fences.map fun f => .fenceTokenFill c f.id]

/-- Engines of the focused core with a command to start. -/
def State.pendingBoxes (s : State) : List Box := Box.all.filter fun b => !(s.me.inbox b).isEmpty

/-- Events by which the Ostler goes on. -/
def State.ostlerEvents (s : State) : List Instr :=
  s.paddocks.flatMap (fun p => p.groups.flatMap fun g => [.generatorEnqueue p.num g.number, .groupRetire p.num g.number])
    ++ if s.paddocks.isEmpty then [] else (upTo 4).map fun k => .dispatchClk (BitVec.ofNat 2 k)

/-- One turn for everything that can go on, then for every core that has a task, a handler or a trap to take. -/
def State.defaultTurns (s : State) : List Turn :=
  let one (w : Mover) : Turn := { elapsed := 1, who := w }
  s.pendingEvents.map (fun i => one (.event i)) ++ s.pendingBoxes.map (fun b => one (.engine s.cur b))
    ++ s.ostlerEvents.map (fun i => one (.event i))
    ++ (s.liveCores.filter fun e => !(s.coreAt e.2).idle || !(s.coreAt e.2).pipe.traps.isEmpty).map fun e => one (.core e.2)

/-- After a turn that no schedule asked for: a core that waits or is idle leaves the next turns to the rest of the
device. -/
def State.reschedule (s : State) : State :=
  if s.me.block.okind ≠ 0 || s.me.idle || s.me.sleeping.isSome || s.me.stopping.isSome then
    { s with sched := s.defaultTurns }
  else s

/-! ## A step -/

/-- The place of an operation among those of one clk at its home: its class, then the number of its source core. -/
def placeOf (cls : Nat) (c : CoreNum) : Nat := 2048 * cls + c.toNat + 1

/-- What a turn does at a home: an operation on a word (14 R294, R299) or on a barrier (14 R303), with its place in
the clk (a remote core and the hub come after every core), an event on a tile, in the order of its source core (06 R107),
or the grant step of a core, which comes once in a clk and before what the clk releases (06 R104). -/
inductive HomeOp where
  | none
  | word (place : Nat)
  | barrier (place : Nat)
  | tile (place : Nat)
  | grant (core : CoreNum)
  deriving DecidableEq, Repr

/-- What a store-queue entry does at its home. -/
def StoreKind.homeOp (k : StoreKind) (c : CoreNum) : HomeOp :=
  match k with
  | .fput => .word (placeOf 0 c)
  | .fclr => .word (placeOf 2 c)
  | .plain | .stl => .word (placeOf 3 c)
  | .bararr => .barrier (placeOf 0 c)
  | .barexp _ => .barrier (placeOf 1 c)

/-- What an instruction does at a home when it issues. -/
def issueOp (i : Instr) (c : CoreNum) : HomeOp :=
  match i with
  | .ldf _ => .word (placeOf 1 c)
  | .bartok _ _ => .barrier (placeOf 2 c)
  | .yield _ .future => .word (placeOf 1 c)
  | .yield _ .barrier => .barrier (placeOf 2 c)
  | .tcons _ | .tfree _ | .etrig | .retire => .tile (placeOf 1 c)
  | _ => .none

/-- The place of a tile message among the events of its clk: that of the core that reads. -/
def State.msgOp (s : State) (id : Nat) : HomeOp :=
  match s.tileMsgs.find? fun m => m.id == id with
  | some m => if m.isAnswer then .none else .tile (placeOf 1 m.reader)
  | none => .none

/-- What an event does at a home. -/
def State.eventOp (s : State) (i : Instr) : HomeOp :=
  match i with
  | .storeAcknowledge c id _ =>
    match (s.coreAt c).pipe.stores.find? fun x => x.id == id with | some x => x.kind.homeOp c | none => .none
  | .atomicAtHome c _ => .word (placeOf 3 c)
  | .loadReturn c id _ =>
    match (s.coreAt c).pipe.loads.find? fun x => x.id == id with
    | some x => if x.kind = .fullBit then .word (placeOf 1 c) else .none
    | none => .none
  | .remoteDelivery _ | .memwr _ => .word (2048 * 4)
  | .tileAdmission id | .tileCount id | .heldRelease id => s.msgOp id
  | .instant c => .tile (placeOf 1 c)
  | .loftGrantClk c => .grant c
  | _ => .none

/-- What a mover does at a home. -/
def State.homeOp (s : State) (w : Mover) : HomeOp :=
  match w with
  | .core c =>
    match (s.focus c).fetched with
    | some x => (match decode x with | .ok i => issueOp i c | .error _ => .none)
    | none => .none
  | .event i => s.eventOp i
  | .engine c _ => .tile (placeOf 1 c)
  | .env _ => .none

/-- Whether an operation may still take place in the clk at hand: none that the order puts behind it has. -/
def State.inPlace (s : State) (o : HomeOp) : Bool :=
  match o with
  | .none => true
  | .word n => decide (s.inClk.word ≤ n)
  | .barrier n => decide (s.inClk.barrier ≤ n)
  | .tile n => decide (s.inClk.tile ≤ n)
  | .grant c => decide (s.inClk.tile ≤ c.toNat)

/-- The clk at hand with an operation noted. -/
def ClkMarks.note (m : ClkMarks) (o : HomeOp) : ClkMarks :=
  match o with
  | .none => m
  | .word n => { m with word := n }
  | .barrier n => { m with barrier := n }
  | .tile n => { m with tile := n }
  | .grant c => { m with tile := c.toNat + 1 }

/-- The device when a turn begins: the clk that pass before it, one more for an operation that its order in the clk
leaves no place for, which then reaches its home in the next clk (06 R104, R107, 14 R294, R299, R303; notes/assumptions/49.md). -/
def State.beginTurn (s : State) (t : Turn) : State :=
  let s := s.tick t.elapsed
  let o := s.homeOp t.who
  let s := if s.inPlace o then s else s.tick 1
  { s with inClk := s.inClk.note o }

/-- One turn: the clk that pass before it, then what its mover does. -/
def State.turn (s : State) (t : Turn) : Out :=
  let s := s.beginTurn t
  match t.who with
  | .core c => (s.focus c).coreTurn
  | .engine c b => (s.focus c).engineTurn b
  | .event i => if isEvent i then exec i s else .next s
  | .env a => .next (s.surround a)

/-- An outcome with its next state changed. -/
def mapNext (o : Out) (f : State → State) : Out :=
  match o with
  | .next s => .next (f s)
  | .fault r => .fault r
  | .refused r => .refused r

/-- One step: the turn at the head of the schedule, or one of the focused core. -/
def State.run (s : State) : Out :=
  match s.sched with
  | t :: rest => ({ s with sched := rest } : State).turn t
  | [] => mapNext (s.turn { elapsed := 1, who := .core s.cur }) State.reschedule

/-! ## Placing an instruction (notes/assumptions/1.md) -/

/-- The descriptor of the Paddock that a placed instruction runs in: cluster 0. -/
def PdkDesc.placed : PdkDesc :=
  { action := 1, maxReplay := 0, replayFab := false, replayCorral := false, replayLoft := false, abandonTrap := false,
    mirror := false, clusters := 1, ptroot := 0, stvec := 0, utvec := 0, keymask := 0, draw := [0, 0, 0, 0],
    parts := List.replicate 8 (0, 512), hbm := [{ base := 0, limit := 2 ^ 21 }], qbound := [65536, 65536, 65536, 65536] }

/-- The launch of a placed instruction: one record of level 0. -/
def Group.placed : Group :=
  { number := 0, prio := 0, rpl := false, ute := false, tile := false, entry := 0, fbase := 0, fstride := 0, doneFut := 0,
    levels := [{ count := 1, domain := .package, scope := .core, qbound := 0 }], counts := [1], next := 1,
    aborted := false, failed := false, firstFault := 0, abandoned := 0, replays := 0, seqCore := none, sink := .none }

/-- The record of a placed instruction, running on a core. -/
def Record.placed (c : CoreNum) : Record :=
  { Record.fresh (.level0 0 0) 0 0 0 false false false 0 0 0 0 .package c with state := .running c, run := 1 }

/-- A core that runs nothing given a task of a Paddock of its own. -/
def State.placeTask (s : State) : State :=
  if s.me.task.isSome || s.me.detached.isSome then s
  else
    let r := Record.placed s.cur
    let p : Paddock := { Paddock.fresh 0 PdkDesc.placed with records := [r], groups := [Group.placed], order := 1 }
    { s with paddocks := [p], me := { s.me with task := some (r.task 0 1 0 0) } }

/-- The line of the instruction buffer in which a word stands at an address. -/
def lineWith (pc : Word) (w : IWord) : FetchLine :=
  { tag := field pc 8 40, bytes := w.setWidth 2048 <<< (8 * (pc.toNat % 256)) }

/-- The focused core ready to issue, with a word at its pc in the instruction buffer. -/
def State.placeWord (s : State) (w : IWord) : State :=
  s.mapMe fun c =>
    let pc : Word := (field c.seq.pc 2 46 : BitVec 46).setWidth 64 <<< 2
    { c with
      seq := { c.seq with pc := pc }, ibuf := (lineWith pc w :: c.ibuf).take Config.ibufLines, sleeping := none, stopping := none
      pipe := { c.pipe with traps := [] } }

/-- The focused core with a packet at the head of the inbox that its opcode selects. -/
def State.placePacket (s : State) (p : Packet) : State :=
  match packetBox p with
  | none => s
  | some b =>
    let k := s.newCmd p
    { s.mapMe fun c => c.mapInbox b (k :: ·) with sched := { elapsed := 1, who := .engine s.cur b } :: s.sched }

/-- An instruction word or a command packet placed where the very next step takes it. -/
def State.place (s : State) (nbits w : Nat) : State :=
  let s := s.placeTask
  if nbits ≤ 32 then
    { s.placeWord (BitVec.ofNat 32 w) with sched := { elapsed := 1, who := .core s.cur } :: s.sched }
  else s.placePacket (BitVec.ofNat 128 w)

end Sys2Proof.Machine
end

