-- ==== Sys2Proof/Safety.lean ====
section
/-!
DEFINITION. The terms in which claims about the machine are stated: an instruction that answers a next state with a
property, operands ready to be used, what an instruction leaves unchanged, and the invariant of every step.
-/
namespace Sys2Proof.Machine

/-- A meaning answers a next state that has a property. -/
def Answers (o : Out) (p : State → Prop) : Prop := ∃ t, o = .next t ∧ p t

/-! ## Operands -/

/-- Registers that an instruction may read and write now: each is full, and no unit has still to write it (12 R228,
R229; 13 R266; 14 R316). -/
def State.settled (s : State) (rs : List Reg) : Prop := ∀ n ∈ rs, s.me.seq.isFull n = true ∧ s.unitPending n = false

/-- No acquire of the running task is outstanding, so memory, synchronisation, tile, task and command instructions may
issue (14 R295). -/
def State.mayIssue (s : State) : Prop := s.acquireHolds = false

/-- The address passes the checks of an access of `k` bytes (13 R274), which leaves the state `t` and finds the place
`u`. -/
def State.passes (s : State) (va : Word) (k : Nat) (a : Acc) (t : State) (u : Target) : Prop :=
  s.checked va k a = (t, .ok u)

/-- No queued store and no outstanding atomic of the running task touches a byte of an access (13 R277). -/
def State.clearOf (s : State) (u : Target) (n : Nat) : Prop := s.overlapStore u n = none ∧ s.overlapAtomic u n = false

/-- An outstanding access numbered `id` of the running task may perform and meets no error: no earlier access of the
task stands in its way, no failed link lies on its route, no bad word in what it reads (11 R208; 01 R9, R11). -/
def State.reaches (s : State) (id : Nat) (u : Target) (n : Nat) (wr : Bool) : Prop :=
  s.me.pipe.mayPerform s.here id u n = true ∧ s.accessError (some s.cur) u n wr = none

/-- A read that is made in one step goes on: no access of the running task to a byte of it is under way (11 R208), and
it meets no error (01 R9, R11). -/
def State.mayRead (s : State) (u : Target) (n : Nat) : Prop :=
  s.ownPending u n = false ∧ s.accessError (some s.cur) u n false = none

/-- No token and no record waits for a barrier phase or a future, so that a write wakes nobody (04 R77, R78). -/
def State.noneWait (s : State) : Prop :=
  (∀ c, (s.coreAt c).pipe.bartoks = []) ∧ ∀ p ∈ s.paddocks, ∀ r ∈ p.records, r.state ≠ .parked

/-- The bytes from a physical address on hold a value of `n` bytes in little-endian order (00 R2). -/
def State.holds (s : State) (key : Option (BitVec 512)) (a n : Nat) (v : Word) : Prop :=
  ∀ i < n, s.readPhys key (a + i) = v.extractLsb' (8 * i) 8

/-- A core's fabric has its sixteen ports on each side (08 R148). -/
def Core.portsWhole (c : Core) : Prop := c.fabric.ingress.length = 16 ∧ c.fabric.egress.length = 16

/-- No pending range holds a command that reads (11 R220): on its core no range of another command is unpublished, and no
command issued before it waits in the BTE or the join engine or for a tier page. -/
def State.noneHolds (s : State) (k : Cmd) : Prop :=
  (∀ r ∈ s.me.ranges, r.cmd = k.id) ∧ ∀ x ∈ s.me.bte ++ s.me.join.inbox ++ s.me.suspended.map (·.cmd), k.id ≤ x.id

/-- A packet stands in sixteen little-endian bytes from a physical address on (12 R225). -/
def State.holdsPacket (s : State) (key : Option (BitVec 512)) (a : Nat) (p : Packet) : Prop :=
  ∀ i < 16, s.readPhys key (a + i) = p.extractLsb' (8 * i) 8

/-! ## Frames -/

/-- Every register outside a list and its full bit are the same, and so is every system register but FFLAGS and the loop
registers. -/
def Seq.sameBut (q r : Seq) (rs : List Reg) : Prop :=
  (∀ n, n ∉ rs → r.reg n = q.reg n ∧ r.isFull n = q.isFull n)
    ∧ r.status = q.status ∧ r.trapcause = q.trapcause ∧ r.trappc = q.trappc ∧ r.trapval0 = q.trapval0
    ∧ r.trapval1 = q.trapval1 ∧ r.utvec = q.utvec ∧ r.stvec = q.stvec ∧ r.uscratch = q.uscratch
    ∧ r.sscratch = q.sscratch ∧ r.f8va = q.f8va ∧ r.f8vb = q.f8vb

/-- Memory is the same: every byte of local physical memory as any access reads it, every full bit, and every Loft. -/
def State.sameStorage (s t : State) : Prop :=
  (∀ key a, t.readPhys key a = s.readPhys key a) ∧ (∀ a, t.fullBit a = s.fullBit a)
    ∧ ∀ c slot off, (t.loftAt c).readByte slot off = (s.loftAt c).readByte slot off

/-- Every byte of local physical memory outside `n` bytes from an address on is the same as any access reads it. -/
def State.sameOutside (s t : State) (a n : Nat) : Prop :=
  ∀ key x, ¬ (a ≤ x ∧ x < a + n) → t.readPhys key x = s.readPhys key x

/-- The engines of the focused core, its task, every other core, every Paddock, die, message and shadow write, and the
hub are the same. -/
def State.sameRest (s t : State) : Prop :=
  t.cur = s.cur ∧ t.me.task = s.me.task ∧ t.me.fabric = s.me.fabric ∧ t.me.join = s.me.join ∧ t.me.loft = s.me.loft
    ∧ t.me.bte = s.me.bte ∧ t.me.remote = s.me.remote ∧ t.me.ostler = s.me.ostler ∧ t.others = s.others
    ∧ t.shadows = s.shadows ∧ t.tileMsgs = s.tileMsgs ∧ t.paddocks = s.paddocks ∧ t.hub = s.hub ∧ t.mgmt = s.mgmt

/-- The focused core's outstanding work is the same. -/
def State.samePipe (s t : State) : Prop := t.me.pipe = s.me.pipe

/-- The focused core's outstanding work is the same, but for the note of a read that has overtaken others (11 R219). -/
def State.samePipeButReads (s t : State) : Prop := t.me.pipe = { s.me.pipe with past := t.me.pipe.past }

/-- A store-queue entry is added and nothing else changes: every register, memory and the rest stay as they are, and a tile
task passes its horizon (04 R84). The entry has the next serial number. -/
def State.addsStore (s t : State) (va : Word) (u : Target) (n : Nat) (v : Word) (k : StoreKind) (rel : Bool) : Prop :=
  t.me.pipe = { s.me.pipe with
      nextId := s.me.pipe.nextId + 1
      stores := s.me.pipe.stores ++ [⟨s.me.pipe.nextId, s.pc, va, u, n, v, k, rel, s.here⟩] }
    ∧ t.me.seq = { s.me.seq.advance with
        status := { s.me.seq.status with horizon := s.me.seq.status.horizon || s.me.seq.status.tile } }
    ∧ s.sameStorage t ∧ s.sameRest t

/-- An outstanding load is added, with the next serial number, and its destination is empty; nothing else changes. -/
def State.addsLoad (s t : State) (va : Word) (u : Target) (n : Nat) (dst : Reg) (k : LoadKind) (acq : Bool) : Prop :=
  t.me.pipe = { s.me.pipe with
      nextId := s.me.pipe.nextId + 1
      loads := s.me.pipe.loads ++ [⟨s.me.pipe.nextId, s.pc, va, u, n, dst, k, acq, s.here⟩] }
    ∧ t.me.seq = (s.me.seq.setEmpty dst).advance ∧ s.sameStorage t ∧ s.sameRest t

/-! ## The invariant -/

/-- The memory is in its canonical form: addresses rise strictly and no entry equals what an unlisted byte reads as.
On a part of grade B two clusters of each die are fused off, on any other none (01 R7). -/
def State.Inv (s : State) : Prop := Memory.wf s.mem = true ∧ s.chip.wf = true

/-! ## The end of a task -/

/-- Nothing of the running task is outstanding that its RETIRE or ETRIG waits for (14 R308): no access and no result of a
`PRD`; on no core a fence, a barrier token, an FEMPTY, a command that waits or runs, or a completion; no multicast; no
shadow write with a token, a follow-on or a join write; no remote command; no group whose token is its own; and no
configuration. -/
def State.nothingOut (s : State) : Prop :=
  s.allIn = true
    ∧ (∀ c ∈ s.cores, (∀ f ∈ c.pipe.fences, f.owner ≠ s.here) ∧ (∀ b ∈ c.pipe.bartoks, b.owner ≠ s.here)
        ∧ (∀ e ∈ c.pipe.fempties, e.owner ≠ s.here) ∧ (∀ k ∈ c.commands, k.owner ≠ s.here) ∧ ∀ k ∈ c.done, k.owner ≠ s.here)
    ∧ (∀ m ∈ s.mcasts, m.cmd.owner ≠ s.here)
    ∧ (∀ x ∈ s.shadows, (∀ k, x.completion = some k → k.owner ≠ s.here) ∧ (∀ k, x.followOn = some k → k.owner ≠ s.here)
        ∧ (x.isJoin = true → x.owner ≠ s.here))
    ∧ (∀ x ∈ s.hub.remoteWaits, x.completion.owner ≠ s.here)
    ∧ (∀ p ∈ s.paddocks, ∀ g ∈ p.groups, ∀ c k, g.sink = .token c k → k.owner ≠ s.here)
    ∧ (∀ l, s.me.fabric.loading = some l → l.owner ≠ s.here) ∧ ∀ c, s.me.fabric.config = some c → c.owner ≠ s.here

/-! ## Host messages -/

/-- No rule discards a frame of a TYPE where a SEQ is expected (02 R22, R23): CHECK is the CRC-32C of header and payload,
LEN is the payload's length, at most 4,112 and the one that Table HST-2 gives the type, and no reserved field is set. -/
def frameGood (type : Byte) (f : Frame) (expect : BitVec 16) : Prop :=
  f.check = frameCheck type f ∧ f.seq = expect ∧ f.len.toNat = f.payload.length ∧ f.len.toNat ≤ 4112
    ∧ (∀ n, lenOf type f.payload = some n → f.len.toNat = n) ∧ f.flags.toNat < 2 ∧ f.reserved = 0

/-- Both control lanes take an event now: each is up and not stopped, no earlier event waits on it, and no event was lost
(02 R29, R45). -/
def State.lanesUp (s : State) : Prop :=
  ∀ l, (s.hub.lane l).up = true ∧ (s.hub.lane l).blocked = false ∧ (s.hub.lane l).buffer = [] ∧ (s.hub.lane l).lost = 0

/-- The hub performs a frame of a TYPE as soon as it arrives: READY has been sent, no rule discards the frame, and no
message waits on a lane. -/
def State.takes (s : State) (type : Byte) (f : Frame) : Prop :=
  s.hub.ready = true ∧ s.lanesUp ∧ (∀ l, (s.hub.lane l).queue = []) ∧ frameGood type f (s.hub.lane f.lane).expect

/-- The lane on which the events of a Paddock travel, lane 0 where there is none (02 R29). -/
def eventLane : Option PdkNum → Lane
  | none => .lane0
  | some n => if n.toNat % 2 = 0 then .lane0 else .lane1

/-- Events and then one RESPONSE have been sent: its TAG is the frame's and its payload a STATUS, a code and data (02
R25). No message is left on a lane, and the next SEQ is expected. -/
def State.responds (s t : State) (f : Frame) (own : Option PdkNum) (before : List (Lane × HostEvent)) (status code : Byte)
    (data : List Byte) : Prop :=
  t.hub.sent = s.hub.sent ++ before ++ [(eventLane own,
      { type := .response, tag := f.tag, pdk := own, payload := [status, code, 0, 0, 0, 0, 0, 0] ++ data, record := none })]
    ∧ (∀ l, (t.hub.lane l).queue = []) ∧ (t.hub.lane f.lane).expect = f.seq + 1

/-- A FAULT event of the hub has been sent in the place of a RESPONSE (02 R23 to R25). -/
def State.declines (s t : State) (f : Frame) (p : FaultRecord → Prop) : Prop :=
  ∃ e r, t.hub.sent = s.hub.sent ++ [(.lane0, e)] ∧ e.type = .fault ∧ e.tag = f.tag ∧ e.record = some r ∧ r.tag = f.tag
    ∧ r.source = 0x3FF ∧ r.time = s.clk ∧ p r

/-- Every field of a Paddock descriptor is in range and every reserved field zero (02 R31, R32, Table HST-6). -/
def State.descriptorFits (s : State) (b : List Byte) : Prop :=
  natAt b 2 1 < 128 ∧ natAt b 3 1 < 4 ∧ natAt b 4 4 = 0 ∧ natAt b 18 6 = 0 ∧ natAt b 272 240 = 0
    ∧ BitVec.ofNat 80 (natAt b 8 10) &&& s.chip.fused = 0 ∧ natAt b 24 8 % 4096 = 0
    ∧ (∀ k < 8, natAt b (64 + 8 * k) 2 ≤ natAt b (66 + 8 * k) 2 ∧ natAt b (66 + 8 * k) 2 ≤ 512 ∧ natAt b (68 + 8 * k) 4 = 0)
    ∧ natAt b 64 2 + natAt b 72 2 + natAt b 80 2 + natAt b 88 2 + natAt b 96 2 + natAt b 104 2 + natAt b 112 2
        + natAt b 120 2 ≤ 512
    ∧ (∀ k < 8, natAt b (128 + 16 * k) 8 % 2 ^ 21 = 0 ∧ natAt b (136 + 16 * k) 8 % 2 ^ 21 = 0
        ∧ natAt b (128 + 16 * k) 8 ≤ natAt b (136 + 16 * k) 8 ∧ natAt b (136 + 16 * k) 8 ≤ 0x9000000000)
    ∧ ∀ k < 4, 1 ≤ natAt b (256 + 4 * k) 4 ∧ natAt b (256 + 4 * k) 4 ≤ 65536

/-- A descriptor for Paddock `n` clashes with no other Paddock in clusters, key slots or HBM ranges; a range whose base
equals its limit is unused (02 R31, R32). -/
def State.descriptorApart (s : State) (n : PdkNum) (b : List Byte) : Prop :=
  ∀ p ∈ s.paddocks, p.num ≠ n → p.desc.clusters &&& BitVec.ofNat 80 (natAt b 8 10) = 0
    ∧ p.desc.keymask &&& BitVec.ofNat 64 (natAt b 48 8) = 0
    ∧ ∀ r ∈ p.desc.hbm, ∀ k < 8, r.limit ≤ natAt b (128 + 16 * k) 8 ∨ natAt b (136 + 16 * k) 8 ≤ r.base
        ∨ r.limit ≤ r.base ∨ natAt b (136 + 16 * k) 8 ≤ natAt b (128 + 16 * k) 8

/-- No share of a descriptor for Paddock `n` that rises above its old value brings the sum of shares on its die above the
die's pool less 7 × JTOK (02 R32, R33). -/
def State.sharesFit (s : State) (n : PdkNum) (old : List Nat) (b : List Byte) : Prop :=
  ∀ k < 4, natAt b (56 + 2 * k) 2 ≤ old.getD k 0
    ∨ ((s.paddocks.filter fun p => p.num != n).map fun p => p.desc.draw.getD k 0).sum + natAt b (56 + 2 * k) 2
        + 7 * (s.die (BitVec.ofNat 2 k)).jtok ≤ (s.die (BitVec.ofNat 2 k)).pool

/-- A descriptor holds what a payload gives (02 Table HST-6). -/
def PdkDesc.holds (d : PdkDesc) (b : List Byte) : Prop :=
  d.maxReplay.toNat = natAt b 2 1 % 16 ∧ d.replayFab = (natAt b 2 1).testBit 4 ∧ d.replayCorral = (natAt b 2 1).testBit 5
    ∧ d.replayLoft = (natAt b 2 1).testBit 6 ∧ d.abandonTrap = (natAt b 3 1).testBit 0 ∧ d.mirror = (natAt b 3 1).testBit 1
    ∧ d.clusters.toNat = natAt b 8 10 ∧ d.ptroot.toNat = natAt b 24 8 ∧ d.stvec.toNat = natAt b 32 8
    ∧ d.utvec.toNat = natAt b 40 8 ∧ d.keymask.toNat = natAt b 48 8
    ∧ (∀ k < 4, d.draw[k]? = some (natAt b (56 + 2 * k) 2) ∧ d.qbound[k]? = some (natAt b (256 + 4 * k) 4))
    ∧ ∀ k < 8, d.parts[k]? = some (natAt b (64 + 8 * k) 2, natAt b (66 + 8 * k) 2)
        ∧ d.hbm[k]? = some ⟨natAt b (128 + 16 * k) 8, natAt b (136 + 16 * k) 8⟩

/-- A Paddock has been stopped (02 R35): its cores run nothing and hold no tile, its HBM ranges read as zeros, every other
byte of memory stays, its key slots are zeroed and no other is. -/
def State.emptied (s t : State) (d : PdkDesc) : Prop :=
  (∀ c, d.ownsCore c = true → (t.coreAt c).task = none ∧ (t.coreAt c).loft.tiles = [])
    ∧ (∀ c, d.ownsCore c = false → t.coreAt c = { s.coreAt c with tlb := (t.coreAt c).tlb })
    ∧ (∀ a, inRanges d.hbm a = true → t.readPhys none a = 0)
    ∧ (s.Inv → ∀ key a, inRanges d.hbm a = false → t.readPhys key a = s.readPhys key a)
    ∧ ∀ k, assocGet t.hub.keys k = if d.keymask.getLsbD k.toNat then none else assocGet s.hub.keys k

end Sys2Proof.Machine
end

