-- ==== Sys2Proof/Certificates/Slice0/Obligations.lean ====
section
/-!
DEFINITION. The statements about the machine that are to be proved. Each docstring names the rules of spec/ that the
statement formalises, and says which clauses rest on a choice of the model (notes/assumptions/).
-/
open Sys2Proof Sys2Proof.Machine

/-! ## Scalar registers and operands -/

/-- 12 R227, R229: a register written is full and holds the value, s0 reads as zero, is always full and discards
writes, every other register keeps its value and full bit; a register marked empty keeps its value, and s0 stays full.
-/
def Obligations.RegisterFile : Prop :=
  ∀ (q : Seq) (n m : Reg) (v : Word),
    (n ≠ 0 → (q.put n v).reg n = v ∧ (q.put n v).isFull n = true)
      ∧ (q.put 0 v = q ∧ q.reg 0 = 0 ∧ q.isFull 0 = true)
      ∧ (m ≠ n → (q.put n v).reg m = q.reg m ∧ (q.put n v).isFull m = q.isFull m)
      ∧ (q.setEmpty n).reg m = q.reg m ∧ (q.setEmpty n).isFull m = (q.isFull m && (m != n || n == 0))

/-- 13 R257 (Table INT-1), R258 (Table INT-2): with its operands ready, each instruction of opcodes 0x01 and 0x02
writes the stated function of a and b to sd and goes on to the next instruction. -/
def Obligations.RegisterArithmetic : Prop :=
  ∀ (o : ROps) (s : State), s.settled [o.sa, o.sb, o.sd] →
    let a := s.reg o.sa
    let b := s.reg o.sb
    let n := b.toNat % 64
    let gives (i : Instr) (v : Word) : Prop := exec i s = .next (s.put o.sd v).advance
    let flag (c : Prop) [Decidable c] : Word := if c then 1 else 0
    gives (.add o) (a + b) ∧ gives (.sub o) (a - b) ∧ gives (.and o) (a &&& b) ∧ gives (.or o) (a ||| b)
      ∧ gives (.xor o) (a ^^^ b) ∧ gives (.andn o) (a &&& ~~~b) ∧ gives (.orn o) (a ||| ~~~b)
      ∧ gives (.shl o) (a <<< n) ∧ gives (.shr o) (a >>> n) ∧ gives (.sar o) (a.sshiftRight n)
      ∧ gives (.rotl o) (a.rotateLeft n)
      ∧ gives (.min o) (if a.toInt ≤ b.toInt then a else b) ∧ gives (.max o) (if a.toInt ≤ b.toInt then b else a)
      ∧ gives (.minu o) (if a.toNat ≤ b.toNat then a else b) ∧ gives (.maxu o) (if a.toNat ≤ b.toNat then b else a)
      ∧ gives (.seq o) (flag (a = b)) ∧ gives (.sne o) (flag (a ≠ b)) ∧ gives (.slt o) (flag (a.toInt < b.toInt))
      ∧ gives (.sltu o) (flag (a.toNat < b.toNat))

/-- 13 R259, R262 (Table INT-4): the results of CLZ, CTZ, POPC, BREV, SEXT, ZEXT, BFX, BFXS and BFI said bit by bit.
The encodings hold width − 1 and length − 1, and no encoding has a field beyond bit 63. -/
def Obligations.BitOperations : Prop :=
  (∀ (o : UOps) (s : State), s.settled [o.sa, o.sd] →
     let a := s.reg o.sa
     let gives (i : Instr) (v : Word) : Prop := exec i s = .next (s.put o.sd v).advance
     (∃ c ≤ 64, gives (.clz o) (BitVec.ofNat 64 c) ∧ (∀ k < c, a.getLsbD (63 - k) = false)
         ∧ (c < 64 → a.getLsbD (63 - c) = true))
       ∧ (∃ c ≤ 64, gives (.ctz o) (BitVec.ofNat 64 c) ∧ (∀ k < c, a.getLsbD k = false) ∧ (c < 64 → a.getLsbD c = true))
       ∧ gives (.popc o) (BitVec.ofNat 64 ((List.range 64).countP fun k => a.getLsbD k))
       ∧ ∃ r : Word, gives (.brev o) r ∧ ∀ i < 64, r.getLsbD i = a.getLsbD (63 - i))
  ∧ (∀ (s : State),
       (∀ (o : ShiftOps), s.settled [o.sa, o.sd] →
         let a := s.reg o.sa
         let w := o.amount.toNat + 1
         ∃ x z : Word, exec (.sext o) s = .next (s.put o.sd x).advance ∧ exec (.zext o) s = .next (s.put o.sd z).advance
           ∧ ∀ i < 64, x.getLsbD i = a.getLsbD (min i (w - 1)) ∧ z.getLsbD i = (decide (i < w) && a.getLsbD i))
       ∧ ∀ (o : FieldOps), WellFormed (.bfx o) → s.settled [o.sa, o.sd] →
         let a := s.reg o.sa
         let old := s.reg o.sd
         let p := o.pos.toNat
         let n := o.len.toNat + 1
         ∃ z x f : Word, exec (.bfx o) s = .next (s.put o.sd z).advance ∧ exec (.bfxs o) s = .next (s.put o.sd x).advance
           ∧ exec (.bfi o) s = .next (s.put o.sd f).advance
           ∧ ∀ i < 64, z.getLsbD i = (decide (i < n) && a.getLsbD (p + i)) ∧ x.getLsbD i = a.getLsbD (p + min i (n - 1))
             ∧ f.getLsbD i = if p ≤ i ∧ i < p + n then a.getLsbD (i - p) else old.getLsbD i)

/-- 13 R260, R261 (Table INT-3), R263: LEA, the immediate arithmetic and the constant builders; LIS1, LIS2 and LIS3
read the old sd. -/
def Obligations.Immediates : Prop :=
  (∀ (s : State),
     (∀ (o : ROps) (k : BitVec 2), s.settled [o.sa, o.sb, o.sd] →
       exec (.lea o k) s = .next (s.put o.sd (s.reg o.sa + (s.reg o.sb <<< k.toNat))).advance)
     ∧ (∀ (o : IOps), s.settled [o.sa, o.sd] →
       let a := s.reg o.sa
       let i := o.imm.signExtend 64
       let gives (x : Instr) (v : Word) : Prop := exec x s = .next (s.put o.sd v).advance
       gives (.addi o) (a + i) ∧ gives (.andi o) (a &&& i) ∧ gives (.ori o) (a ||| i) ∧ gives (.xori o) (a ^^^ i)
         ∧ gives (.slti o) (if a.toInt < i.toInt then 1 else 0) ∧ gives (.sltiu o) (if a.toNat < i.toNat then 1 else 0))
     ∧ ∀ (o : ShiftOps), s.settled [o.sa, o.sd] →
       let a := s.reg o.sa
       let n := o.amount.toNat
       let gives (x : Instr) (v : Word) : Prop := exec x s = .next (s.put o.sd v).advance
       gives (.shli o) (a <<< n) ∧ gives (.shri o) (a >>> n) ∧ gives (.sari o) (a.sshiftRight n))
  ∧ (∀ (s : State),
       (∀ (o : LOps), s.settled [o.sd] →
         let old := s.reg o.sd
         exec (.li o) s = .next (s.put o.sd (o.imm.signExtend 64)).advance
           ∧ exec (.lis1 o) s = .next (s.put o.sd (old.extractLsb' 36 28 ++ o.imm ++ old.extractLsb' 0 18)).advance
           ∧ exec (.lis2 o) s = .next (s.put o.sd (old.extractLsb' 54 10 ++ o.imm ++ old.extractLsb' 0 36)).advance)
       ∧ ∀ (sd : Reg) (imm : BitVec 10), s.settled [sd] →
         exec (.lis3 sd imm) s = .next (s.put sd (imm ++ (s.reg sd).extractLsb' 0 54)).advance)

/-- 13 R264, R265: a multiply writes its product; a divide whose divider is free enters it with the quotient or the
remainder of R265, and DIVIDE_RESULT writes it (R266). The quotient and remainder are R265's lines: the divisor zero,
the signed overflow, truncation toward zero. That the divider takes one instruction at a time is R266. 13 R266, 14
R316: DIVIDE_RESULT and FP_RESULT write the result of the running task's unfinished divide, or of its FDIV or FSQRT,
into its destination, free the unit and change nothing else. -/
def Obligations.MultiplyDivide : Prop :=
  (∀ (o : ROps) (s : State), s.settled [o.sa, o.sb, o.sd] →
     let a := s.reg o.sa
     let b := s.reg o.sb
     let ones : Word := BitVec.allOnes 64
     let gives (i : Instr) (v : Word) : Prop := exec i s = .next (s.put o.sd v).advance
     let enters (i : Instr) (v : Word) : Prop :=
       exec i s = .next (s.mapPipe fun p => { p with divUnit := some { dst := o.sd, value := v, owner := s.here } }).advance
     gives (.mul o) (BitVec.ofNat 64 (a.toNat * b.toNat)) ∧ gives (.mulhi o) (BitVec.ofInt 64 (a.toInt * b.toInt / 2 ^ 64))
       ∧ gives (.mulhiu o) (BitVec.ofNat 64 (a.toNat * b.toNat / 2 ^ 64))
       ∧ (s.me.pipe.divUnit = none →
           (b = 0 → enters (.div o) ones ∧ enters (.divu o) ones ∧ enters (.rem o) a ∧ enters (.remu o) a)
           ∧ (b ≠ 0 → enters (.divu o) (BitVec.ofNat 64 (a.toNat / b.toNat))
               ∧ enters (.remu o) (BitVec.ofNat 64 (a.toNat % b.toNat)))
           ∧ (b ≠ 0 → a = BitVec.intMin 64 → b = ones → enters (.div o) a ∧ enters (.rem o) 0)
           ∧ (b ≠ 0 → ¬ (a = BitVec.intMin 64 ∧ b = ones) →
               enters (.div o) (BitVec.ofInt 64 (a.toInt.tdiv b.toInt))
               ∧ enters (.rem o) (BitVec.ofInt 64 (a.toInt - a.toInt.tdiv b.toInt * b.toInt)))))
  ∧ (∀ (s : State) (r : PendResult), r.owner = s.here →
       (s.me.pipe.divUnit = some r →
         exec (.divideResult s.cur) s = .next ((s.mapPipe fun p => { p with divUnit := none }).put r.dst r.value))
       ∧ (s.me.pipe.fpUnit = some r →
         exec (.fpResult s.cur) s = .next ((s.mapPipe fun p => { p with fpUnit := none }).put r.dst r.value)))

/-- The frame of the instructions of opcodes 0x01 to 0x04, 0x10 to 0x24 (12 R227, R229; 13 R257 to R266): with ready
operands, every register but sd, every system register, FFLAGS, memory, the engines and the rest of the device stay as
they are. For a divide sd stays as well, and only the divider changes in the outstanding work. The frame of branches,
jumps and LOOP (13 R267 to R273): with ready operands and no trap, every register but the link register, every system
register but the loop registers, memory and the rest stay as they are. -/
def Obligations.ComputeFrames : Prop :=
  (∀ (s t : State),
     let kept (rs : List Reg) : Prop :=
       s.me.seq.sameBut t.me.seq rs ∧ t.me.seq.fflags = s.me.seq.fflags ∧ s.sameStorage t ∧ s.sameRest t
     (∀ (o : ROps) (k : BitVec 2) (i : Instr), i ∈ ([.add o, .sub o, .and o, .or o, .xor o, .andn o, .orn o, .shl o, .shr o,
         .sar o, .rotl o, .min o, .max o, .minu o, .maxu o, .seq o, .sne o, .slt o, .sltu o, .mul o, .mulhi o, .mulhiu o,
         .lea o k] : List Instr) →
       s.settled [o.sa, o.sb, o.sd] → exec i s = .next t → kept [o.sd] ∧ s.samePipe t)
     ∧ (∀ (o : ROps) (i : Instr), i ∈ ([.div o, .divu o, .rem o, .remu o] : List Instr) →
       s.settled [o.sa, o.sb, o.sd] → exec i s = .next t →
         kept [] ∧ t.me.pipe = { s.me.pipe with divUnit := t.me.pipe.divUnit })
     ∧ (∀ (o : UOps) (i : Instr), i ∈ ([.clz o, .ctz o, .popc o, .brev o] : List Instr) →
       s.settled [o.sa, o.sd] → exec i s = .next t → kept [o.sd] ∧ s.samePipe t)
     ∧ (∀ (o : IOps) (i : Instr), i ∈ ([.addi o, .andi o, .ori o, .xori o, .slti o, .sltiu o] : List Instr) →
       s.settled [o.sa, o.sd] → exec i s = .next t → kept [o.sd] ∧ s.samePipe t)
     ∧ (∀ (o : ShiftOps) (i : Instr), i ∈ ([.shli o, .shri o, .sari o, .sext o, .zext o] : List Instr) →
       s.settled [o.sa, o.sd] → exec i s = .next t → kept [o.sd] ∧ s.samePipe t)
     ∧ (∀ (o : FieldOps) (i : Instr), i ∈ ([.bfx o, .bfxs o, .bfi o] : List Instr) →
       s.settled [o.sa, o.sd] → exec i s = .next t → kept [o.sd] ∧ s.samePipe t)
     ∧ (∀ (o : LOps) (i : Instr), i ∈ ([.li o, .lis1 o, .lis2 o] : List Instr) →
       s.settled [o.sd] → exec i s = .next t → kept [o.sd] ∧ s.samePipe t)
     ∧ ∀ (sd : Reg) (imm : BitVec 10), s.settled [sd] → exec (.lis3 sd imm) s = .next t → kept [sd] ∧ s.samePipe t)
  ∧ (∀ (s t : State),
       let kept (rs : List Reg) : Prop := s.me.seq.sameBut t.me.seq rs ∧ t.me.seq.fflags = s.me.seq.fflags
         ∧ s.sameStorage t ∧ s.sameRest t ∧ s.samePipe t
       (∀ (o : BOps) (i : Instr), i ∈ ([.beq o, .bne o, .blt o, .bge o, .bltu o, .bgeu o] : List Instr) →
         s.settled [o.sa, o.sb] → exec i s = .next t → kept [])
       ∧ (∀ off, exec (.jmp off) s = .next t → kept [])
       ∧ (∀ off, s.settled [62] → exec (.jal off) s = .next t → kept [62])
       ∧ (∀ (o : SOps) (imm : BitVec 11), s.settled [o.sa] → (s.reg o.sa).toNat % 4 = 0 → exec (.jr o imm) s = .next t →
           kept [])
       ∧ (∀ (o : IOps), s.settled [o.sa, o.sd] → (s.reg o.sa).toNat % 4 = 0 → exec (.jalr o) s = .next t → kept [o.sd])
       ∧ ∀ (o : SOps) (last : BitVec 17), s.settled [o.sa] → s.me.seq.loops = [] → exec (.loop o last) s = .next t → kept [])

/-- 12 R228: sources are examined in order. The first empty one whose bit is 1 raises EMPTY_SRC with the register's
number and 0; where the register is empty and no field that names it has the bit, the instruction waits. Said of the
two sources of opcode 0x01 (ADD stands for every form, which all share the examination). -/
def Obligations.EmptySources : Prop :=
  ∀ (o : ROps) (s : State),
    let empty (n : Reg) : Prop := s.me.seq.isFull n = false
    let traps (n : Reg) : Prop := exec (.add o) s = s.trap .emptySrc (n.setWidth 64) 0
    let waits (n : Reg) : Prop := exec (.add o) s = s.stall (s.regBlock n)
    (empty o.sa → o.ea = true → traps o.sa)
      ∧ (empty o.sa → o.sb = o.sa → o.eb = true → traps o.sa)
      ∧ (empty o.sa → o.ea = false → ¬ (o.sb = o.sa ∧ o.eb = true) → waits o.sa)
      ∧ (s.settled [o.sa] → empty o.sb → o.eb = true → traps o.sb)
      ∧ (s.settled [o.sa] → empty o.sb → o.eb = false → waits o.sb)
      ∧ (s.settled [o.sa, o.sb] → empty o.sd → waits o.sd)

/-! ## Branches, jumps and loops -/

/-- 13 R267, R268, R269: conditional branches, JMP, JAL, JR and JALR with ready operands. -/
def Obligations.Transfers : Prop :=
  ∀ (s : State),
    (∀ (o : BOps), s.settled [o.sa, o.sb] →
      let a := s.reg o.sa
      let b := s.reg o.sb
      let goes (i : Instr) (taken : Prop) [Decidable taken] : Prop :=
        exec i s = .next (if taken then s.jump (s.pc + o.off.signExtend 64 * 4) true else s.advance)
      goes (.beq o) (a = b) ∧ goes (.bne o) (a ≠ b) ∧ goes (.blt o) (a.toInt < b.toInt) ∧ goes (.bge o) (b.toInt ≤ a.toInt)
        ∧ goes (.bltu o) (a.toNat < b.toNat) ∧ goes (.bgeu o) (b.toNat ≤ a.toNat))
    ∧ (∀ (off : BitVec 24), exec (.jmp off) s = .next (s.jump (s.pc + off.signExtend 64 * 4) true)
        ∧ (s.settled [62] → exec (.jal off) s = .next ((s.put 62 (s.pc + 4)).jump (s.pc + off.signExtend 64 * 4) false)))
    ∧ (∀ (o : SOps) (imm : BitVec 11), s.settled [o.sa] →
        let t := s.reg o.sa + imm.signExtend 64 * 4
        (t.toNat % 4 = 0 → exec (.jr o imm) s = .next (s.jump t true))
          ∧ (t.toNat % 4 ≠ 0 → exec (.jr o imm) s = s.trap .misalign t 4))
    ∧ ∀ (o : IOps), s.settled [o.sa, o.sd] →
        let t := s.reg o.sa + o.imm.signExtend 64 * 4
        (t.toNat % 4 = 0 → exec (.jalr o) s = .next ((s.put o.sd (s.pc + 4)).jump t false))
          ∧ (t.toNat % 4 ≠ 0 → exec (.jalr o) s = s.trap .misalign t 4)

/-- 13 R272: the examination of the loop entries when an instruction completes without a transfer. 13 R271: LOOP in
its order of checks: depth 4, an inner body that leaves the innermost one, a count of zero, and the push. -/
def Obligations.Loops : Prop :=
  (∀ (q : Seq),
     (q.loops = [] → q.advance = { q with pc := q.pc + 4 })
       ∧ ∀ (e : LoopEntry) (rest : List LoopEntry), q.loops = e :: rest →
         (e.last ≠ q.pc → q.advance = { q with pc := q.pc + 4 })
           ∧ (e.last = q.pc → e.count - 1 ≠ 0 →
               q.advance = { q with pc := e.start, loops := { e with count := e.count - 1 } :: rest })
           ∧ (e.last = q.pc → e.count - 1 = 0 → q.advance = ({ q with loops := rest } : Seq).advance))
  ∧ (∀ (o : SOps) (last : BitVec 17) (s : State), WellFormed (.loop o last) → s.settled [o.sa] →
       let word : Word := (encode (.loop o last)).setWidth 64
       let l := s.pc + last.setWidth 64 * 4
       let n := s.reg o.sa
       let loops := s.me.seq.loops
       let outside : Prop := ∃ e rest, loops = e :: rest ∧ (e.start.toNat ≤ s.pc.toNat ∧ s.pc.toNat ≤ e.last.toNat)
         ∧ e.last.toNat < l.toNat
       (loops.length = 4 → exec (.loop o last) s = s.trap .illegal word 0x10)
         ∧ (loops.length ≠ 4 → outside → exec (.loop o last) s = s.trap .illegal word 0x11)
         ∧ (loops.length ≠ 4 → ¬ outside → n = 0 → exec (.loop o last) s = .next (s.jump (l + 4) false))
         ∧ (loops.length ≠ 4 → ¬ outside → n ≠ 0 →
             exec (.loop o last) s =
               .next (s.mapSeq fun q => { q with loops := { start := s.pc + 4, last := l, count := n } :: loops }).advance))

/-- 13 R273: a taken branch, JMP or JR pops the entries whose body contains the transferring instruction but not its
target, from the innermost outward, and no other; JAL, JALR, trap entry and ERET pop none. The next address is the
target. That LOOP with a count of zero pops none either is the model's reading (notes/assumptions/40.md). -/
def Obligations.LoopPops : Prop :=
  ∀ (s : State),
    let q := s.me.seq
    let inBody (e : LoopEntry) (a : Word) : Prop := e.start.toNat ≤ a.toNat ∧ a.toNat ≤ e.last.toNat
    let pops (u : State) (t : Word) : Prop := u.me.seq.pc = t
      ∧ ∃ gone, q.loops = gone ++ u.me.seq.loops ∧ (∀ e ∈ gone, inBody e q.pc ∧ ¬ inBody e t)
        ∧ ∀ e rest, u.me.seq.loops = e :: rest → ¬ (inBody e q.pc ∧ ¬ inBody e t)
    let rel {n : Nat} (off : BitVec n) : Word := q.pc + off.signExtend 64 * 4
    (∀ o : BOps, s.settled [o.sa, o.sb] →
      let a := s.reg o.sa
      let b := s.reg o.sb
      let jumps (i : Instr) (taken : Prop) : Prop := taken → Answers (exec i s) fun u => pops u (rel o.off)
      jumps (.beq o) (a = b) ∧ jumps (.bne o) (a ≠ b) ∧ jumps (.blt o) (a.toInt < b.toInt) ∧ jumps (.bge o) (b.toInt ≤ a.toInt)
        ∧ jumps (.bltu o) (a.toNat < b.toNat) ∧ jumps (.bgeu o) (b.toNat ≤ a.toNat))
    ∧ (∀ off, Answers (exec (.jmp off) s) fun u => pops u (rel off))
    ∧ (∀ (o : SOps) (imm : BitVec 11), s.settled [o.sa] → (s.reg o.sa + imm.signExtend 64 * 4).toNat % 4 = 0 →
        Answers (exec (.jr o imm) s) fun u => pops u (s.reg o.sa + imm.signExtend 64 * 4))
    ∧ (∀ off u, exec (.jal off) s = .next u → s.settled [62] → u.me.seq.loops = q.loops)
    ∧ (∀ o u, exec (.jalr o) s = .next u → s.settled [o.sa, o.sd] → u.me.seq.loops = q.loops)
    ∧ (∀ u, exec .eret s = .next u → u.me.seq.loops = q.loops)
    ∧ ∀ f pc async, (s.takeTrap f pc async).me.seq.loops = q.loops

/-! ## Traps and the system registers -/

/-- 13 R284, R285: the entry of a trap that is no machine check. TRAPCAUSE, TRAPPC, TRAPVAL0, TRAPVAL1, STATUS and the
pc are as the listing says; no loop entry, scalar register, full bit or other system register changes, and memory and
the engines stay as they are. A fault of a command without a token goes to the supervisor whatever its code (15 R320).
13 R285, 02 R44: a supervisor trap, or a user-level trap redirected to the supervisor, that finds INTRAP set at
PADDOCK is a machine check: no trap register changes, the core becomes idle, the record is held with HCODE the code,
and a MACHINE_CHECK with VAL0 the code and the trap's PC is the newest record of the fault log (said where the task
has no caller). -/
def Obligations.TrapEntry : Prop :=
  (∀ (s : State) (f : FaultInfo) (tpc : Word) (async : Bool),
     let q := s.me.seq
     let st := q.status
     let user : Bool := decide (f.code ∈ ([.emptySrc, .futureEmpty, .tierMiss, .queueFull, .brk] : List Code)) && !f.sup
     let redir := user && (!st.ute || st.intrap)
     ¬ ((!user || redir) = true ∧ st.intrap = true ∧ st.priv = .paddock) →
     let t := s.takeTrap f tpc async
     let r := t.me.seq
     let n (b : Bool) (k : Nat) : Nat := if b then 2 ^ k else 0
     r.trapcause.toNat = f.code.toByte.toNat + n async 8 + n redir 9 + n (decide (st.priv = .paddock)) 10 + n st.intrap 12
       ∧ r.trappc = tpc ∧ r.trapval0 = f.val0 ∧ r.trapval1 = f.val1
       ∧ r.status = { st with ppriv := st.priv, intrap := true, priv := if user && !redir then st.priv else .paddock }
       ∧ r.pc = (if user && !redir then q.utvec else q.stvec)
       ∧ r.regs = q.regs ∧ r.full = q.full ∧ r.loops = q.loops ∧ r.fflags = q.fflags ∧ r.utvec = q.utvec ∧ r.stvec = q.stvec
       ∧ r.uscratch = q.uscratch ∧ r.sscratch = q.sscratch ∧ r.f8va = q.f8va ∧ r.f8vb = q.f8vb
       ∧ s.sameStorage t ∧ s.samePipe t ∧ t.me.task = s.me.task ∧ t.me.fabric = s.me.fabric ∧ t.me.join = s.me.join
       ∧ t.others = s.others ∧ t.paddocks = s.paddocks ∧ t.shadows = s.shadows ∧ t.tileMsgs = s.tileMsgs)
  ∧ (∀ (s : State) (f : FaultInfo) (tpc : Word) (async : Bool) (k : Task),
       let st := s.me.seq.status
       let user : Bool := f.code.isUser && !f.sup
       let redir := user && (!st.ute || st.intrap)
       (!user || redir) = true → st.intrap = true → st.priv = .paddock → s.me.task = some k → s.me.callers = [] →
       let t := s.takeTrap f tpc async
       t.me.seq = s.me.seq ∧ t.me.task = none ∧ t.me.detached = none
         ∧ t.record? k.owner = (s.record? k.owner).map (fun r => { r.hold f.code.toByte with triggered := k.triggered })
         ∧ ∃ r, t.mgmt.log.getLast? = some r ∧ r.code = 0x7F ∧ r.machine = true ∧ r.pc = tpc ∧ r.source = s.cur
             ∧ r.val0 = f.code.toByte.setWidth 64)

/-- 13 R287: TRAP. Its word has all other fields zero; it raises a supervisor trap with CODE 0x00, TRAPVAL0 n,
TRAPVAL1 0 and TRAPPC pc + 4, orders no access (the outstanding work is unchanged) and does not pass the replay
horizon; ERET then continues after it. (A pc that is no multiple of 4 is never the address of an instruction: 13
R256.) -/
def Obligations.ServiceRequest : Prop :=
  ∀ (n : BitVec 11) (s : State),
    let q := s.me.seq
    encode (.trap n) = (0x90#8 ++ 0#13 ++ n : BitVec 32)
      ∧ (¬ (q.status.intrap = true ∧ q.status.priv = .paddock) →
        Answers (exec (.trap n) s) fun t =>
          let r := t.me.seq
          r.trapcause.toNat % 2 ^ 9 = 0 ∧ r.trapval0 = n.setWidth 64 ∧ r.trapval1 = 0 ∧ r.trappc = q.pc + 4 ∧ r.pc = q.stvec
            ∧ r.status.priv = .paddock ∧ r.status.horizon = q.status.horizon ∧ s.samePipe t
            ∧ ((q.pc + 4).toNat % 4 = 0 →
                Answers (exec .eret t) fun u => u.me.seq.pc = q.pc + 4 ∧ u.me.seq.status.priv = q.status.priv))

/-- 13 R288: BKPT. Its word has every field zero; it raises BREAK, a user-level trap, with TRAPPC its own address and
both trap values 0; an ERET without a change to TRAPPC goes back to it. -/
def Obligations.Breakpoint : Prop :=
  ∀ (s : State),
    let q := s.me.seq
    encode .bkpt = (0x97#8 ++ 0#24 : BitVec 32) ∧ Code.brk.toByte = 0x08 ∧ Code.brk.isUser = true
      ∧ (¬ (q.status.intrap = true ∧ q.status.priv = .paddock) →
        Answers (exec .bkpt s) fun t =>
          let r := t.me.seq
          r.trapcause.toNat % 2 ^ 8 = 8 ∧ r.trappc = q.pc ∧ r.trapval0 = 0 ∧ r.trapval1 = 0
            ∧ (q.status.ute = true → q.status.intrap = false → r.pc = q.utvec ∧ r.status.priv = q.status.priv)
            ∧ (q.status.ute = false ∨ q.status.intrap = true → r.pc = q.stvec ∧ r.status.priv = .paddock)
            ∧ (q.pc.toNat % 4 = 0 → Answers (exec .eret t) fun u => u.me.seq.pc = q.pc))

/-- 13 R286: ERET in the order of its checks: it completes where INTRAP is 1 and PPRIV is not above PRIV, with
DETACHED set by making the core idle, else by going to TRAPPC. The target that is no multiple of 4 raises MISALIGN (13
R256; that it does so at the ERET is the model's choice, notes/assumptions/41.md). -/
def Obligations.TrapReturn : Prop :=
  ∀ (s : State),
    let q := s.me.seq
    let st := q.status
    (st.intrap = false → exec .eret s = s.trap .illegal 0x91000000 0x12)
      ∧ (st.intrap = true → st.priv = .user → st.ppriv = .paddock → exec .eret s = s.trap .privilege 0x91000000 0)
      ∧ (st.intrap = true → ¬ (st.priv = .user ∧ st.ppriv = .paddock) →
          (q.trapcause.getLsbD 13 = true → ∃ t, exec .eret s = .next t
              ∧ t.me.detached = none ∧ t.me.task = none ∧ t.me.seq.status = { st with intrap := false, priv := .user }
              ∧ t.me.seq.regs = q.regs ∧ s.sameStorage t)
          ∧ (q.trapcause.getLsbD 13 = false → q.trappc.toNat % 4 = 0 → ∃ t, exec .eret s = .next t
              ∧ t.me.seq = { q with pc := q.trappc, status := { st with priv := st.ppriv, ppriv := .user, intrap := false } }
                ∧ s.sameStorage t ∧ s.sameRest t ∧ s.samePipe t))

/-- 13 R280 (Table INT-7): the fields of STATUS as MFS reads them, each 0 at reset, and what a write changes: at
PADDOCK the values 2 and 3 leave PRIV or PPRIV as they are, at USER only INTRAP changes, and the read-only fields
never do. -/
def Obligations.StatusFields : Prop :=
  (∀ (s : State),
    let st := s.me.seq.status
    let w := s.readSys .status
    let n (p : Priv) : Nat := match p with | .user => 0 | .paddock => 1
    (w.extractLsb' 0 2).toNat = n st.priv ∧ (w.extractLsb' 2 2).toNat = n st.ppriv ∧ w.getLsbD 4 = st.intrap
      ∧ w.getLsbD 5 = st.ute ∧ w.getLsbD 6 = st.tile ∧ w.getLsbD 7 = st.rpl ∧ w.getLsbD 8 = st.horizon
      ∧ w.getLsbD 9 = st.event ∧ w.extractLsb' 10 54 = 0)
  ∧ State.reset.readSys .status = 0
  ∧ ∀ (o : SOps) (s : State), s.settled [o.sa] →
      let st := s.me.seq.status
      let v := s.reg o.sa
      let field (old : Priv) (x : Nat) : Priv := if x = 0 then .user else if x = 1 then .paddock else old
      let new : Status :=
        { st with
          intrap := v.getLsbD 4
          priv := if st.priv = .user then st.priv else field st.priv (v.toNat % 4)
          ppriv := if st.priv = .user then st.ppriv else field st.ppriv (v.toNat / 4 % 4) }
      exec (.mts o .status) s = .next (s.mapSeq fun q => { q with status := new }).advance

/-- 13 R279, R289: MFS writes the register's value to sd, and MTS writes the register, for the registers that hold a
whole word; FFLAGS keeps bits [4:0], TRAPCAUSE bits [13:0], and F8SEL refuses reserved variants (07 R116). -/
def Obligations.SystemRegisters : Prop :=
  ∀ (s : State),
    let q := s.me.seq
    let sup := q.status.priv = .paddock
    (∀ (sd : Reg) (n : SysReg), s.settled [sd] → (n ≠ .stvec ∧ n ≠ .sscratch) ∨ sup →
        exec (.mfs sd n) s = .next (s.put sd (s.readSys n)).advance)
    ∧ s.readSys .trappc = q.trappc ∧ s.readSys .trapval0 = q.trapval0 ∧ s.readSys .trapval1 = q.trapval1
    ∧ s.readSys .utvec = q.utvec ∧ s.readSys .stvec = q.stvec ∧ s.readSys .uscratch = q.uscratch
    ∧ s.readSys .sscratch = q.sscratch ∧ s.readSys .trapcause = q.trapcause.setWidth 64
    ∧ s.readSys .fflags = q.fflags.setWidth 64 ∧ s.readSys .cycle = BitVec.ofNat 64 s.clk
    ∧ s.readSys .lpdepth = BitVec.ofNat 64 q.loops.length
    ∧ (∀ k : BitVec 2, s.readSys (.lpcnt k) = ((q.loops.reverse[k.toNat]?).map (·.count)).getD 0)
    ∧ (s.hub.devid = none → s.readSys .devid = 0xFFFFFFFF)
    ∧ ∀ (o : SOps), s.settled [o.sa] →
        let v := s.reg o.sa
        let sets (n : SysReg) (r : Seq) : Prop := exec (.mts o n) s = .next (s.mapSeq fun _ => r).advance
        sets .trapcause { q with trapcause := v.setWidth 14 } ∧ sets .trappc { q with trappc := v }
          ∧ sets .trapval0 { q with trapval0 := v } ∧ sets .trapval1 { q with trapval1 := v }
          ∧ sets .utvec { q with utvec := v } ∧ sets .uscratch { q with uscratch := v }
          ∧ sets .fflags { q with fflags := v.setWidth 5 }
          ∧ (sup → sets .stvec { q with stvec := v } ∧ sets .sscratch { q with sscratch := v })
          ∧ sets .f8sel { q with
              f8va := if (v.toNat % 32) < 4 then q.f8va else v.setWidth 5
              f8vb := if (v.toNat / 256 % 32) < 4 then q.f8vb else v.extractLsb' 8 5 }

/-- 13 R279, R255, R291: what USER may not name and what no privilege may write. STVEC and SSCRATCH at USER raise
PRIVILEGE with the word and the register number, before sources are examined (12 R233); an MTS to a read-only register
raises ILLEGAL with 0x13; HALT at USER raises PRIVILEGE with its word and 0. 12 R233: a word that decodes to nothing
raises ILLEGAL with the word and the reason, and changes no scalar register. -/
def Obligations.RefusedInstructions : Prop :=
  (∀ (s : State),
     let user := s.me.seq.status.priv = .user
     (user → ∀ (sd : Reg), exec (.mfs sd .stvec) s = s.trap .privilege ((encode (.mfs sd .stvec)).setWidth 64) 0x006
         ∧ exec (.mfs sd .sscratch) s = s.trap .privilege ((encode (.mfs sd .sscratch)).setWidth 64) 0x008)
     ∧ (user → ∀ (o : SOps), exec (.mts o .stvec) s = s.trap .privilege ((encode (.mts o .stvec)).setWidth 64) 0x006
         ∧ exec (.mts o .sscratch) s = s.trap .privilege ((encode (.mts o .sscratch)).setWidth 64) 0x008)
     ∧ (∀ (o : SOps) (n : SysReg), n ∈ ([.cycle, .corenum, .devid, .lpdepth, .lpcnt 0, .lpcnt 1, .lpcnt 2, .lpcnt 3, .lpbnd 0,
           .lpbnd 1, .lpbnd 2, .lpbnd 3] : List SysReg) → s.settled [o.sa] →
         exec (.mts o n) s = s.trap .illegal ((encode (.mts o n)).setWidth 64) 0x13)
     ∧ (user → exec .halt s = s.trap .privilege 0x96000000 0))
  ∧ (∀ (w : IWord) (s : State),
       let gives (r : IllegalReason) (v : Word) : Prop :=
         exec (.undecodableInstruction w r) s = s.trap .illegal (w.setWidth 64) v
       gives .opcode 0 ∧ gives .fn 1 ∧ gives .unusedField 2 ∧ gives .reservedValue 3)

/-- 13 R290, 14 R300: WFE and FEMPTY with the event flag set, and without it; SEV reaches the issuer, whose flag it
sets when nothing there waits; a sleep and an FEMPTY end after 65,536 clk. 14 R301: RFULL writes 1 when the register
named by sa is full and 0 when it is empty, and neither waits for it nor traps. -/
def Obligations.Events : Prop :=
  (∀ (s : State),
     let event := s.me.seq.status.event
     let cleared : State := s.mapSeq fun q => { q with status := { q.status with event := false } }
     (event = true → exec .wfe s = .next cleared.advance)
       ∧ (event = false → exec .wfe s = .next (s.advance.mapMe fun c => { c with sleeping := some s.clk }))
       ∧ (∀ sd, s.settled [sd] → event = true → exec (.fempty sd) s = .next (cleared.put sd 1).advance)
       ∧ (∀ sd, s.settled [sd] → event = false → Answers (exec (.fempty sd) s) fun t =>
           t.me.seq.isFull sd = (sd == 0) ∧ t.me.pipe.fempties = s.me.pipe.fempties ++ [⟨sd, s.clk, s.here⟩])
       ∧ (s.enabledCore s.cur = true → s.me.pipe.fempties = [] → s.me.sleeping = none →
           Answers (exec .sev s) fun t => t.me.seq.status.event = true)
       ∧ (∀ since, s.me.sleeping = some since → Answers (exec (.wfeTimeout s.cur) s) fun t =>
           t.me.sleeping = if since + 65536 ≤ s.clk then none else some since)
       ∧ ∀ e : PendEmpty, s.me.pipe.fempties.find? (fun x => x.reg == e.reg) = some e → e.owner = s.here →
           e.since + 65536 ≤ s.clk → Answers (exec (.femptyTimeout s.cur e.reg) s) fun t =>
             t.me.seq = s.me.seq.put e.reg 0 ∧ t.me.pipe.fempties = s.me.pipe.fempties.filter fun x => x.reg != e.reg)
  ∧ (∀ (sd sa : Reg) (s : State), s.settled [sd] →
       exec (.rfull sd sa) s = .next (s.put sd (if s.me.seq.isFull sa then 1 else 0)).advance)

/-- 13 R254, R256: INSTRUCTION_FETCH reads the 256 bytes that hold the pc into the instruction buffer when the running
core lacks them, after the checks of an execute access, and the instruction waits for the line (kind 12); a failed
check traps with the pc as TRAPPC, and so does a block that cannot be read (01 R9, R11) or a pc that is no multiple of
4. -/
def Obligations.InstructionFetches : Prop :=
  ∀ (s : State),
    let pc := s.me.seq.pc
    let a := Acc.instr s.me.seq.status.priv
    (s.me.task.isSome || s.me.detached.isSome) = true → s.me.sleeping = none → s.me.lineOf pc = none →
    (pc.toNat % 4 ≠ 0 → exec (.instructionFetch s.cur) s = .next (s.takeTrap { code := .misalign, val0 := pc, val1 := 4 } pc false))
    ∧ (pc.toNat % 4 = 0 → (∀ u f, s.translate (some s.cur) s.herePdk pc a = (u, .error f) →
        exec (.instructionFetch s.cur) s = .next (u.takeTrap f pc false))
      ∧ (∀ u pa k c fu e i, s.translate (some s.cur) s.herePdk pc a = (u, .ok (.mem pa k c fu)) →
          u.accessError (some s.cur) (.mem (pa / 256 * 256) k c fu) 256 false = some (e, i) →
          let f := u.errorInfo pc pc e
          exec (.instructionFetch s.cur) s = .next (f.2.takeTrap f.1 pc false))
      ∧ ∀ u pa k c fu, s.translate (some s.cur) s.herePdk pc a = (u, .ok (.mem pa k c fu)) → pc.toNat < 2 ^ 48 →
        u.accessError (some s.cur) (.mem (pa / 256 * 256) k c fu) 256 false = none →
        Answers (exec (.instructionFetch s.cur) s) fun t =>
          ∃ l, t.me.lineOf pc = some l
            ∧ (∀ i < 256, BitVec.toNat l.bytes / 256 ^ i % 256 = (u.readPhys k (pa / 256 * 256 + i)).toNat)
            ∧ t.me.seq.pc = pc ∧ t.me.seq.regs = u.me.seq.regs ∧ t.me.block.okind = 12)

/-! ## Loads and stores -/

/-- 13 R274, R275, R276: the issue of LD, LDS, ST, LDQ and STQ whose operands are ready, whose address passes its
checks and for which there is room. The address is base plus the scaled offset; the access enters the queue with it
and nothing else changes; a load empties its destination. LDQ and STQ are two independent 8-byte accesses. -/
def Obligations.LoadStoreIssue : Prop :=
  ∀ (s t : State) (u : Target), s.mayIssue →
    let rd (k : Nat) : Acc := { Acc.read s.priv with plain8 := k == 8 }
    let wr (k : Nat) : Acc := { Acc.write s.priv with plain8 := k == 8 }
    let va (sa : Reg) (off : BitVec 9) (k : Nat) : Word := s.reg sa + off.signExtend 64 * BitVec.ofNat 64 k
    (∀ o : MOps, let k := o.size.bytes
      s.settled [o.sa, o.sd] → s.loadsOut < 16 → s.passes (va o.sa o.off k) k (rd k) t u → s.clearOf u k →
        Answers (exec (.ld o) s) (fun v => s.addsLoad v (va o.sa o.off k) u k o.sd (.plain false) false)
          ∧ Answers (exec (.lds o) s) (fun v => s.addsLoad v (va o.sa o.off k) u k o.sd (.plain true) false))
    ∧ (∀ o : MOps, let k := o.size.bytes
      s.settled [o.sa, o.sd] → s.me.pipe.stores.length < 16 → s.passes (va o.sa o.off k) k (wr k) t u →
        Answers (exec (.st o) s) (fun v => s.addsStore v (va o.sa o.off k) u k (s.reg o.sd) .plain false))
    ∧ (∀ o : QOps, let a := va o.sa o.off 16
      s.settled [o.sa, o.sd, o.sd + 1] → s.loadsOut < 15 → s.passes a 16 (rd 16) t u → s.clearOf u 8 →
        s.clearOf (u.plus 8) 8 →
        Answers (exec (.ldq o) s) (fun v =>
          v.me.pipe.loads = s.me.pipe.loads ++ [⟨s.me.pipe.nextId, s.pc, a, u, 8, o.sd, .plain false, false, s.here⟩,
              ⟨s.me.pipe.nextId + 1, s.pc, a + 8, u.plus 8, 8, o.sd + 1, .plain false, false, s.here⟩]
          ∧ v.me.seq = ((s.me.seq.setEmpty o.sd).setEmpty (o.sd + 1)).advance ∧ s.sameStorage v ∧ s.sameRest v))
    ∧ ∀ o : QOps, let a := va o.sa o.off 16
      s.settled [o.sa, o.sd, o.sd + 1] → s.me.pipe.stores.length < 15 → s.passes a 16 (wr 16) t u →
        Answers (exec (.stq o) s) fun v =>
          v.me.pipe.stores = s.me.pipe.stores ++ [⟨s.me.pipe.nextId, s.pc, a, u, 8, s.reg o.sd, .plain, false, s.here⟩,
              ⟨s.me.pipe.nextId + 1, s.pc, a + 8, u.plus 8, 8, s.reg (o.sd + 1), .plain, false, s.here⟩]
          ∧ v.me.seq.regs = s.me.seq.regs ∧ v.me.seq.full = s.me.seq.full ∧ s.sameStorage v ∧ s.sameRest v

/-- 13 R274, 03 R57: the address checks of LD and ST (which every access of the sequencer shares) in their order:
nonzero bits [63:48] raise XLATE with reason NONCANON, an address that is no multiple of the size MISALIGN with the
size, and a translation that fails its own fault; each is precise and nothing has been stored. 03 R50, R54:
translating for the focused core changes its L1 TLB and its die's TLB, and nothing else. -/
def Obligations.AddressChecks : Prop :=
  (∀ (o : MOps) (s : State), s.settled [o.sa, o.sd] → s.mayIssue →
     let k := o.size.bytes
     let va := s.reg o.sa + o.off.signExtend 64 * BitVec.ofNat 64 k
     let rd : Acc := { Acc.read s.priv with plain8 := k == 8 }
     let wr : Acc := { Acc.write s.priv with plain8 := k == 8 }
     (s.loadsOut < 16 →
       (2 ^ 48 ≤ va.toNat → exec (.ld o) s = s.trap .xlate va 0xD00 ∧ exec (.lds o) s = s.trap .xlate va 0xD00)
       ∧ (va.toNat < 2 ^ 48 → va.toNat % k ≠ 0 → exec (.ld o) s = s.trap .misalign va (BitVec.ofNat 64 k)
           ∧ exec (.lds o) s = s.trap .misalign va (BitVec.ofNat 64 k))
       ∧ (∀ t f, va.toNat < 2 ^ 48 → va.toNat % k = 0 → s.translate (some s.cur) s.herePdk va rd = (t, .error f) →
           exec (.ld o) s = .next (t.takeTrap f s.pc false) ∧ exec (.lds o) s = .next (t.takeTrap f s.pc false)))
     ∧ (s.me.pipe.stores.length < 16 →
       (2 ^ 48 ≤ va.toNat → exec (.st o) s = s.trap .xlate va 0xD04)
       ∧ (va.toNat < 2 ^ 48 → va.toNat % k ≠ 0 → exec (.st o) s = s.trap .misalign va (BitVec.ofNat 64 k))
       ∧ ∀ t f, va.toNat < 2 ^ 48 → va.toNat % k = 0 → s.translate (some s.cur) s.herePdk va wr = (t, .error f) →
           exec (.st o) s = .next (t.takeTrap f s.pc false)))
  ∧ (∀ (s t : State) (pdk : PdkNum) (va : Word) (a : Acc) (r : Except FaultInfo Target),
       s.translate (some s.cur) pdk va a = (t, r) →
         t = { s with me := { s.me with tlb := t.me.tlb }, dies := t.dies }
           ∧ ∀ d, t.die d = { s.die d with tlb := (t.die d).tlb })

/-- 13 R275, R277, R278: LOAD_RETURN of the running task's load of up to 8 bytes of local memory writes the bytes, the
lowest address least significant, zero- or sign-extended, into the destination and changes nothing else; with an
uncorrectable error it raises ECC_UNCORR with the address and the load's own address, and the destination stays empty.
-/
def Obligations.LoadReturns : Prop :=
  ∀ (s : State) (l : PendLoad) (signed : Bool) (pa : Nat) (k : Option (BitVec 512)) (c : Cache) (fu : Bool),
    s.me.pipe.loads.find? (fun x => x.id == l.id) = some l → l.owner = s.here → l.kind = .plain signed →
    l.target = .mem pa k c fu → 0 < l.bytes → l.bytes ≤ 8 → s.reaches l.id l.target l.bytes false →
      Answers (exec (.loadReturn s.cur l.id false) s) (fun t =>
        ∃ v : Word, t.me.seq = s.me.seq.put l.dst v
          ∧ (∀ i < l.bytes, v.extractLsb' (8 * i) 8 = s.readPhys k (pa + i))
          ∧ (∀ j < 64, 8 * l.bytes ≤ j → v.getLsbD j = (signed && v.getLsbD (8 * l.bytes - 1)))
          ∧ t.me.pipe = { s.me.pipe with loads := s.me.pipe.loads.filter fun x => x.id != l.id, past := t.me.pipe.past }
          ∧ s.sameStorage t ∧ s.sameRest t)
      ∧ ∀ task, s.me.task = some task → Answers (exec (.loadReturn s.cur l.id true) s) fun t =>
          t.me.seq = s.me.seq ∧ ∃ p, t.me.pipe.traps = s.me.pipe.traps ++ [p] ∧ p.async = true
            ∧ p.info = { code := .eccUncorr, val0 := l.va, val1 := l.addr }

/-- 13 R275, R277: STORE_ACKNOWLEDGE of the running task's store of up to 8 bytes to local memory writes the low bytes
of the value from the address on, the least significant lowest, and no other byte; registers and the rest stay as they
are. -/
def Obligations.StorePerforms : Prop :=
  ∀ (s : State) (x : PendStore) (pa : Nat) (k : Option (BitVec 512)) (c : Cache) (fu : Bool),
    s.me.pipe.stores.find? (fun y => y.id == x.id) = some x → x.owner = s.here → x.kind = .plain → x.rel = false →
    x.target = .mem pa k c fu → x.bytes ≤ 8 → s.reaches x.id x.target x.bytes true → s.noneWait → s.Inv →
      Answers (exec (.storeAcknowledge s.cur x.id false) s) (fun t =>
        t.holds k pa x.bytes x.value ∧ s.sameOutside t pa x.bytes ∧ t.me.seq = s.me.seq
          ∧ (∀ a, t.fullBit a = s.fullBit a) ∧ s.sameRest t
          ∧ t.me.pipe = { s.me.pipe with stores := s.me.pipe.stores.filter fun y => y.id != x.id })
      ∧ ∀ task, s.me.task = some task → Answers (exec (.storeAcknowledge s.cur x.id true) s) fun t =>
          s.sameStorage t ∧ ∃ p, t.me.pipe.traps = s.me.pipe.traps ++ [p] ∧ p.async = true
            ∧ p.info = { code := .eccUncorr, val0 := x.va, val1 := x.addr }

/-- 13 R277: a load that lies within a queued plain store of its task takes its bytes from the store, and one that
overlaps a store without lying within it waits. Said of loads outside UC pages with no atomic in the way (03 R52;
notes/assumptions/18.md). -/
def Obligations.StoreForwarding : Prop :=
  ∀ (o : MOps) (s t : State) (u : Target) (x : PendStore),
    let k := o.size.bytes
    let va := s.reg o.sa + o.off.signExtend 64 * BitVec.ofNat 64 k
    s.mayIssue → s.settled [o.sa, o.sd] → s.loadsOut < 16 →
    s.passes va k { Acc.read s.priv with plain8 := k == 8 } t u → u.isUc = false → s.overlapAtomic u k = false →
    s.overlapStore u k = some x →
      (∀ i, x.kind = .plain → u.within k x.target x.bytes = some i →
        let v := x.value.toNat / 256 ^ i % 256 ^ k
        Answers (exec (.ld o) s) (fun w => s.addsLoad w va u k o.sd (.value (BitVec.ofNat 64 v)) false)
          ∧ Answers (exec (.lds o) s) fun w => s.addsLoad w va u k o.sd
              (.value (BitVec.ofInt 64 (if 2 * v < 256 ^ k then v else (v : Int) - (256 ^ k : Nat)))) false)
      ∧ (u.within k x.target x.bytes = none →
          Answers (exec (.ld o) s) (fun w => w.me.seq = s.me.seq ∧ w.me.pipe = s.me.pipe ∧ w.me.block.okind = 12)
          ∧ Answers (exec (.lds o) s) (fun w => w.me.seq = s.me.seq ∧ w.me.pipe = s.me.pipe ∧ w.me.block.okind = 12))

/-! ## Atomics, fences, futures and barriers -/

/-- 14 R292, R293, R295: the issue of the ten read-modify-write atomics, LDA and STL: the access is outstanding at the
address in sa with its operands and its acquire and release halves, the destination is empty, and nothing else
changes. 11 R213, 14 R292 (Table SYN-1), R294: ATOMIC_AT_HOME reads the old word, writes the new one as the operation
says (a CAS that fails writes nothing), returns the old value, and leaves every other byte and every full bit. -/
def Obligations.Atomics : Prop :=
  (∀ (s t : State) (u : Target), s.mayIssue →
     let acq (m : MemOrder) : Bool := match m with | .acquire | .acqRel => true | .relaxed | .release => false
     let rel (m : MemOrder) : Bool := match m with | .release | .acqRel => true | .relaxed | .acquire => false
     (∀ o : AOps, s.settled [o.sa, o.sb, o.sd] → s.loadsOut < 16 → s.passes (s.reg o.sa) 8 (Acc.both s.priv) t u →
       let adds (i : Instr) (op : AmoOp) : Prop := Answers (exec i s) fun v =>
         v.me.pipe = { s.me.pipe with
             nextId := s.me.pipe.nextId + 1
             atomics := s.me.pipe.atomics ++ [⟨s.me.pipe.nextId, s.pc, s.reg o.sa, u, o.sd, op, s.reg o.sb, s.reg o.sd,
               acq o.order, rel o.order, s.here⟩] }
           ∧ v.me.seq.regs = s.me.seq.regs ∧ (∀ m, v.me.seq.isFull m = (s.me.seq.isFull m && (m != o.sd || m == 0)))
           ∧ s.sameStorage v ∧ s.sameRest v
       adds (.amoadd o) .add ∧ adds (.amoand o) .and ∧ adds (.amoor o) .or ∧ adds (.amoxor o) .xor ∧ adds (.amomin o) .min
         ∧ adds (.amomax o) .max ∧ adds (.amominu o) .minu ∧ adds (.amomaxu o) .maxu ∧ adds (.amoswp o) .swp
         ∧ adds (.cas o) .cas)
     ∧ (∀ (o : UOps) (a : Bool) (sc : AScope), s.settled [o.sa, o.sd] → s.loadsOut < 16 →
         s.passes (s.reg o.sa) 8 (Acc.read s.priv) t u →
         Answers (exec (.lda o a sc) s) fun v => s.addsLoad v (s.reg o.sa) u 8 o.sd (.plain false) a)
     ∧ ∀ (o : PairOps) (r : Bool) (sc : AScope), s.settled [o.sa, o.sb] → s.me.pipe.stores.length < 16 →
         s.passes (s.reg o.sa) 8 (Acc.write s.priv) t u →
         Answers (exec (.stl o r sc) s) fun v => s.addsStore v (s.reg o.sa) u 8 (s.reg o.sb) .stl r)
  ∧ (∀ (s : State) (a : PendAtomic) (pa : Nat) (k : Option (BitVec 512)) (c : Cache) (fu : Bool) (old : Word),
       s.me.pipe.atomics.find? (fun y => y.id == a.id) = some a → a.owner = s.here → a.rel = false → a.target = .mem pa k c fu →
       s.reaches a.id a.target 8 false → s.noneWait → s.Inv → s.holds k pa 8 old →
         let b := a.operand
         let new : Word := match a.op with
           | .add => old + b | .and => old &&& b | .or => old ||| b | .xor => old ^^^ b
           | .min => if old.toInt ≤ b.toInt then old else b | .max => if old.toInt ≤ b.toInt then b else old
           | .minu => if old.toNat ≤ b.toNat then old else b | .maxu => if old.toNat ≤ b.toNat then b else old
           | .swp => b | .cas => if old = a.expect then b else old
         Answers (exec (.atomicAtHome s.cur a.id) s) fun t =>
           t.holds k pa 8 new ∧ s.sameOutside t pa 8 ∧ (∀ x, t.fullBit x = s.fullBit x)
             ∧ t.me.seq = s.me.seq.put a.dst old ∧ s.sameRest t
             ∧ t.me.pipe = { s.me.pipe with atomics := s.me.pipe.atomics.filter fun y => y.id != a.id, past := t.me.pipe.past })

/-- 11 R216, R217, 14 R297: FENCE leaves its token empty, and has no effect with s0; FENCE_TOKEN_FILL fills it with 0
once the covered accesses are complete; FENCEC writes 0 when they are and holds issue until then. The covered accesses
of classes 0 to 2 are the task's loads, stores and atomics, on every core on which it has run, numbered before the
fence. -/
def Obligations.Fences : Prop :=
  ∀ (o : FenceOps) (s : State),
    let id := s.me.pipe.nextId
    (o.sd = 0 → exec (.fence o) s = .next s.advance)
      ∧ (o.sd ≠ 0 → s.settled [o.sd] → Answers (exec (.fence o) s) fun t =>
          t.me.seq = (s.me.seq.setEmpty o.sd).advance ∧ s.sameStorage t ∧ s.sameRest t
            ∧ ∃ f, t.me.pipe = { s.me.pipe with nextId := id + 1, fences := s.me.pipe.fences ++ [f] }
              ∧ f.id = id ∧ f.dst = o.sd ∧ f.mask = o.mask ∧ f.owner = s.here ∧ f.marks = s.fenceMarks)
      ∧ (∀ f, s.me.pipe.fences.find? (fun x => x.id == f.id) = some f → f.owner = s.here →
          (s.fenceDone f.owner f.marks f.mask f.cfg = true → Answers (exec (.fenceTokenFill s.cur f.id) s) fun t =>
            t.me.seq = s.me.seq.put f.dst 0
              ∧ t.me.pipe = { s.me.pipe with fences := s.me.pipe.fences.filter fun x => x.id != f.id })
          ∧ (s.fenceDone f.owner f.marks f.mask f.cfg = false → exec (.fenceTokenFill s.cur f.id) s = .next s))
      ∧ (s.settled [o.sd] →
          (s.fenceDone s.here s.fenceMarks o.mask s.configHere = true → exec (.fencec o) s = .next (s.put o.sd 0).advance)
          ∧ (s.fenceDone s.here s.fenceMarks o.mask s.configHere = false → Answers (exec (.fencec o) s) fun t =>
              t.me.seq = s.me.seq ∧ s.samePipe t ∧ t.me.block.okind = 4))
      ∧ (∀ c n, (c, n) ∈ s.fenceMarks ↔ (c = s.cur ∧ n = id) ∨ ∃ k, (c, k) ∈ s.others ∧ n = k.pipe.nextId)
      ∧ ∀ (w : Owner) (marks : List (CoreNum × Nat)) (m : BitVec 8), m.toNat < 8 →
          (s.fenceDone w marks m false = true ↔ ∀ c n, (c, n) ∈ marks →
            (m.getLsbD 0 = true → ∀ l ∈ (s.coreAt c).pipe.loads, l.owner = w → n ≤ l.id)
              ∧ (m.getLsbD 1 = true → ∀ x ∈ (s.coreAt c).pipe.stores, x.owner = w → n ≤ x.id)
              ∧ (m.getLsbD 2 = true → ∀ a ∈ (s.coreAt c).pipe.atomics, a.owner = w → n ≤ a.id))

/-- 14 R298, 04 R76: LDF of a full future writes its value to sd, of an empty one raises FUTURE_EMPTY with the address
and sd; FPUT and FCLR enter the store queue, FPUT as a release; FTEST issues as a load. 14 R298, 04 R76: FPUT performs
by writing its value and setting the full bit of the word, FCLR by clearing the bit alone; the return of FTEST's load
is the bit. No other byte and no other full bit changes. -/
def Obligations.FutureWords : Prop :=
  (∀ (s t : State) (u : Target), s.mayIssue →
     let acc (wr : Bool) : Acc := { Acc.read s.priv with wr := wr, future := true }
     (∀ (o : UOps) (pa : Nat) (k : Option (BitVec 512)) (c : Cache) (fu : Bool), s.settled [o.sa, o.sd] →
         s.passes (s.reg o.sa) 8 (acc false) t u → u = .mem pa k c fu → s.mayRead u 8 →
         (s.fullBit pa = true → Answers (exec (.ldf o) s) fun v => ∃ w, s.holds k pa 8 w
             ∧ v.me.seq = (s.me.seq.put o.sd w).advance ∧ s.sameStorage v ∧ s.sameRest v ∧ s.samePipeButReads v)
         ∧ (s.fullBit pa = false → exec (.ldf o) s = t.trap .futureEmpty (s.reg o.sa) (o.sd.setWidth 64)))
     ∧ (∀ (o : UOps), s.settled [o.sa, o.sd] → s.loadsOut < 16 → s.passes (s.reg o.sa) 8 (acc false) t u →
         Answers (exec (.ftest o) s) fun v => s.addsLoad v (s.reg o.sa) u 8 o.sd .fullBit false)
     ∧ (∀ (o : PairOps), s.settled [o.sa, o.sb] → s.me.pipe.stores.length < 16 → s.passes (s.reg o.sa) 8 (acc true) t u →
         Answers (exec (.fput o) s) fun v => s.addsStore v (s.reg o.sa) u 8 (s.reg o.sb) .fput true)
     ∧ ∀ (o : SOps), s.settled [o.sa] → s.me.pipe.stores.length < 16 → s.passes (s.reg o.sa) 8 (acc true) t u →
         Answers (exec (.fclr o) s) fun v => s.addsStore v (s.reg o.sa) u 8 0 .fclr false)
  ∧ (∀ (s : State) (pa : Nat) (k : Option (BitVec 512)) (c : Cache) (fu : Bool), s.noneWait → s.Inv →
       (∀ x : PendStore, s.me.pipe.stores.find? (fun y => y.id == x.id) = some x → x.owner = s.here → x.target = .mem pa k c fu →
           s.reaches x.id x.target x.bytes true →
           (x.kind = .fput → (x.rel = true → s.me.pipe.allBefore x.owner x.id = true) →
             Answers (exec (.storeAcknowledge s.cur x.id false) s) fun t =>
               t.holds k pa 8 x.value ∧ s.sameOutside t pa 8 ∧ (∀ a, t.fullBit a = (s.fullBit a || a == pa)))
           ∧ (x.kind = .fclr → x.rel = false → Answers (exec (.storeAcknowledge s.cur x.id false) s) fun t =>
               (∀ key a, t.readPhys key a = s.readPhys key a) ∧ ∀ a, t.fullBit a = (s.fullBit a && a != pa)))
       ∧ ∀ l : PendLoad, s.me.pipe.loads.find? (fun y => y.id == l.id) = some l → l.owner = s.here → l.target = .mem pa k c fu →
           l.kind = .fullBit → s.reaches l.id l.target l.bytes false →
           Answers (exec (.loadReturn s.cur l.id false) s) fun t =>
             t.me.seq = s.me.seq.put l.dst (if s.fullBit pa then 1 else 0) ∧ s.sameStorage t)

/-- 14 R302: the issue of BARARR (a release) and BAREXP on a WB page, BAREXP of a count beyond 32 bits, and BARTOK,
whose token waits for the phase it read. 04 R78 (Table SCH-6), 14 R302, R303: BARARR performs by counting PENDING
down, or by completing the phase: PHASE gains 1, PENDING takes RELOAD plus CARRY and CARRY becomes 0; BAREXP adds to
PENDING. Only the 16 bytes of the object change. Where a token on this core waits for the phase, its register fills
with the new PHASE. (Sums that do not saturate.) -/
def Obligations.Barriers : Prop :=
  (∀ (s t : State) (u : Target) (sc : Scope), s.mayIssue → u.isWb = true →
     let acc := Acc.both s.priv
     (∀ o : SOps, s.settled [o.sa] → s.me.pipe.stores.length < 16 → s.passes (s.reg o.sa) 16 acc t u →
         Answers (exec (.bararr o sc) s) fun v => s.addsStore v (s.reg o.sa) u 16 0 .bararr true)
     ∧ (∀ o : PairOps, s.settled [o.sa, o.sb] → s.me.pipe.stores.length < 16 → s.passes (s.reg o.sa) 16 acc t u →
         ((s.reg o.sb).toNat < 2 ^ 32 → Answers (exec (.barexp o sc) s) fun v =>
             s.addsStore v (s.reg o.sa) u 16 0 (.barexp ((s.reg o.sb).setWidth 32)) false)
         ∧ (2 ^ 32 ≤ (s.reg o.sb).toNat → exec (.barexp o sc) s = t.trap .illegal (s.reg o.sa) 0x22))
     ∧ ∀ o : UOps, s.settled [o.sa, o.sd] → s.passes (s.reg o.sa) 16 acc t u → s.mayRead u 16 → o.sd ≠ 0 →
         Answers (exec (.bartok o sc) s) fun v =>
           v.me.seq = (s.me.seq.setEmpty o.sd).advance
             ∧ v.me.pipe = { s.me.pipe with
                 bartoks := s.me.pipe.bartoks ++ [⟨o.sd, s.reg o.sa, u, s.word32 u, s.here⟩], past := v.me.pipe.past }
             ∧ s.sameStorage v ∧ s.sameRest v)
  ∧ (∀ (s : State) (x : PendStore) (pa : Nat) (k : Option (BitVec 512)) (c : Cache) (fu : Bool) (phase pending reload carry : Word),
       s.me.pipe.stores.find? (fun y => y.id == x.id) = some x → x.owner = s.here → x.target = .mem pa k c fu → x.bytes = 16 →
       s.reaches x.id x.target x.bytes true → (x.rel = true → s.me.pipe.allBefore x.owner x.id = true) →
       let key := k
       let object (t : State) (f p r y : Word) : Prop :=
         t.holds key pa 4 f ∧ t.holds key (pa + 4) 4 p ∧ t.holds key (pa + 8) 4 r ∧ t.holds key (pa + 12) 4 y
       object s phase pending reload carry → pending.toNat < 2 ^ 32 → reload.toNat + carry.toNat < 2 ^ 32 →
       s.Inv → (∀ p ∈ s.paddocks, ∀ r ∈ p.records, r.state ≠ .parked) → (∀ d, d ≠ s.cur → (s.coreAt d).pipe.bartoks = []) →
         (s.me.pipe.bartoks = [] → x.kind = .bararr → 1 < pending.toNat → Answers (exec (.storeAcknowledge s.cur x.id false) s)
             fun t => object t phase (pending - 1) reload carry ∧ s.sameOutside t pa 16 ∧ t.me.seq = s.me.seq)
         ∧ (s.me.pipe.bartoks = [] → x.kind = .bararr → pending.toNat ≤ 1 → Answers (exec (.storeAcknowledge s.cur x.id false) s)
             fun t => object t (phase + 1) (reload + carry) reload 0 ∧ s.sameOutside t pa 16 ∧ t.me.seq = s.me.seq)
         ∧ (∀ n, s.me.pipe.bartoks = [] → x.kind = .barexp n → pending.toNat + n.toNat < 2 ^ 32 →
             Answers (exec (.storeAcknowledge s.cur x.id false) s) fun t =>
               object t phase (pending + n.setWidth 64) reload carry ∧ s.sameOutside t pa 16 ∧ t.me.seq = s.me.seq)
         ∧ ∀ b : PendBar, s.me.pipe.bartoks = [b] → b.owner = s.here → b.target = x.target → phase.toNat < 2 ^ 32 →
             b.phase = phase.setWidth 32 → x.kind = .bararr → pending.toNat ≤ 1 →
             Answers (exec (.storeAcknowledge s.cur x.id false) s) fun t =>
               t.me.seq = s.me.seq.put b.dst ((b.phase + 1).setWidth 64) ∧ t.me.pipe.bartoks = [])

/-! ## Control pages -/

/-- 03 R56 (Table ADR-6), 04 Table SCH-5, Table SCH-9, 05 Table COR-5: a store of the running task to a register of
its Paddock's control page performs: REGISTER_WRITE for OSTCFG, WRRW, DRAINWIN, TLBINVA, HOLDCTL and HOLDNAME, GO for
TLBINVC, INGLIM for INGLIM. A field keeps what the tables allow; nothing else of the page, no scalar register and no
byte of memory changes. 05 R96, 06 R113 (Table LFT-4), 03 R56: THRCNT_READ, PARTCNT_READ and LOFTSTAT_READ return the
counter and clear it; INVALIDATION_DONE, with no access in flight that used an entry to be dropped, leaves no TLB
entry of the Paddock that overlaps the range on that die, clears BUSY and advances DONE. -/
def Obligations.ControlPages : Prop :=
  (∀ (s : State) (x : PendStore) (p : PdkNum) (d : DieNum) (off : Nat) (q : Paddock) (k : CtrlPage),
     s.me.pipe.stores.find? (fun y => y.id == x.id) = some x → x.owner = s.here → x.kind = .plain → x.rel = false →
     x.target = .ctrl p d off → s.reaches x.id x.target x.bytes true → s.paddock? p = some q → q.ctrlOf d = some k →
     let v := x.value
     let gives (i : Instr) (k' : CtrlPage) : Prop := Answers (exec i s) fun t =>
       (t.paddock? p).bind (fun y => y.ctrlOf d) = some k' ∧ s.sameStorage t ∧ t.me.seq = s.me.seq ∧ t.others = s.others
     let byStore (k' : CtrlPage) : Prop := gives (.registerWrite (.store s.cur x.id)) k'
     let atLeast1 (n w : Nat) : BitVec w := BitVec.ofNat w (if n % 2 ^ w = 0 then 1 else n)
     (off = 0x010 → byStore { k with
         agingA := BitVec.ofNat 5 (max 8 (v.toNat % 32)), devD := v.extractLsb' 5 3, droopK := v.extractLsb' 8 4
         pwait := atLeast1 (v.toNat / 2 ^ 12) 16, preen := v.getLsbD 28 })
       ∧ (off = 0x018 → byStore { k with
           pkgw := atLeast1 v.toNat 8, diew := atLeast1 (v.toNat / 2 ^ 8) 8, clw := atLeast1 (v.toNat / 2 ^ 16) 8 })
       ∧ (off = 0x020 → byStore (if 8 ≤ v.toNat % 64 ∧ v.toNat % 64 ≤ 32 then { k with drainwin := v.setWidth 6 } else k))
       ∧ (off = 0x000 → k.busy = false →
           byStore { k with tlbinva := BitVec.ofNat 64 (v.toNat % 4 + v.toNat / 2 ^ 16 % 2 ^ 32 * 2 ^ 16) })
       ∧ (off = 0x000 → k.busy = true → byStore k)
       ∧ (off = 0x028 → k.holdBusy = false → byStore { k with
           holdAction := v.setWidth 2, holdL0 := v.getLsbD 2, holdAddr := BitVec.ofNat 48 (v.toNat % 2 ^ 48 / 32 * 32)
           holdBusy := decide (v.toNat % 4 ≠ 0), holdDone := false })
       ∧ (off = 0x040 → byStore { k with holdName := v.setWidth 48 })
       ∧ (off = 0x008 → v.getLsbD 0 = true → gives (.go s.cur x.id) { k with busy := true })
       ∧ ∀ c : CoreNum, c = s.cur → ctrlReg d off = .inglim c → s.coreRegOk q c = true → s.me.fabric.config = none →
           Answers (exec (.ingLim s.cur x.id) s) fun t =>
             t.me.fabric.limT = v.setWidth 16 ∧ t.me.fabric.limW = atLeast1 (v.toNat / 2 ^ 16) 16 ∧ t.me.fabric.limNext = none
               ∧ t.me.seq = s.me.seq ∧ s.sameStorage t)
  ∧ (∀ (s : State) (p : PdkNum) (d : DieNum) (q : Paddock) (k : CtrlPage), s.paddock? p = some q → q.ctrlOf d = some k →
       (∀ (l : PendLoad) (off : Nat) (sg : Bool), s.me.pipe.loads.find? (fun y => y.id == l.id) = some l → l.owner = s.here →
           l.kind = .plain sg → l.target = .ctrl p d off → s.reaches l.id l.target l.bytes false →
         let core := s.cur
         let loft := s.me.loft
         (off = 0x038 → Answers (exec (.thrcntRead s.cur l.id) s) fun t =>
             t.me.seq = s.me.seq.put l.dst (k.throttle.setWidth 64)
               ∧ (t.paddock? p).bind (fun y => y.ctrlOf d) = some { k with throttle := 0 })
           ∧ (∀ n < 8, ctrlReg d off = .partcnt core n → s.coreRegOk q core = true → loft.blockClk.length = 8 →
               Answers (exec (.partcntRead s.cur l.id) s) fun t =>
                 t.me.seq = s.me.seq.put l.dst
                   (BitVec.ofNat 64 ((loft.blockClk.getD n 0).toNat + (loft.grants.getD n 0).toNat * 2 ^ 32))
                 ∧ t.me.loft.blockClk.getD n 1 = 0 ∧ t.me.loft.grants = loft.grants)
           ∧ (ctrlReg d off = .loftstat core → s.coreRegOk q core = true →
               Answers (exec (.loftstatRead s.cur l.id) s) fun t =>
                 t.me.seq = s.me.seq.put l.dst (BitVec.ofNat 64 (loft.free + loft.tiles.length * 2 ^ 16 + loft.abandon.toNat * 2 ^ 32))
                   ∧ t.me.loft = { loft with abandon := 0 }))
       ∧ (k.busy = true →
           let lo := (invRange k.tlbinva).1
           let size := (invRange k.tlbinva).2
           let gone (l : List TlbEntry) : Prop := ∀ e ∈ l, e.pdk = p →
             e.base.toNat + pageSize e.level ≤ lo ∨ lo + size ≤ e.base.toNat
           s.usesDropped p d lo size = false →
           Answers (exec (.invalidationDone p d) s) fun t =>
             (t.paddock? p).bind (fun y => y.ctrlOf d) = some { k with busy := false, doneCount := k.doneCount + 1 }
               ∧ gone (t.die d).tlb ∧ ∀ c, dieOf c = d → gone (t.coreAt c).tlb))

/-! ## Tiles -/

/-- 06 R103, R101 (Table LFT-2), 14 R304, R305: TALLOC's checks in order, its request and its grant; TCONS and TFREE
in the reader's cluster, TINFO and TADDR. A handle of another generation, or of a free slot, is stale. -/
def Obligations.TileInstructions : Prop :=
  ∀ (s : State), s.mayIssue →
    (∀ (o : ROps) (part : BitVec 4), s.settled [o.sa, o.sb, o.sd] →
      let size := s.reg o.sa
      let count := s.reg o.sb
      let n := (size.toNat + 4095) / 4096
      let quota := s.partMax part.toNat
      (s.me.pipe.tallocWait = false →
        (7 < part.toNat → exec (.talloc o part) s = s.trap .illegal (part.setWidth 64) 0)
        ∧ (part.toNat ≤ 7 → 0x10000 ≤ count.toNat → exec (.talloc o part) s = s.trap .illegal count 0)
        ∧ (part.toNat ≤ 7 → count.toNat < 0x10000 → size.toNat = 0 ∨ 0x200000 < size.toNat →
            exec (.talloc o part) s = s.trap .tileSize size 0)
        ∧ (part.toNat ≤ 7 → count.toNat < 0x10000 → 0 < size.toNat → size.toNat ≤ 0x200000 → quota < n →
            exec (.talloc o part) s = s.trap .poolQuota (BitVec.ofNat 64 n) (BitVec.ofNat 64 quota))
        ∧ (part.toNat ≤ 7 → count.toNat < 0x10000 → 0 < size.toNat → size.toNat ≤ 0x200000 → n ≤ quota →
            Answers (exec (.talloc o part) s) fun t => t.me.pipe.tallocWait = true ∧ t.me.seq = s.me.seq
              ∧ ∃ r, t.me.loft.incoming = s.me.loft.incoming ++ [r] ∧ r.granules = n ∧ r.count = count.toNat
                  ∧ r.part = part.toNat ∧ r.pdk = s.herePdk ∧ r.who = .sequencer))
      ∧ (∀ h rest, s.me.pipe.tallocWait = true → s.me.loft.granted = (.sequencer, h) :: rest →
            Answers (exec (.talloc o part) s) fun t => t.me.seq = (s.me.seq.put o.sd (h.setWidth 64)).advance
              ∧ t.me.pipe.tallocWait = false ∧ s.sameStorage t))
    ∧ ∀ (h : BitVec 32) (q : Paddock) (slot : Nat) (tile : Tile), s.paddock? s.herePdk = some q →
        let home : CoreNum := h.extractLsb' 22 10
        let loft := s.loftAt home
        q.desc.ownsCore home = true → s.enabledCore home = true → (h.extractLsb' 13 9).toNat = slot →
        s.tileMsgBehind home = false →
        let near := clusterIx home = clusterIx s.cur
        let current := loft.gen slot = h.setWidth 13 ∧ loft.tile? slot = some tile
        let stale := ¬ (loft.gen slot = h.setWidth 13 ∧ (loft.tile? slot).isSome = true)
        let nextGen (g : BitVec 13) : BitVec 13 := if g = 8191 then 1 else g + 1
        (∀ o : SOps, s.settled [o.sa] → s.reg o.sa = h.setWidth 64 → near →
          (∀ c held, current → tile.state = .counted c held → held < c → 1 < c → Answers (exec (.tcons o) s) fun t =>
              (t.loftAt home).tile? slot = some { tile with state := .counted (c - 1) held }
                ∧ (t.loftAt home).gen slot = loft.gen slot)
          ∧ (current → tile.state = .counted 1 0 → Answers (exec (.tcons o) s) fun t =>
              (t.loftAt home).tile? slot = none ∧ (t.loftAt home).gen slot = nextGen (loft.gen slot))
          ∧ (current → tile.state = .pinned → exec (.tcons o) s = s.trap .tilePinned (h.setWidth 64) 0
              ∧ Answers (exec (.tfree o) s) fun t =>
                (t.loftAt home).tile? slot = none ∧ (t.loftAt home).gen slot = nextGen (loft.gen slot))
          ∧ (∀ c held, current → tile.state = .counted c held → exec (.tfree o) s = s.trap .illegal (h.setWidth 64) 0)
          ∧ (stale → exec (.tcons o) s = s.trap .tileStale (h.setWidth 64) 0
              ∧ exec (.tfree o) s = s.trap .tileStale (h.setWidth 64) 0))
        ∧ ∀ o : UOps, s.settled [o.sa, o.sd] → s.reg o.sa = h.setWidth 64 →
          (current → exec (.taddr o) s = .next (s.put o.sd
              (BitVec.ofNat 64 (0xF00000000000 + home.toNat * 0x40000000 + slot * 0x200000))).advance)
          ∧ (stale → exec (.taddr o) s = s.trap .tileStale (h.setWidth 64) 0
              ∧ exec (.tinfo o) s = .next (s.put o.sd 0).advance)
          ∧ ∀ c held, current → tile.state = .counted c held → exec (.tinfo o) s = .next (s.put o.sd (BitVec.ofNat 64
              (c + held * 0x10000 + tile.granules.length * 0x100000000 + tile.part * 0x40000000000
                + tile.group.toNat * 0x1000000000000))).advance

/-- 06 R104: LOFT_GRANT_CLK with one request waiting, in a partition that admits it: the tile takes the lowest free
slot and the lowest free granules, in the state that its COUNT asks for, and its handle is kept for the requester. 06
R106, R110 (Table LFT-2): a first message of its way performs at the home core: an admission raises HELD and is
answered, a count lowers COUNT and HELD (or releases the tile), a release lowers HELD, and an answer settles the
reader's consume. 05 R98, 10 R203: a token that arrives at a station, from the station before it or as one released
there, is given to the one waiting engine of the die; a hold of 4,096 clk ends and the engine waits anew; JTOK is
written unless the Paddocks' shares leave too little draw, and the tokens that it adds stand at station 0 (that they
stand there, and that tokens too many retire only as they are released, is the model's reading,
notes/assumptions/20.md). -/
def Obligations.LoftAndPower : Prop :=
  ((∀ (s : State) (core : CoreNum) (p : Paddock) (r : LoftReq) (slot : Nat),
      s.paddockOf core = some p → s.mcasts = [] → r.part < 8 →
      let l := s.loftAt core
      l.incoming = [r] → l.fifos = List.replicate 8 [] →
      l.used r.part + r.granules ≤ (p.desc.parts.getD r.part (0, 0)).2 → r.granules + l.reserve p.desc.parts r.part ≤ l.free →
      slot < 512 → l.tile? slot = none → (∀ k < slot, (l.tile? k).isSome = true) →
      Answers (exec (.loftGrantClk core) s) fun t =>
        let l' := t.loftAt core
        ∃ tile, l'.tile? slot = some tile ∧ tile.granules.length = r.granules ∧ tile.part = r.part ∧ tile.pdk = r.pdk
          ∧ tile.group = r.group ∧ tile.state = (if r.count = 0 then .pinned else .counted r.count 0)
          ∧ (∀ g ∈ tile.granules, g < 512 ∧ g ∉ l.usedGranules ∧ ∀ k < g, k ∉ l.usedGranules → k ∈ tile.granules)
          ∧ l'.granted = l.granted ++ [(r.who, core ++ BitVec.ofNat 9 slot ++ l.gen slot)]
          ∧ l'.lastGranted = r.part ∧ l'.incoming = [])
   ∧ (∀ (s : State) (m : TileMsg), s.firstMsg m.id = some m →
        let slot := (m.handle.extractLsb' 13 9).toNat
        let l := s.loftAt m.home
        let gone (t : State) : Prop := ∃ new, t.tileMsgs = (s.tileMsgs.filter fun x => x.id != m.id) ++ new
        (∀ tile c held, l.gen slot = m.handle.setWidth 13 → l.tile? slot = some tile → tile.state = .counted c held →
          (m.kind = .admission → held < c → Answers (exec (.tileAdmission m.id) s) fun t => gone t
              ∧ (t.loftAt m.home).tile? slot = some { tile with state := .counted c (held + 1) }
              ∧ ∃ a, a ∈ t.tileMsgs ∧ a.kind = .answer true .none 0 ∧ a.reader = m.reader ∧ a.handle = m.handle ∧ a.cmd = m.cmd)
          ∧ (m.kind = .count → 1 < c → 0 < held → Answers (exec (.tileCount m.id) s) fun t => gone t
              ∧ (t.loftAt m.home).tile? slot = some { tile with state := .counted (c - 1) (held - 1) })
          ∧ (m.kind = .count → c = 1 → held = 1 → Answers (exec (.tileCount m.id) s) fun t => gone t
              ∧ (t.loftAt m.home).tile? slot = none)
          ∧ (m.kind = .release → 0 < c → 0 < held → Answers (exec (.heldRelease m.id) s) fun t => gone t
              ∧ (t.loftAt m.home).tile? slot = some { tile with state := .counted c (held - 1) }))
        ∧ ∀ ok code reason (x : Consume), m.kind = .answer ok code reason → (s.coreAt m.reader).consumes = [x] →
            x.awaits m = true → Answers (exec (.admissionAnswer m.id) s) fun t => gone t
              ∧ (t.coreAt m.reader).consumes =
                  [if ok then { x with admitted := true } else { x with failed := some (code, reason) }]))
  ∧ (∀ (s : State) (d : DieNum),
       (∀ (c : CoreNum), dieOf c = d → clusterOf c < 20 →
           (∀ x, (s.coreAt x).join.power = .waiting ↔ x = c) → (s.die d).ring.length = 20 → d.toNat < s.dies.length →
           0 < (s.die d).jtok → (∀ k ∈ (s.die d).released, k < 20) →
           0 < (s.die d).ring.getD ((clusterOf c + 19) % 20) 0 ∨ clusterOf c ∈ (s.die d).released →
           Answers (exec (.tokenRingClk d) s) fun t => (t.coreAt c).join.power = .holding s.clk
             ∧ (t.die d).ring.sum + 1 = (s.die d).ring.sum + (s.die d).released.length ∧ (t.die d).released = [])
       ∧ (∀ (c : CoreNum) (since : Nat), (s.coreAt c).join.power = .holding since →
           (since + 4096 ≤ s.clk → Answers (exec (.tokenHoldExpiry c) s) fun t => (t.coreAt c).join.power = .waiting)
           ∧ (s.clk < since + 4096 → exec (.tokenHoldExpiry c) s = .next s))
       ∧ ∀ v : Word, let n := min (v.toNat % 256) 160
           (s.shares d + 7 * n ≤ (s.die d).pool → d.toNat < s.dies.length →
             Answers (exec (.jtok d v) s) fun t => (t.die d).jtok = n ∧ (t.die d).live = max n (s.die d).live
               ∧ (t.die d).ring.tail = (s.die d).ring.tail
               ∧ ((s.die d).ring ≠ [] → (t.die d).ring.getD 0 0 = (s.die d).ring.getD 0 0 + (n - (s.die d).live)))
           ∧ ((s.die d).pool < s.shares d + 7 * n → exec (.jtok d v) s = .next s))

/-! ## Tasks and the Ostler -/

/-- 14 R307, 04 R68: SPAWN whose record passes its checks, whose task's accesses are done and whose queue has room,
adds the record that the 32 bytes at sa describe, waiting for its JOIN; no scalar register changes and nothing is
stored. -/
def Obligations.Spawns : Prop :=
  ∀ (o : SOps) (rpl ute tile trap : Bool) (s t : State) (u : Target) (k : Task) (p : Paddock) (l : LevelDesc),
    let a := s.reg o.sa
    s.mayIssue → s.settled [o.sa] → s.passes a 32 (Acc.both s.priv) t u → s.quiet = true → s.me.task = some k →
    s.paddock? s.herePdk = some p → p.levelOf k.group (k.level + 1) = some l →
    p.record? (.spawned (a.setWidth 48)) = none → s.accessError (some s.cur) u 32 false = none →
    let bs := t.readTarget u 32
    let w (i : Nat) : Word := descWord bs (8 * i)
    let q := s.spawnQueue l
    (w 0).toNat % 4 = 0 → (w 2).toNat / 0x1000000000000 ≠ 0 →
      (p.bounded q < p.boundAt l q → Answers (exec (.spawn o trap rpl ute tile) s) fun v =>
        (∃ r, (v.paddock? s.herePdk).map (fun y => y.records) = some (p.records ++ [r])
          ∧ r.name = .spawned (a.setWidth 48) ∧ r.code = (w 0).setWidth 48 ∧ r.frame = (w 1).setWidth 48
          ∧ r.parent = (w 2).setWidth 48 ∧ r.join = (w 2).toNat / 0x1000000000000 ∧ r.level = k.level + 1 ∧ r.prio = k.prio
          ∧ r.group = k.group ∧ r.rpl = rpl ∧ r.ute = ute ∧ r.tile = tile ∧ r.ctx = false ∧ r.state = .joining ∧ r.queue = q)
        ∧ v.me.seq.regs = s.me.seq.regs ∧ v.me.seq.full = s.me.seq.full ∧ s.sameStorage v ∧ v.me.task = s.me.task)
      ∧ (p.boundAt l q ≤ p.bounded q →
          (trap = true → exec (.spawn o trap rpl ute tile) s =
            (t.afterRead u).trap .queueFull a (BitVec.ofNat 64 (p.boundAt l q)))
          ∧ (trap = false → Answers (exec (.spawn o trap rpl ute tile) s) fun v =>
              v.me.block.okind = 2 ∧ v.me.seq = s.me.seq ∧ v.paddocks = s.paddocks))

/-- 14 R306, 04 R67: TSEND to a record that waits for several tiles writes the handle into the port's slot of its
frame and lowers its JOIN by one; no other byte and no scalar register changes. A handle with upper bits raises
ILLEGAL with 0x27. -/
def Obligations.TileSends : Prop :=
  ∀ (o : PairOps) (port : BitVec 4) (s : State) (r : Record) (pa : Nat) (k : Option (BitVec 512)) (c : Cache) (fu : Bool),
    let a := s.reg o.sa
    let h := s.reg o.sb
    let slot := r.frame.toNat + 4 * port.toNat
    s.mayIssue → s.settled [o.sa, o.sb] → s.quiet = true → s.noneWait → s.Inv →
      (2 ^ 32 ≤ h.toNat → exec (.tsend o port) s = s.trap .illegal ((encode (.tsend o port)).setWidth 64) 0x27)
      ∧ (h.toNat < 2 ^ 32 → a.toNat < 2 ^ 48 → s.record? (ownerOf s.herePdk (.spawned (a.setWidth 48))) = some r →
          1 < r.join → slot % 4 = 0 → slot < 2 ^ 48 →
          (s.translate none s.herePdk (BitVec.ofNat 64 slot) (Acc.write .paddock)).2 = .ok (.mem pa k c fu) →
          (let s' := s.passHorizon
           s'.translate none s.herePdk (BitVec.ofNat 64 slot) (Acc.write .paddock).byEngine = (s', .ok (.mem pa k c fu))) →
          s.accessError none (.mem pa k c fu) 4 true = none →
          Answers (exec (.tsend o port) s) fun t =>
            t.holds k pa 4 h ∧ s.sameOutside t pa 4 ∧ t.me.seq.regs = s.me.seq.regs ∧ t.me.seq.full = s.me.seq.full
              ∧ t.me.seq.status.horizon = (s.me.seq.status.horizon || s.me.seq.status.tile)
              ∧ t.record? (ownerOf s.herePdk (.spawned (a.setWidth 48))) = some { r with join := r.join - 1 })

/-- 04 R79, 14 R308, R309: RETIRE with nothing outstanding completes and ends the task: its record is gone, its
parent's JOIN is one lower, and the core is idle, or the caller that RUNQ saved goes on with 1 in its register; ETRIG
completes, lowers the parent's JOIN and the task runs on, and an ETRIG or a RETIRE after it, or of a task without a
parent, lowers nothing. 13 R291: HALT completes at PADDOCK where no caller waits and ends the task: the record is held
with WKIND HELD and HCODE 0, the core becomes idle, and memory, registers and other cores keep what they hold; a tile
task loses its configuration and commands (04 Table SCH-8). Where a caller waits HALT is illegal, reason 0x23 (14
R309). -/
def Obligations.TaskEnds : Prop :=
  (∀ (s : State) (k : Task) (p : Paddock),
     s.mayIssue → s.me.task = some k → s.nothingOut → s.paddock? k.owner.pdk = some p → s.noneWait → s.me.consumes = [] →
     let parent := ownerOf k.owner.pdk (.spawned k.parent)
     let ends (t : State) : Prop := t.record? k.owner = none
       ∧ (s.me.callers = [] → t.me.task = none)
       ∧ ∀ x rest, s.me.callers = x :: rest → t.me.task = some x.task ∧ t.me.seq = (x.seq.advance).put x.dst 1
           ∧ t.me.callers = rest
     let runsOn (t : State) : Prop := t.me.task = some { k with triggered := true } ∧ t.me.seq.regs = s.me.seq.regs
       ∧ t.me.seq.full = s.me.seq.full ∧ t.me.seq.pc = s.me.seq.advance.pc
     (k.parent = 0 ∨ k.triggered = true → (∃ t, exec .retire s = .next t ∧ ends t)
         ∧ ∃ t, exec .etrig s = .next t ∧ runsOn t ∧ t.paddocks = s.paddocks)
       ∧ (∀ r, k.parent ≠ 0 → k.triggered = false → k.owner.name ≠ .spawned k.parent → s.record? parent = some r → 1 < r.join →
           (∃ t, exec .retire s = .next t ∧ ends t ∧ t.record? parent = some { r with join := r.join - 1 })
           ∧ ∃ t, exec .etrig s = .next t ∧ runsOn t ∧ t.record? parent = some { r with join := r.join - 1 }))
  ∧ (∀ (s : State), s.me.seq.status.priv = .paddock →
       (s.me.callers = [] → ∃ t, exec .halt s = .next t ∧ t.me.task = none ∧ t.me.seq = s.me.seq
         ∧ (∀ key a, t.readPhys key a = s.readPhys key a)
         ∧ (∀ k, s.me.task = some k → t.record? k.owner =
             (s.record? k.owner).map (fun r => { r.hold 0 with triggered := k.triggered }))
         ∧ (s.me.task.isSome = true → s.me.seq.status.tile = true →
             t.me.fabric.config = none ∧ t.me.fabric.loading = none ∧ t.me.join.inbox = []))
       ∧ (s.me.callers ≠ [] → exec .halt s = s.trap .illegal 0x96000000 0x23))

/-- 14 R310, 04 R77: YIELD in the form that waits for nothing saves the registers, their full bits and the resume
address in the 640 bytes at sa, queues the record with CTX set and frees the core. Said of a task without tiles, with
nothing outstanding and a save area in one 4 KiB stretch of local memory. -/
def Obligations.Yields : Prop :=
  ∀ (o : PairOps) (s t : State) (k : Task) (r : Record) (pa : Nat) (key : Option (BitVec 512)) (c : Cache) (fu : Bool),
    let area := s.reg o.sa
    let q := s.me.seq
    s.mayIssue → s.settled [o.sa] → s.me.task = some k → s.me.callers = [] → q.status.tile = false → q.status.intrap = false →
    s.passes area 64 (Acc.write s.priv) t (.mem pa key c fu) → area.toNat % 4096 ≤ 3456 → s.allIn = true → s.noneWait →
    s.accessError (some s.cur) (.mem pa key c fu) 640 true = none → s.Inv →
    s.me.pipe.divUnit = none → s.me.pipe.fpUnit = none → s.me.pipe.fempties = [] →
    s.record? k.owner = some r → r.tile = false →
    Answers (exec (.yield o .none) s) fun v =>
      v.me.task = none
        ∧ (∀ n : Reg, v.holds key (pa + 8 * n.toNat) 8 (q.reg n))
        ∧ v.holds key (pa + 512) 8 q.full ∧ v.holds key (pa + 520) 8 q.advance.pc
        ∧ s.sameOutside v pa 640
        ∧ ∃ x, v.record? k.owner = some x ∧ x.state = .queued ∧ x.ctx = true ∧ x.frame = area.setWidth 48

/-- 04 R69, R72, R73 (Table SCH-4), 14 R309: with one record in the device ready, in the deque of an idle core of a
die that has been idle since before this clk, DISPATCH_CLK starts it there: at CODE, at USER, with the frame in s1 and
s63, the index in s3 and the group and level in s12; and RUNQ of a running task starts it inline, its caller saved.
Said of a fresh level-0 record without tiles. -/
def Obligations.Dispatches : Prop :=
  ∀ (s : State) (p : Paddock) (r : Record) (g : GroupNum) (i : Nat) (c : CoreNum) (others : List Record),
    s.paddocks = [p] → p.records = r :: others → (∀ x ∈ others, x.state ≠ .queued ∧ x.name ≠ r.name) →
    p.desc.ownsCore c = true → r.name = .level0 g i → i < 2 ^ 32 → r.state = .queued →
    r.queue = .deque c → r.tied = none → r.tile = false → r.ctx = false → r.base < 4 → s.inClk.taken = [] →
    let starts (k : Core) : Prop :=
      (∃ task, k.task = some task ∧ task.owner.name = r.name ∧ task.owner.pdk = p.num ∧ task.group = r.group)
        ∧ k.seq.pc = r.code.setWidth 64 ∧ k.seq.status.priv = .user ∧ k.seq.status.intrap = false
        ∧ k.seq.reg 1 = r.frame.setWidth 64 ∧ k.seq.reg 63 = r.frame.setWidth 64 ∧ k.seq.reg 3 = BitVec.ofNat 64 i
        ∧ k.seq.reg 12 = BitVec.ofNat 64 (r.group.toNat + r.level * 2 ^ 16) ∧ k.seq.reg 62 = 0
        ∧ k.seq.utvec = p.desc.utvec ∧ k.seq.loops = []
    (s.coreFree c = true → Answers (exec (.dispatchClk (dieOf c)) s) fun t => starts (t.coreAt c)
        ∧ (t.record? (ownerOf p.num r.name)).map (fun x => x.state) = some (.running c))
    ∧ ∀ (sd : Reg) (k : Task), c = s.cur → s.mayIssue → s.settled [sd] → s.me.task = some k → k.owner.pdk = p.num →
        s.me.callers.length < 4 →
        Answers (exec (.runq sd) s) fun t => starts t.me ∧ t.me.callers = ⟨s.me.seq, k, sd⟩ :: s.me.callers

/-- 04 R65, R68, R70, 02 R37: GENERATOR_ENQUEUE makes the group's next level-0 record, with its frame at FBASE + index
× FSTRIDE, while the queue is below its bound; GROUP_RETIRE of a group that is finished, holds no tile and leaves no
effect to publish reports COMPLETION with its STATUS and TAG, on lanes that take events, and ends it. -/
def Obligations.Groups : Prop :=
  ∀ (s : State) (n : PdkNum) (p : Paddock) (g : Group), s.paddock? n = some p → p.group? g.number = some g →
    (∀ l rest, g.levels = l :: rest → l.domain = .package → g.next < g.counts.headD 0 → g.tile = false →
        (∀ x ∈ p.records, x.name ≠ .level0 g.number g.next) →
        p.bounded .package < p.boundAt l .package → Answers (exec (.generatorEnqueue n g.number) s) fun t =>
          (t.paddock? n).bind (fun y => y.group? g.number) = some { g with next := g.next + 1 }
            ∧ ∃ r, t.record? (ownerOf n (.level0 g.number g.next)) = some r ∧ r.state = .queued ∧ r.queue = .package
                ∧ r.code = g.entry ∧ r.frame = g.fbase + BitVec.ofNat 48 (g.next * g.fstride) ∧ r.prio = g.prio)
    ∧ (∀ tag, g.counts.headD 0 ≤ g.next → (∀ x ∈ p.records, x.group ≠ g.number) → s.tilesOf p.num g.number = [] →
        p.num = n → g.doneFut = 0 → s.lingers p g.number = false → g.sink = .message tag →
        (∀ l, (s.hub.lane l).queue = []) → s.lanesUp →
        Answers (exec (.groupRetire n g.number) s) fun t =>
          (∀ x, (t.paddock? n).bind (fun y => y.group? x) = if x = g.number then none else p.group? x)
            ∧ ∃ lane e, t.hub.sent = s.hub.sent ++ [(lane, e)] ∧ e.type = .completion ∧ e.tag = tag
                ∧ e.payload.head? = some g.status.toByte)

/-- 04 R82, R83 (Table SCH-8): a waiting record makes a core with a task of lower priority stop, and no other core;
FABRIC_SAVED queues the drained task with its context; DRAIN_WINDOW_END discards a task before its horizon and lets
one past it run on. -/
def Obligations.Preemptions : Prop :=
  ∀ (s : State) (n : PdkNum) (p : Paddock), s.paddock? n = some p →
    (∀ r ∈ p.records, s.mayPreempt p r = true → s.effOf p r < 4 → (s.victimFor p r).isSome = true →
      Answers (exec (.preemption n) s) fun t =>
        ∃ c x task, x ∈ p.records ∧ s.mayPreempt p x = true ∧ (s.coreAt c).task = some task ∧ s.effOf p x < task.effPrio
          ∧ (t.coreAt c).stopping = some (some (ownerOf n x.name)) ∧ ∀ d, d ≠ c → t.coreAt d = s.coreAt d)
    ∧ ∀ (k : Task) (r : Record) (d : Drain), s.me.task = some k → k.owner.pdk = n → s.record? k.owner = some r →
        s.me.fabric.drain = some d → s.me.stopping = some none → s.me.callers = [] →
        let st := s.me.seq.status
        (s.drained = true → Answers (exec (.fabricSaved s.cur) s) fun t => t.me.task = none ∧ t.me.fabric.config = none
            ∧ ∃ x, t.record? k.owner = some x ∧ x.state = .queued ∧ x.ctx = true ∧ x.saved = some ⟨s.me.seq⟩
                ∧ x.image.isSome = true ∧ x.front = true)
        ∧ (s.drained = false → s.drainWindow n ≤ d.instants →
            (st.horizon = false → Answers (exec (.drainWindowEnd s.cur) s) fun t => t.me.task = none
              ∧ ∃ x, t.record? k.owner = some x ∧ x.state = .queued ∧ x.ctx = false ∧ x.image = none)
            ∧ (st.horizon = true → Answers (exec (.drainWindowEnd s.cur) s) fun t =>
                t.me.task = some { k with noVictim := true } ∧ t.me.stopping = none ∧ t.me.fabric.drain = none
                  ∧ t.me.seq = s.me.seq))

/-- 04 R84 (Table SCH-9), 02 R36: a soft error in a part that the Paddock lets replay, before the horizon and with
replays left, discards the task, queues its record anew and reports REPLAY; any other holds the record with HCODE
ECC_UNCORR. The actions of HOLDCTL: REQUEUE, ABORT_RECORD and ABORT_GROUP of a named record (an abort with no message
of the record's core on its way to a home core, 06 R112), their results, and the end of BUSY. -/
def Obligations.HeldRecords : Prop :=
  ∀ (s : State) (n : PdkNum) (p : Paddock), s.paddock? n = some p →
    (∀ (k : Task) (r : Record) (u : ErrorUnit), s.me.task = some k → k.owner.pdk = n → p.num = n → s.me.callers = [] →
        s.record? k.owner = some r →
        let st := s.me.seq.status
        let replays := st.tile = true ∧ st.horizon = false ∧ st.rpl = true ∧ s.replayUnit p k u = true
          ∧ r.replays < p.desc.maxReplay.toNat
        (replays → Answers (exec (.softError s.cur u) s) fun t => t.me.task = none
            ∧ ∃ x, t.record? k.owner = some x ∧ x.state = .queued ∧ x.replays = r.replays + 1 ∧ x.ctx = false)
        ∧ (¬ replays → Answers (exec (.softError s.cur u) s) fun t => t.me.task = none
            ∧ t.record? k.owner = some { r.hold 0x70 with triggered := k.triggered }))
    ∧ ∀ (d : DieNum) (c : CtrlPage), p.num = n → p.ctrlOf d = some c → c.holdBusy = true →
        let result (t : State) : Option (BitVec 2 × Bool) :=
          ((t.paddock? n).bind fun y => y.ctrlOf d).map fun k => (k.holdResult, k.holdDone)
        (c.holdDone = false → p.record? c.named = none →
            (c.holdAction = 1 → Answers (exec (.requeue n d) s) fun t => result t = some (1, true))
            ∧ (c.holdAction = 2 → Answers (exec (.abortRecord n d) s) fun t => result t = some (1, true))
            ∧ (c.holdAction = 3 → Answers (exec (.abortGroup n d) s) fun t => result t = some (1, true)))
        ∧ (∀ r, c.holdDone = false → p.record? c.named = some r → r.state = .held → r.tile = false →
            (c.holdAction = 1 → Answers (exec (.requeue n d) s) fun t => result t = some (0, true)
              ∧ ∃ x, t.record? (ownerOf n c.named) = some x ∧ x.state = .queued ∧ x.ctx = false ∧ x.hcode = 0))
        ∧ (∀ r, c.holdDone = false → p.record? c.named = some r → r.state = .held → r.image = none → r.parent = 0 →
            (∀ m ∈ s.tileMsgs, m.reader = r.lastCore → m.isAnswer = true) →
            (c.holdAction = 2 → Answers (exec (.abortRecord n d) s) fun t => t.record? (ownerOf n c.named) = none
              ∧ ((result t).map (fun x => x.2)) = some true)
            ∧ (c.holdAction = 3 → (∀ x ∈ p.records, x.group = r.group → x = r) →
                Answers (exec (.abortGroup n d) s) fun t => t.record? (ownerOf n c.named) = none
                  ∧ ((result t).map (fun x => x.2)) = some true))
        ∧ (c.holdDone = true → Answers (exec (.holdActionEnd n d) s) fun t =>
            ((t.paddock? n).bind fun y => y.ctrlOf d) = some { c with holdBusy := false, holdDone := false })

/-- 04 R80, R81: DEADLOCK_SAMPLE at a hub clk that is a multiple of 2^15 declares a set found at the sample before as
well and not yet reported: the report on the die of its lowest member begins with the member count and the clk and
names each member, and the Paddock's supervisor core gets the trap with the die and the count. What the wait-for sets
are is the model's State.waitSets (Table SCH-7; notes/assumptions/33.md). -/
def Obligations.DeadlockReports : Prop :=
  ∀ (s : State) (m : Member) (rest : List Member) (p : Paddock) (c : CoreNum) (k : CtrlPage),
    let ms := m :: rest
    s.waitSets = [ms] → s.clk % 0x8000 = 0 → s.hub.sampledAt = some (s.clk - 0x8000) → 0x8000 ≤ s.clk → s.hub.lastSample = [ms] →
    s.hub.reported = [] → s.paddock? m.pdk = some p → p.ctrlOf (dieOf m.core) = some k → s.supervisor p = some c →
    ms.length ≤ 255 →
    Answers (exec .deadlockSample s) fun t => t.hub.reported = [ms] ∧ t.hub.sampledAt = some s.clk
      ∧ (∃ k', (t.paddock? m.pdk).bind (fun y => y.ctrlOf (dieOf m.core)) = some k'
          ∧ k'.report.take 4 = [BitVec.ofNat 64 ms.length, BitVec.ofNat 64 s.clk, BitVec.ofNat 64 (m.core.toNat + m.akind * 0x10000
              + m.okind * 0x1000000 + m.unit * 0x100000000), m.object] ∧ k'.report.length = 2 + 2 * ms.length)
      ∧ ∃ x, (t.coreAt c).pipe.traps = (s.coreAt c).pipe.traps ++ [x] ∧ x.info.val0 = (dieOf m.core).setWidth 64
          ∧ x.info.val1 = BitVec.ofNat 64 ms.length ∧ x.detached = true
          ∧ (x.info.code = .fabricDeadlock ∨ x.info.code = .deadlock)

/-! ## Commands -/

/-- 14 R311, 15 R319, R320, 12 R240: CMD and CMDM read the packet at sa once, empty its token and hand the command to
the inbox that its opcode selects, which does not take it while it is full; an opcode of no engine completes through
its token with ILLEGAL_CMD, operand 3, offset 120, and so, when it reaches its inbox, does a command with a bad
header, with the offset of the field. CMDM replaces the bits that slot names. COMMAND_COMPLETION fills the token, or
raises a fault of the supervisor where there is none. SHADOW_PUBLISH makes the bytes of a command visible (11 R218)
where no read that is out stands in the way (R219). -/
def Obligations.CommandIssue : Prop :=
  ∀ (s : State),
    (∀ (t : State) (o : SOps) (p : Packet) (pa : Nat) (k : Option (BitVec 512)) (c : Cache) (fu : Bool),
      s.mayIssue → s.settled [o.sa] → s.passes (s.reg o.sa) 16 (Acc.read s.priv) t (.mem pa k c fu) → s.storesDone = true →
      s.overlapLoad (.mem pa k c fu) 16 = false → s.accessError (some s.cur) (.mem pa k c fu) 16 false = none →
      s.holdsPacket k pa p → s.me.portsWhole →
      let issues (i : Instr) (q : Packet) : Prop :=
        let tok : Reg := q.extractLsb' 108 6
        s.settled [tok] → (pktOp q = 0x40 → s.settled [q.extractLsb' 96 6]) →
        let cmd : Cmd := { id := s.me.pipe.nextId, addr := s.pc, packet := q, owner := s.here, priv := s.priv, tok := tok }
        let refuses (v : State) (off : Nat) : Prop := v.me.done = s.me.done ++ [⟨s.me.pipe.nextId, tok, BitVec.ofNat 64
            (Code.illegalCmd.toByte.toNat + 3 * 0x100 + off * 0x10000), .illegalCmd, s.pc, s.here⟩] ∧ v.me.seq.isFull tok = false
        (∀ b, packetBox q = some b → (b.isTileBox = true → s.isTileTask = true) →
            ((s.me.inbox b).length < boxCapacity b → (∀ off, headerCheck q ≠ some (.header off)) → Answers (exec i s) fun v =>
              v.me.inbox b = s.me.inbox b ++ [cmd] ∧ v.me.seq.isFull tok = (tok == 0) ∧ v.me.seq.regs = s.me.seq.regs
                ∧ v.me.seq.status.horizon = (s.me.seq.status.horizon || (s.isTileTask && !b.isTileBox)) ∧ s.sameStorage v)
            ∧ (∀ off, (s.me.inbox b).length < boxCapacity b → headerCheck q = some (.header off) → off ≤ 120 → cmd.followTok = none →
                tok ≠ 0 → Answers (exec i s) fun v => refuses v off ∧ v.me.inbox b = s.me.inbox b)
            ∧ (boxCapacity b ≤ (s.me.inbox b).length → Answers (exec i s) fun v =>
                v.me.block.okind = 10 ∧ v.me.inbox b = s.me.inbox b ∧ v.me.seq = s.me.seq))
          ∧ (packetBox q = none → tok ≠ 0 → Answers (exec i s) fun v => refuses v 120)
      issues (.cmd o) p
        ∧ ∀ (sb : Reg) (eb : Bool) (slot : CmdSlot) (q : Packet), s.settled [sb] →
            let lo := match slot with | .low48 => 0 | .high48 => 48 | .low32 => 0
            let n := match slot with | .low48 => 48 | .high48 => 48 | .low32 => 32
            (∀ i < 128, q.getLsbD i = if lo ≤ i ∧ i < lo + n then (s.reg sb).getLsbD (i - lo) else p.getLsbD i) →
            issues (.cmdm ⟨o.sa, sb, o.ea, eb⟩ slot) q)
    ∧ (∀ (x : Completion) (before after : List Completion), s.me.done = before ++ x :: after →
        (∀ y ∈ before, y.id ≠ x.id) → x.owner = s.here →
        (x.tok ≠ 0 → Answers (exec (.commandCompletion s.cur x.id) s) fun t =>
          t.me.seq = s.me.seq.put x.tok x.word ∧ t.me.done = before ++ after ∧ s.sameStorage t)
        ∧ ∀ task, s.me.task = some task → x.tok = 0 → Answers (exec (.commandCompletion s.cur x.id) s) fun t =>
            t.me.seq = s.me.seq ∧ t.me.done = before ++ after
              ∧ ∃ p, t.me.pipe.traps = s.me.pipe.traps ++ [p] ∧ p.info.code = x.code ∧ p.info.val1 = x.word
                ∧ p.info.sup = true ∧ p.tpc = some x.addr)
    ∧ ∀ (x : Shadow) (pa : Nat) (k : Option (BitVec 512)) (c : Cache) (fu : Bool) (bs : List Byte) (done : Completion),
        s.shadows.find? (fun y => y.id == x.id) = some x → x.isJoin = false → x.leaf = none → x.followOn = none →
        x.core = s.cur → x.runs = [⟨.mem pa k c fu, bs⟩] → x.completion = some done → done.tok ≠ 0 → s.noneWait → s.Inv →
        s.splits x.runs = false → s.accessError (some s.cur) (.mem pa k c fu) bs.length true = none →
        Answers (exec (.shadowPublish x.id) s) fun t =>
          (∀ i b, bs[i]? = some b → t.readPhys k (pa + i) = b) ∧ s.sameOutside t pa bs.length
            ∧ t.shadows = s.shadows.filter (fun y => y.id != x.id) ∧ t.me.done = s.me.done ++ [done]
            ∧ t.me.ranges = s.me.ranges.filter (fun r => r.cmd != x.cmd) ∧ t.me.seq = s.me.seq

/-- 14 R312 (Table SYN-4), R314, 12 R229: PRD reads a port register at issue and leaves sd empty, and LOAD_RETURN of
its number brings the value; PWR of a parameter of an element of the running configuration, and INSTQ. 14 R313, 08
R152, R143: CFG whose header can be read completes with sd empty, whatever the image or graph holds, refuses a task
that is no tile task, a misaligned address and a draw above the task's, and waits while a configuration loads or runs;
with a placed image that is in order the load starts. CONFIGURATION_START puts the loaded configuration before its
instant 0, and MAPPING_TIMEOUT refuses a graph that is not placed within 2^22 clk. -/
def Obligations.PortsAndConfigurations : Prop :=
  (∀ (s : State),
     let fabric := s.me.fabric
     (∀ (o : UOps), s.settled [o.sa, o.sd] →
       let n := (s.reg o.sa).toNat
       let reads (u : State) (v : Word) : Prop := exec (.prd o) s = .next ((u.mapPipe fun p => { p with
           nextId := p.nextId + 1, prds := p.prds ++ [⟨p.nextId, o.sd, v, s.here⟩] }).setEmpty o.sd).advance
       let gives (v : Word) : Prop := reads s v
       (n = 4096 → reads (s.mapMe fun c => { c with stall := 0 }) (s.me.stall.setWidth 64))
         ∧ (n = 4097 → gives (s.me.block.object ++ s.me.block.detail ++ s.me.block.okind))
         ∧ (n = 1024 → gives (s.me.join.probes.setWidth 64)) ∧ (n = 1025 → gives (s.me.join.hits.setWidth 64))
         ∧ (n = 1026 → gives (s.me.join.inserts.setWidth 64)) ∧ (n = 1027 → gives (s.me.join.spills.setWidth 64))
         ∧ (∀ g e, fabric.config = some g → n < 960 → g.elem? (n / 8) = some e →
             (n % 8 = 0 → gives (e.counters.fired.setWidth 64)) ∧ (n % 8 = 1 → gives (e.counters.noopnd.setWidth 64))
             ∧ (n % 8 = 2 → gives (e.counters.nospace.setWidth 64)) ∧ (n % 8 = 3 → gives (e.counters.killed.setWidth 64)))
         ∧ (∀ g e, fabric.config = some g → 2048 ≤ n → n < 3008 → g.elem? ((n - 2048) / 8) = some e →
             gives ((e.p (n % 8)).setWidth 64))
         ∧ (2048 ≤ n → n < 3008 → fabric.config = none → gives 0)
         ∧ ((960 ≤ n ∧ n < 1024) ∨ (1032 ≤ n ∧ n < 2048) ∨ (3008 ≤ n ∧ n < 4096) ∨ 4098 ≤ n →
             exec (.prd o) s = s.trap .illegal (s.reg o.sa) 0x25))
     ∧ (∀ (o : PairOps), s.settled [o.sa, o.sb] →
         let n := (s.reg o.sa).toNat
         let v : BitVec 32 := (s.reg o.sb).setWidth 32
         (s.isTileTask = false ∨ n < 2048 ∨ 3008 ≤ n ∨ fabric.config = none →
             exec (.pwr o) s = s.trap .illegal (s.reg o.sa) 0x25)
           ∧ ∀ g e, s.isTileTask = true → fabric.config = some g → 2048 ≤ n → n < 3008 → g.elem? ((n - 2048) / 8) = some e →
               (e.accepts (n % 8) v = true → Answers (exec (.pwr o) s) fun t =>
                 t.me.fabric.config = some { g with
                     paramWrites := g.paramWrites ++ [⟨g.instant, (n - 2048) / 8, n % 8, v, none⟩] }
                   ∧ t.me.seq = s.me.seq.advance ∧ s.sameStorage t)
               ∧ (e.accepts (n % 8) v = false → exec (.pwr o) s = s.trap .illegal (s.reg o.sa) 0x26))
     ∧ ∀ (sd : Reg), s.settled [sd] →
         (∀ g, fabric.config = some g →
           exec (.instq sd) s = .next (s.put sd (BitVec.ofNat 64 (0x8000000000000000 + g.instant % 0x1000000000000))).advance)
         ∧ (fabric.config = none →
             (s.me.callers = [] → exec (.instq sd) s =
               .next (s.put sd (BitVec.ofNat 64 (fabric.lastCount % 0x1000000000000))).advance)
             ∧ (s.me.callers ≠ [] → exec (.instq sd) s = .next (s.put sd 0).advance)))
  ∧ (∀ (s : State) (x : PendPort), s.me.pipe.prds.find? (fun y => y.id == x.id) = some x → x.owner = s.here →
       s.me.pipe.loads.find? (fun y => y.id == x.id) = none → Answers (exec (.loadReturn s.cur x.id false) s) fun t =>
         t.me.seq = s.me.seq.put x.dst x.value ∧ s.sameStorage t ∧ s.sameRest t
           ∧ t.me.pipe = { s.me.pipe with prds := s.me.pipe.prds.filter fun y => y.id != x.id })
  ∧ (∀ (o : UOps) (graph : Bool) (s t : State) (pa : Nat) (k : Option (BitVec 512)) (c : Cache) (fu : Bool) (d : Word),
       let a := s.reg o.sa
       let n := if graph then 64 else 128
       s.mayIssue → s.settled [o.sa, o.sd] → s.isTileTask = true → a.toNat % 8 = 0 → s.me.fabric.loading = none →
       s.me.fabric.config = none → s.storesDone = true → a.toNat % 4096 + n ≤ 4096 →
       s.translate (some s.cur) s.herePdk a (Acc.read s.priv) = (t, .ok (.mem pa k c fu)) →
       s.accessError (some s.cur) (.mem pa k c fu) n false = none → s.holds k (pa + if graph then 36 else 4) 2 d →
       d.toNat % 2 ^ 16 ≤ s.hereDraw →
       ∃ v, exec (.cfg o graph) s = .next v ∧ v.me.seq = (s.me.seq.setEmpty o.sd).advance ∧ s.sameStorage v
         ∧ v.me.fabric.config = none)
  ∧ (∀ (o : UOps) (s u w : State) (head : List Byte) (cols : List (List ColWord)) (g : Image),
       let a := s.reg o.sa
       let draw := natAt head 4 2
       (s.mayIssue → s.settled [o.sa, o.sd] →
         (s.isTileTask = false → exec (.cfg o false) s = s.trap .illegal ((encode (.cfg o false)).setWidth 64) 0x24)
         ∧ (s.isTileTask = true → a.toNat % 8 ≠ 0 → exec (.cfg o false) s = s.trap .misalign a 8)
         ∧ (s.isTileTask = true → a.toNat % 8 = 0 →
             ((s.me.fabric.loading.isSome || s.me.fabric.config.isSome) = true → Answers (exec (.cfg o false) s) fun t =>
                 t.me.block.okind = 11 ∧ t.me.seq = s.me.seq ∧ t.me.fabric = s.me.fabric)
             ∧ (s.me.fabric.loading = none → s.me.fabric.config = none → s.storesDone = true →
                 s.loadBytes a.toNat 128 = (u, .ok head) →
                 (s.hereDraw < draw →
                   exec (.cfg o false) s = u.trap .illegal (BitVec.ofNat 64 draw) (BitVec.ofNat 64 s.hereDraw))
                 ∧ (draw ≤ s.hereDraw → u.readImage a.toNat head = (w, .columns cols) → imageOf head cols = .ok g →
                     Answers (exec (.cfg o false) s) fun t =>
                       (∃ l, t.me.fabric.loading = some l ∧ l.image = g ∧ l.tok = o.sd ∧ l.owner = s.here ∧ l.since = s.clk
                         ∧ l.isGraph = false)
                       ∧ t.me.seq = (s.me.seq.setEmpty o.sd).advance ∧ s.sameStorage t))))
       ∧ ∀ l : Loading, s.me.fabric.loading = some l →
           (l.isGraph = false → Answers (exec (.configurationStart s.cur) s) fun t =>
             t.me.fabric.loading = none ∧ t.me.seq = s.me.seq ∧ s.sameStorage t
               ∧ ∃ c, t.me.fabric.config = some c ∧ c.instant = 0 ∧ c.image = l.image ∧ c.tok = l.tok ∧ c.owner = l.owner)
           ∧ (l.isGraph = true → l.since + 0x400000 ≤ s.clk → l.tok ≠ 0 → Answers (exec (.mappingTimeout s.cur) s) fun t =>
               t.me.fabric.loading = none ∧ t.me.fabric.config = s.me.fabric.config
                 ∧ ∃ x, t.me.done = s.me.done ++ [x] ∧ x.tok = l.tok ∧ x.code = .cfgKind ∧ t.me.fabric.ffval0 = 6)
           ∧ (s.clk < l.since + 0x400000 → exec (.mappingTimeout s.cur) s = .next s))

/-! ## Floating point -/

/-- 14 R315, R316: FADD, FSUB, FMUL and FMA round the exact result once, and a NaN made from operands that are not NaN
sets NV; FDIV and FSQRT enter their unit, which takes one at a time, with their result. The flags are sticky (that
those of the unit are raised at issue is the model's choice, notes/assumptions/43.md). Special values: a NaN operand
gives the NaN and no flag, inf − inf and √ of a negative value are invalid, and x / 0 divides by zero. -/
def Obligations.FloatingPoint : Prop :=
  ∀ (o : FpOps) (s : State), s.settled [o.sa, o.sb, o.sd] →
    let f := if o.dbl then Fmt.fp64 else Fmt.fp32
    let x := f.decode (s.reg o.sa).toNat
    let y := f.decode (s.reg o.sb).toNat
    let z := f.decode (s.reg o.sd).toNat
    let made (r : Machine.Num) (from_ : List Machine.Num) : Bool := r.isNan && from_.all fun v => !v.isNan
    let gives (i : Instr) (r : Machine.Num) (nv : Bool) : Prop :=
      let c := f.round r o.rm false
      exec i s = .next ((s.raise { c.2 with nv := c.2.nv || nv }).put o.sd (BitVec.ofNat 64 c.1)).advance
    let p := x.mul y
    let nan : Word := if o.dbl then 0x7FF8000000000000 else 0x7FC00000
    let enters (i : Instr) (v : Word) (fl : FpFlags) : Prop :=
      exec i s = .next ((s.raise fl).mapPipe fun q => { q with fpUnit := some ⟨o.sd, v, s.here⟩ }).advance
    let sqrt : Instr := .fsqrt ⟨o.sd, o.sa, o.ea⟩ o.dbl o.rm
    gives (.fadd o) (x.add y o.rm) (made (x.add y o.rm) [x, y])
      ∧ gives (.fsub o) (x.add y.neg o.rm) (made (x.add y.neg o.rm) [x, y]) ∧ gives (.fmul o) p (made p [x, y])
      ∧ gives (.fma o) (p.add z o.rm) (made p [x, y] || made (p.add z o.rm) [p, z])
      ∧ (x = .nan ∨ y = .nan → ∀ i ∈ [Instr.fadd o, .fsub o, .fmul o, .fma o],
          exec i s = .next ((s.raise FpFlags.none).put o.sd nan).advance)
      ∧ (∀ neg, x = .inf neg → y = .inf neg →
          exec (.fsub o) s = .next ((s.raise FpFlags.invalid).put o.sd nan).advance)
      ∧ (s.me.pipe.fpUnit = none →
          enters (.fdiv o) (fpDiv o.dbl o.rm x y).1 (fpDiv o.dbl o.rm x y).2
          ∧ enters sqrt (fpSqrt o.dbl o.rm x).1 (fpSqrt o.dbl o.rm x).2
          ∧ (∀ neg m e, x = .fin neg m e → m ≠ 0 → y.isZero = true → ∃ v, enters (.fdiv o) v FpFlags.divZero
              ∧ f.decode v.toNat = .inf (neg != y.isNeg))
          ∧ (∀ m e, x = .fin true m e → m ≠ 0 → enters sqrt nan FpFlags.invalid)
          ∧ (x = .nan → enters sqrt nan FpFlags.none))
      ∧ (∀ r, s.me.pipe.fpUnit = some r → exec (.fdiv o) s = s.stall Block.unit ∧ exec sqrt s = s.stall Block.unit)

/-- 14 R317: FMIN and FMAX, FCMP with its flags, and FCLASS said by the bits of the operand. 14 R318, 07 R122, R123:
CVT between scalar formats: to a floating-point format the exact value is rounded once; to an integer the value is
rounded to an integer, and one out of range is invalid and gives the nearest bound; between integers a value out of
range is invalid and is clamped with sat, or keeps its low bits. A signed result is sign-extended. -/
def Obligations.ComparisonsConversions : Prop :=
  (∀ (o : ROps) (dbl : Bool) (s : State), s.settled [o.sa, o.sb, o.sd] →
     let f := if dbl then Fmt.fp64 else Fmt.fp32
     let low (v : Word) : Word := if dbl then v else BitVec.ofNat 64 (v.toNat % 2 ^ 32)
     let a := low (s.reg o.sa)
     let b := low (s.reg o.sb)
     let x := f.decode a.toNat
     let y := f.decode b.toNat
     let picks (lo hi : Word) : Prop :=
       exec (.fmin o dbl) s = .next (s.put o.sd lo).advance ∧ exec (.fmax o dbl) s = .next (s.put o.sd hi).advance
     let tells (c : FCond) (v : Bool) (fl : FpFlags) : Prop :=
       exec (.fcmp o dbl c) s = .next ((s.raise fl).put o.sd (if v then 1 else 0)).advance
     let un := x.isNan || y.isNan
     let fl := if un then FpFlags.invalid else FpFlags.none
     (x.lt y = true → picks a b) ∧ (y.lt x = true → picks b a)
       ∧ (x.isZero = true → y.isZero = true → x.isNeg = true → y.isNeg = false → picks a b)
       ∧ (x = .nan → y ≠ .nan → picks b b) ∧ (x ≠ .nan → y = .nan → picks a a)
       ∧ (x = .nan → y = .nan → let n : Word := if dbl then 0x7FF8000000000000 else 0x7FC00000; picks n n)
       ∧ tells .eq (!un && !x.lt y && !y.lt x) FpFlags.none ∧ tells .lt (!un && x.lt y) fl ∧ tells .le (!un && !y.lt x) fl
       ∧ tells .unord un FpFlags.none
       ∧ (let top := if dbl then 63 else 31
          let neg := a.getLsbD top
          let e := if dbl then a.toNat / 2 ^ 52 % 2 ^ 11 else a.toNat / 2 ^ 23 % 2 ^ 8
          let m := if dbl then a.toNat % 2 ^ 52 else a.toNat % 2 ^ 23
          let quiet := a.getLsbD (if dbl then 51 else 22)
          let last := if dbl then 2 ^ 11 - 1 else 2 ^ 8 - 1
          let k : Nat :=
            if e = last then (if m ≠ 0 then (if quiet then 9 else 8) else if neg then 0 else 7)
            else if e ≠ 0 then (if neg then 1 else 6)
            else if m ≠ 0 then (if neg then 2 else 5)
            else if neg then 3 else 4
          exec (.fclass ⟨o.sd, o.sa, o.ea⟩ dbl) s = .next (s.put o.sd (BitVec.ofNat 64 (2 ^ k))).advance))
  ∧ (∀ (o : UOps) (dst src : ScalarFmt) (rm : Rounding) (sat : Bool) (s : State), s.settled [o.sa, o.sd] →
       let v := (s.reg o.sa).toNat
       let gives (w : Word) (fl : FpFlags) : Prop :=
         exec (.cvt o dst src rm sat) s = .next ((s.raise fl).put o.sd w).advance
       let fmt (k : ScalarFmt) : AnyFmt := s.me.seq.scalarFmt k
       let nv (c : Bool) : FpFlags := { FpFlags.none with nv := c }
       (∀ f, fmt dst = .fp f → ¬ (dst = src ∧ (src = .b8a ∨ src = .b8b)) →
           let r := f.round ((fmt src).decode v) rm sat
           gives (BitVec.ofNat 64 r.1) r.2)
         ∧ (dst = src → src = .b8a ∨ src = .b8b → gives (BitVec.ofNat 64 (v % 256)) FpFlags.none)
         ∧ (∀ f t, fmt src = .fp f → fmt dst = .int t →
             (f.decode v = .nan → gives 0 (nv true))
             ∧ (∀ neg, f.decode v = .inf neg → gives (BitVec.ofInt 64 (if neg then t.lo else t.hi)) (nv true))
             ∧ ∀ neg m e, f.decode v = .fin neg m e →
                 let k := (roundTo rm neg m e 0).1
                 let r : Int := if neg then -(k : Int) else k
                 (t.lo ≤ r → r ≤ t.hi → gives (BitVec.ofInt 64 r) { FpFlags.none with nx := (roundTo rm neg m e 0).2 })
                   ∧ (t.hi < r → gives (BitVec.ofInt 64 t.hi) (nv true)) ∧ (r < t.lo → gives (BitVec.ofInt 64 t.lo) (nv true)))
         ∧ ∀ a t, fmt src = .int a → fmt dst = .int t →
             let n := a.decode v
             (t.lo ≤ n → n ≤ t.hi → gives (BitVec.ofInt 64 n) FpFlags.none)
               ∧ (n < t.lo ∨ t.hi < n → sat = true → gives (BitVec.ofInt 64 (max t.lo (min t.hi n))) (nv true))
               ∧ (n < t.lo ∨ t.hi < n → sat = false → ∃ w : Int, gives (BitVec.ofInt 64 w) (nv true)
                   ∧ t.lo ≤ w ∧ w ≤ t.hi ∧ (w - n) % 2 ^ t.width = 0))

/-! ## The fabric -/

/-- 15 R322 to R327: a port or control command at the head of its inbox that the running configuration can take
starts: FEED, FEEDT, FEEDC, EOFI, DRAIN and DRAINT run at their port, FEED and FEEDT once no pending range holds them
(11 R220), a tile is read only once it is admitted (06 R106), PARM, ARM and HALTF are kept for the instant that they
act in, 4 clk later. Where nothing loads or runs a command completes with ILLEGAL_CMD, operand 3, offset 120. -/
def Obligations.FabricCommands : Prop :=
  ∀ (s : State) (k : Cmd) (rest : List Cmd), s.me.portsWhole →
    let runs (b : Box) (x : Port) (i : Instr) (target : PortEnd) (left : Nat) (eof : Bool) (level : BitVec 3) : Prop :=
      x.queue = k :: rest → ∃ t, exec i s = .next t ∧ t.me.inbox b = rest ∧ t.me.seq = s.me.seq ∧ s.sameStorage t
        ∧ ∃ r, (match b with
            | .ingress p => (portAt t.me.fabric.ingress p).run | .egress p => (portAt t.me.fabric.egress p).run
            | _ => none) = some r
          ∧ r.cmd = k ∧ r.target = target ∧ r.left = left ∧ r.eof = eof ∧ r.level = level ∧ r.moved = 0
    let fails (b : Box) (i : Instr) (off : Nat) : Prop :=
      s.me.inbox b = k :: rest → k.followTok = none → Answers (exec i s) fun t => t.me.inbox b = rest ∧ t.me.seq = s.me.seq
        ∧ ∃ x, t.me.done = s.me.done ++ [x] ∧ x.tok = k.tok ∧ x.code = .illegalCmd
          ∧ x.word = BitVec.ofNat 64 (Code.illegalCmd.toByte.toNat + 3 * 2 ^ 8 + off * 2 ^ 16)
    let freshTile (h : BitVec 32) (n : Nat) (p : Paddock) (tile : Tile) (c held : Nat) : Prop :=
      h.extractLsb' 22 10 = s.cur ∧ s.paddock? k.owner.pdk = some p ∧ p.desc.ownsCore s.cur = true ∧ s.enabledCore s.cur = true
        ∧ s.consumeOf k.id n h = none ∧ s.me.loft.gen (h.extractLsb' 13 9).toNat = h.setWidth 13
        ∧ s.me.loft.tile? (h.extractLsb' 13 9).toNat = some tile ∧ tile.state = .counted c held ∧ held < c
    (∀ (g : RunConfig), s.me.fabric.config = some g →
      (∀ (o : FeedOps) d, g.image.ingressDesc o.port.toNat = some d →
          (o.addr.toNat % 128 = 0 → s.noneHolds k → runs (.ingress o.port) (portAt s.me.fabric.ingress o.port) (.feed o)
            (.mem o.addr) o.count.toNat o.eof o.level)
          ∧ (o.addr.toNat % 128 ≠ 0 → fails (.ingress o.port) (.feed o) 0))
      ∧ (∀ (o : FeedTOps) d p tile c held, g.image.ingressDesc o.port.toNat = some d → freshTile o.handle 0 p tile c held →
          s.noneHolds k → runs (.ingress o.port) (portAt s.me.fabric.ingress o.port) (.feedt o) (.tile o.handle)
            o.count.toNat o.eof o.level)
      ∧ (∀ (o : FeedCOps) d, g.image.ingressDesc o.port.toNat = some d →
          (d.isD = false → runs (.ingress o.port) (portAt s.me.fabric.ingress o.port) (.feedc o) (.coords o.base o.step)
            o.count.toNat o.eof o.level)
          ∧ (d.isD = true → fails (.ingress o.port) (.feedc o) 0))
      ∧ (∀ tok port level d, g.image.ingressDesc port.toNat = some d →
          runs (.ingress port) (portAt s.me.fabric.ingress port) (.eofi tok port level) .marker 0 true level)
      ∧ (∀ (o : DrainOps) d, getAt g.image.egress o.port.toNat none = some d →
          (o.addr.toNat % 128 = 0 → ¬ (o.count.toNat = 0 ∧ o.eof = false) →
            runs (.egress o.port) (portAt s.me.fabric.egress o.port) (.drain o) (.mem o.addr) o.count.toNat o.eof 0)
          ∧ (o.addr.toNat % 128 ≠ 0 → fails (.egress o.port) (.drain o) 0)
          ∧ (o.addr.toNat % 128 = 0 → o.count.toNat = 0 → o.eof = false → s.me.inbox (.egress o.port) = k :: rest →
              k.tok ≠ 0 → Answers (exec (.drain o) s) fun t => t.me.inbox (.egress o.port) = rest
                ∧ ∃ x, t.me.done = s.me.done ++ [x] ∧ x.tok = k.tok ∧ x.word = 0))
      ∧ (∀ (o : DrainTOps) d p tile c held, getAt g.image.egress o.port.toNat none = some d →
          freshTile o.handle 2 p tile c held → ¬ (o.count.toNat = 0 ∧ o.eof = false) →
          runs (.egress o.port) (portAt s.me.fabric.egress o.port) (.draint o) (.tile o.handle) o.count.toNat o.eof 0)
      ∧ (s.me.fabric.control = k :: rest →
          let later := g.instant + (if g.image.period2 then 2 else 4)
          let keeps (i : Instr) (g' : RunConfig) : Prop := ∃ t, exec i s = .next t
            ∧ t.me.fabric.config = some g' ∧ t.me.fabric.control = rest ∧ t.me.seq = s.me.seq ∧ s.sameStorage t
          (g.controlTaken = false →
            (∀ (tok : Reg) (e : BitVec 7) (n : BitVec 3) (v : BitVec 32) (x : ElemState), g.elem? e.toNat = some x →
              x.accepts n.toNat v = true →
              keeps (.parm tok e n v) { g with paramWrites := g.paramWrites ++ [⟨later, e.toNat, n.toNat, v, some k⟩] })
            ∧ (∀ tok cols, keeps (.arm tok cols) { g with arms := g.arms ++ [⟨later, cols, k⟩] })
            ∧ ∀ tok, keeps (.haltf tok) { g with halted := some k })
          ∧ (g.controlTaken = true → ∀ tok cols, exec (.arm tok cols) s = .next s ∧ exec (.haltf tok) s = .next s)))
    ∧ (s.me.fabric.config = none → s.me.fabric.loading = none →
        (∀ (o : FeedOps), o.addr.toNat % 128 = 0 → fails (.ingress o.port) (.feed o) 120)
        ∧ (∀ (o : DrainOps), o.addr.toNat % 128 = 0 → fails (.egress o.port) (.drain o) 120)
        ∧ ∀ tok, fails .control (.haltf tok) 120)

/-- 08 R139, R143, R145, R153, 16 R364, 14 R314: an INSTANT of a running configuration either goes on to the next
instant, with the same image, no byte of local memory, no full bit and no scalar register changed (what its elements
and drains write is held until the commit, and no instant begins while a read under way has seen that in part, 11
R219), or ends the configuration, whose last count INSTQ then reads. THR_TIMEOUT and CTLM_TIMEOUT queue the marker of
an element that has been silent for its timeout (16 R351, R360), and change nothing where no element has. -/
def Obligations.Instants : Prop :=
  ∀ (s : State) (g : RunConfig), s.me.fabric.config = some g →
    (s.splits (g.held.map (·.run)) = true → exec (.instant s.cur) s = .next s)
    ∧ (s.splits (g.held.map (·.run)) = false → Answers (exec (.instant s.cur) s) fun t =>
        (∃ g', t.me.fabric.config = some g' ∧ g'.instant = g.instant + 1 ∧ g'.image = g.image ∧ g'.id = g.id
          ∧ (∀ key a, t.readPhys key a = s.readPhys key a) ∧ (∀ a, t.fullBit a = s.fullBit a) ∧ t.me.seq = s.me.seq)
        ∨ (t.me.fabric.config = none ∧ t.me.fabric.lastCount = g.instant))
      ∧ ∀ (n : BitVec 7),
          let v : Env := ⟨g, s.me.fabric.egress, s.cur, s.clk⟩
          let silent (m : EMode) (e : ElemState) : Prop := e.desc.index = n.toNat ∧ e.desc.mode = m ∧ e.enabled = true
            ∧ e.saved = false ∧ e.p 2 ≠ 0 ∧ (e.p 2).toNat ≤ e.num 0 ∧ v.room e = true
          let timesOut (m : EMode) (i : Instr) (mark : ElemState → GroupRun) : Prop :=
            Answers (exec i s) (fun t => ∃ g' : RunConfig, t.me.fabric.config = some g' ∧ g'.elems.length = g.elems.length
                ∧ ∀ (j : Nat) (e : ElemState), g.elems[j]? = some e → (¬ silent m e → g'.elems[j]? = some e)
                  ∧ (silent m e → (v.outs e).isEmpty = false → ∃ e' : ElemState, g'.elems[j]? = some e' ∧ e'.desc = e.desc
                      ∧ e'.groups = e.groups ++ [mark e] ∧ e'.num 0 = 0 ∧ e'.fifos = e.fifos))
          timesOut .thr (.thrTimeout s.cur n) (fun e => GroupRun.ofMarker ((e.p 1).setWidth 3))
            ∧ timesOut .ctlm (.ctlmTimeout s.cur n) fun e => GroupRun.ofDone ((e.p 4).setWidth 3)

/-! ## The join engine -/

/-- 10 R180, R183, R184, R186, R188, R189, R191, R192, R201: an accumulating command that holds its power token folds
its products into the Corral and completes with their flags and count. Said of one row of a JDENSE into an empty
Corral, of a JSPARSE of two single tuples, and of a JGATH and a JFEED of one; every source is an admitted tile of this
core, and the KEY's window has a slot. 10 R195 to R202, 07 Table FMT-9, 15 R330: a drain or peek at the head of the
join inbox whose target lies in one 4 KiB page writes the entries, in ascending KEY when it is ordered, as a shadow
write that waits for the commit (R181); a drain empties the Corral. JCLR empties it, JSPILL arms a spill area. The
token carries the entries' flags and the count. -/
def Obligations.JoinEngine : Prop :=
  (∀ (s : State) (k : Cmd) (since : Nat), s.me.join.inbox = [k] → k.tok ≠ 0 → s.me.join.power = .holding since →
     s.me.ranges = [] → s.me.bte = [] → s.me.suspended = [] →
     let j := s.me.join
     let tile (h : BitVec 32) (n : Nat) : Prop := ∃ x, s.consumeOf k.id n h = some x ∧ x.admitted = true ∧ x.failed = none
     let ready (m : CorralMode) (afmt : BitVec 2) : Prop := j.mode = .empty ∨ (j.mode = m ∧ j.afmt = afmt)
     let ended (t : State) (flags : BitVec 3) (n : Nat) : Prop := t.me.join.inbox = [] ∧ t.me.seq = s.me.seq ∧ s.sameStorage t
       ∧ t.me.join.power = .idle ∧ t.me.done = s.me.done ++ [⟨k.id, k.tok, BitVec.ofNat 64 (flags.toNat * 2 ^ 8 + n * 2 ^ 16),
         .none, k.addr, k.owner⟩]
     let folds (t : State) (afmt : BitVec 2) (rm : Rounding) (slot : Nat) (key : BitVec 48) (x : Product) : Prop :=
       let e := match assocGet j.entries slot with
         | some e => e.add afmt rm x
         | none => CorralEntry.first key afmt rm x
       t.me.join.mode = .hash ∧ t.me.join.afmt = afmt ∧ assocGet t.me.join.entries slot = some e
         ∧ (∀ n, n ≠ slot → assocGet t.me.join.entries n = assocGet j.entries n) ∧ ended t e.flags 1
     (∀ tok f (m : BitVec 7) (n : BitVec 6) (base : BitVec 15) ext d ha hb ra rb, k.desc = some d → fmtPairs f = true →
         let i : Instr := .jdense tok f m n base ext
         let rows := m.toNat + 1
         let cols := n.toNat + 1
         badKind d (descRefs i) = none → badRef d (descRefs i) = none → descZero d 23 1 = true → descZero d 27 1 = true →
         descZero d 28 36 = true → base.toNat + rows * cols ≤ 32768 → j.mode = .empty → j.entries = [] →
         refOf (descWord d 0) = .tile ha → refOf (descWord d 8) = .tile hb → tile ha 0 → tile hb 1 → natAt d 16 4 = 1 →
         s.readTile ha 0 (fmtRowBytes f rows) = .ok ra → s.readTile hb 0 (fmtRowBytes f cols) = .ok rb →
         Answers (exec i s) fun t => t.me.join.mode = .dense ∧ t.me.join.afmt = f.afmt
           ∧ (∃ flags, ended t flags (rows * cols))
           ∧ ∀ r < rows, ∀ c < cols, assocGet t.me.join.entries (base.toNat + r * cols + c)
               = some (CorralEntry.first (corralKey (natAt d 20 3 + r) (natAt d 24 3 + c)) f.afmt f.rm
                   ((fmtValueAt f ra r).mul (fmtValueAt f rb c), 0)))
     ∧ (∀ tok f ext d ha hb (ca cb va vb na nb : List Byte) slot, k.desc = some d → fmtPairs f = true →
         let i : Instr := .jsparse tok f ext
         let size := if f.fmt = 6 then 18 else fmtSize f
         badRef d (descRefs i) = none → descZero d 16 48 = true → ready .hash f.afmt →
         refOf (descWord d 0) = .tile ha → refOf (descWord d 8) = .tile hb → tile ha 0 → tile hb 1 →
         s.readTile ha 0 8 = .ok na → s.readTile hb 0 8 = .ok nb → natAt na 0 4 = 1 → natAt nb 0 4 = 1 →
         s.readTile ha 8 8 = .ok ca → s.readTile hb 8 8 = .ok cb → natAt ca 7 1 = 0 → natAt cb 7 1 = 0 →
         s.readTile ha 16 size = .ok va → s.readTile hb 16 size = .ok vb → ca.length = 8 → cb.length = 8 →
         let key := corralKey (natAt ca 4 3) (natAt cb 4 3)
         (natAt ca 0 4 = natAt cb 0 4 → j.probe key = some slot → Answers (exec i s) fun t =>
           folds t f.afmt f.rm slot key ((fmtValueAt f va 0).mul (fmtValueAt f vb 0), 0))
         ∧ (natAt ca 0 4 ≠ natAt cb 0 4 → Answers (exec i s) fun t => ended t 0 0 ∧ t.me.join.entries = j.entries))
     ∧ (∀ tok f (nb : BitVec 12) ext d ha hb (na ca va row : List Byte) slot, k.desc = some d → fmtPairs f = true → f.fmt ≠ 6 →
         let i : Instr := .jgath tok f nb ext
         let key := corralKey (natAt d 24 3) (natAt d 28 3)
         nb = 0 → badRef d (descRefs i) = none → natAt d 20 4 % fmtSize f = 0 → descZero d 27 1 = true →
         descZero d 31 33 = true → ready .hash f.afmt → refOf (descWord d 0) = .tile ha → refOf (descWord d 8) = .tile hb →
         tile ha 0 → tile hb 1 → s.readTile ha 0 8 = .ok na → natAt na 0 4 = 1 → s.readTile ha 8 4 = .ok ca →
         s.readTile ha 16 (fmtSize f) = .ok va →
         (natAt ca 0 4 < natAt d 16 4 → s.readTile hb (natAt ca 0 4 * natAt d 20 4) (fmtSize f) = .ok row →
           j.probe key = some slot → Answers (exec i s) fun t =>
             folds t f.afmt f.rm slot key ((fmtValueAt f va 0).mul (fmtValueAt f row 0), 0))
         ∧ (natAt d 16 4 ≤ natAt ca 0 4 → k.followTok = none → Answers (exec i s) fun t => t.me.join.inbox = []
             ∧ ∃ x, t.me.done = s.me.done ++ [x] ∧ x.tok = k.tok ∧ x.code = .indexRange
               ∧ x.word = BitVec.ofNat 64 (Code.indexRange.toByte.toNat + 8 * 2 ^ 16)))
     ∧ ∀ tok src afmt rm h (bs : List Byte) slot, refOf src = .tile h → tile h 0 → ready .hash afmt →
         s.readTile h 0 16 = .ok bs → bs.length = 16 → natAt bs 13 1 = afmt.toNat → natAt bs 6 2 = 0 →
         let key := BitVec.ofNat 48 (natAt bs 0 6)
         let f := match afmt.toNat with | 0 => Fmt.fp32 | 1 => Fmt.fp16 | _ => Fmt.bf16
         j.probe key = some slot → Answers (exec (.jfeed tok src 1 afmt rm) s) fun t =>
           folds t afmt rm slot key (f.decode (natAt bs 8 (f.width / 8)), BitVec.ofNat 3 (natAt bs 12 1)))
  ∧ (∀ (s : State) (k : Cmd) (rest : List Cmd), s.me.join.inbox = k :: rest → k.tok ≠ 0 →
       let j := s.me.join
       let ended (t : State) (flags : BitVec 3) (n : Nat) : Prop := t.me.join.inbox = rest ∧ t.me.seq = s.me.seq
         ∧ s.sameStorage t ∧ t.me.done = s.me.done ++ [⟨k.id, k.tok, BitVec.ofNat 64 (flags.toNat * 2 ^ 8 + n * 2 ^ 16), .none,
           k.addr, k.owner⟩]
       let all := j.entries.map fun e => e.2
       (∀ (e : CorralEntry) (a : BitVec 2), (e.record a).length = 16 ∧ natAt (e.record a) 0 8 = e.key.toNat
           ∧ natAt (e.record a) 8 4 = e.value.toNat ∧ natAt (e.record a) 12 1 = e.ovf.toNat + 2 * e.sat.toNat + 4 * e.nans.toNat
           ∧ natAt (e.record a) 13 1 = a.toNat ∧ natAt (e.record a) 14 2 = 0)
       ∧ (∀ tok, Answers (exec (.jclr tok) s) fun t => ended t 0 0 ∧ t.me.join = { j with entries := [], mode := .empty, inbox := rest })
       ∧ (∀ tok addr cap, Answers (exec (.jspill tok addr cap) s) fun t => ended t 0 cap.toNat
           ∧ t.me.join = { j with spillBase := addr, spillCap := cap, spillCount := 0, inbox := rest })
       ∧ (∀ (addr : BitVec 48) (u : State) (tgt : Target), 0 < all.length → addr.toNat % 4096 + 16 * all.length ≤ 4096 →
           s.engTarget (s.agentOf k) addr.toNat (16 * all.length) true = (u, .ok tgt) → s.me.ranges.length < 16 → k.trail = [] →
           (∀ x ∈ rest, k.id ≤ x.id) → (∀ x ∈ s.me.suspended, x.box ≠ .join) →
           let flags : BitVec 3 := all.foldl (fun f e => f ||| e.flags) 0
           let writes (t : State) (es : List CorralEntry) : Prop := ended t flags all.length
             ∧ ∃ x, t.shadows = s.shadows ++ [x] ∧ x.isJoin = true ∧ x.owner = k.owner
               ∧ x.runs = [⟨tgt, es.flatMap fun e => e.record j.afmt⟩]
           (∀ tok, Answers (exec (.jpeek tok addr) s) fun t => writes t all ∧ t.me.join = { j with inbox := rest })
           ∧ (∀ tok, Answers (exec (.jdrain tok false (.records addr)) s) fun t => writes t all
               ∧ t.me.join = { j with entries := [], mode := .empty, inbox := rest })
           ∧ ∀ tok, Answers (exec (.jdrain tok true (.records addr)) s) fun t => ∃ es, writes t es ∧ es.Perm all
               ∧ es.Pairwise (fun x y => x.key.toNat ≤ y.key.toNat)
               ∧ t.me.join = { j with entries := [], mode := .empty, inbox := rest })
       ∧ ∀ (tok : Reg) (ordered : Bool) (ext : BitVec 48) (d : List Byte) (f : AnyFmt) (e : CorralEntry) (p : Nat) (u : State)
           (tgt : Target),
           let a := blockArgs d
           k.desc = some d → firstBad (blockChecks d) = none → descFmt a.fmtd = some f → a.zfill = false → all = [e] →
           a.place e = some p → (a.addr + p * f.bytes) % 4096 + f.bytes ≤ 4096 → 0 < f.bytes →
           s.engTarget (s.agentOf k) (a.addr + p * f.bytes) f.bytes true = (u, .ok tgt) → s.me.ranges.length < 16 →
           k.trail = [] →
           Answers (exec (.jdrain tok ordered (.dense ext)) s) fun t => ended t e.flags 1
             ∧ (∃ x, t.shadows = s.shadows ++ [x] ∧ x.isJoin = true
                 ∧ x.runs = [⟨tgt, bytesOf (blockValue j.afmt a.fmtd f e) f.bytes⟩])
             ∧ t.me.join = { j with entries := [], mode := .empty, inbox := rest })

/-! ## Block transfers -/

/-- 15 R331, R333 to R336, 03 R60, R61, 11 R218 to R220, 06 R114: a BTE command at the head of its queue, with no
range pending, whose source and target each lie in one 4 KiB page, reads its source and leaves its bytes as shadow
writes with its range pending; nothing is visible before the publish. PAGEIN brings a tier page's bytes and the new
leaf entry, which its publish swaps in only where the old one still stands. PUBLISH makes the ranges that it names
visible, with which a BTE command among their owners completes. MCAST asks the Loft of each destination for a tile. -/
def Obligations.BlockTransfers : Prop :=
  ∀ (s : State) (k : Cmd), s.me.bte = [k] → k.tok ≠ 0 → k.trail = [] → s.me.join.inbox = [] → s.me.suspended = [] →
    let word (code : Code) (mid n : Nat) : Word := BitVec.ofNat 64 (code.toByte.toNat + mid * 0x100 + n * 0x10000)
    let leaves (t : State) (tgt : Target) (bs : List Byte) (start : Nat) (leaf : Option LeafSwap) : Prop :=
      t.me.bte = [] ∧ t.me.seq = s.me.seq ∧ s.sameStorage t ∧ t.me.ranges = [⟨k.id, start, bs.length⟩]
        ∧ ∃ x, t.shadows = s.shadows ++ [x] ∧ x.core = s.cur ∧ x.owner = k.owner ∧ x.cmd = k.id ∧ x.isJoin = false
          ∧ x.runs = [⟨tgt, bs⟩] ∧ x.start = start ∧ x.len = bs.length ∧ x.followOn = none ∧ x.leaf = leaf
          ∧ x.completion = some ⟨k.id, k.tok, word .none 0 bs.length, .none, k.addr, k.owner⟩
    (s.me.ranges = [] →
      (∀ tok (dst : BitVec 48) (len : BitVec 32) (byte : Byte) u tgt, 0 < len.toNat → dst.toNat % 4096 + len.toNat ≤ 4096 →
          s.engTarget (s.agentOf k) dst.toNat len.toNat true = (u, .ok tgt) →
          Answers (exec (.fill tok (.direct dst len byte)) s) fun t =>
            leaves t tgt (List.replicate len.toNat byte) dst.toNat none)
      ∧ (∀ tok (ext : BitVec 48) (d : List Byte) u tgt, k.desc = some d → natAt d 24 40 = 0 →
          let dst := (descWord d 0).toNat
          let len := natAt d 8 8
          0 < len → dst % 4096 + len ≤ 4096 → s.engTarget (s.agentOf k) dst len true = (u, .ok tgt) →
          Answers (exec (.fill tok (.desc ext)) s) fun t => ∃ bs : List Byte, leaves t tgt bs dst none ∧ bs.length = len
            ∧ ∀ i < len, bs[i]? = some ((descWord d 16).extractLsb' (8 * (i % 8)) 8))
      ∧ (∀ tok (ext : BitVec 48) (ftok : Reg) (d : List Byte) u v tgt pa kk c fu, k.desc = some d →
          badRef d (descRefs (.copy tok ext 0 ftok)) = none → natAt d 20 8 = 0 → natAt d 60 4 = 0 →
          let src := (descWord d 0).toNat % 0x1000000000000
          let dst := (descWord d 8).toNat % 0x1000000000000
          let len := natAt d 16 4
          0 < len → src % 4096 + len ≤ 4096 → dst % 4096 + len ≤ 4096 →
          s.engTarget (s.agentOf k) src len false = (u, .ok (.mem pa kk c fu)) →
          u.engTarget (s.agentOf k) dst len true = (v, .ok tgt) →
          Answers (exec (.copy tok ext 0 ftok) s) fun t => ∃ bs : List Byte, leaves t tgt bs dst none ∧ bs.length = len
            ∧ ∀ i < len, bs[i]? = some (s.readPhys kk (pa + i)))
      ∧ (∀ tok (ext : BitVec 48) (d : List Byte) (p : Paddock) (e : Word), k.desc = some d → firstBad (pageinChecks d) = none →
          s.paddock? k.owner.pdk = some p → s.pageinLeaf p d = .ok e →
          let size := pageinSize (natAt d 24 1)
          let frame := natAt d 8 8
          p.desc.frameFault frame size = none →
          (leafTier e = 0 → Answers (exec (.pagein tok ext) s) fun t => t.me.bte = [] ∧ t.shadows = s.shadows
            ∧ t.me.done = s.me.done ++ [⟨k.id, k.tok, word .none 1 0, .none, k.addr, k.owner⟩] ∧ s.sameStorage t)
          ∧ (leafTier e = 1 → s.hub.cxlDown = 0 →
              s.accessError (some s.cur) (.mem (leafPage e) none .wb false) size false = none →
              Answers (exec (.pagein tok ext) s) fun t => ∃ (bs : List Byte) (new : Word),
              let slot : Option (BitVec 6) := if e.getLsbD 20 then some (e.extractLsb' 21 6) else none
              leaves t (.mem frame (s.keyOf slot) (leafCache e) false) bs (natAt d 0 8) (some ⟨natAt d 16 8, e, new⟩) ∧ bs.length = size
                ∧ (∀ i < size, bs[i]? = some (s.readPhys (s.keyOf slot) (leafPage e + i)))
                ∧ leafTier new = 0 ∧ new.getLsbD 8 = true ∧ (new.extractLsb' 36 28).toNat = frame / 0x10000 % 0x10000000
                ∧ new.extractLsb' 9 27 = e.extractLsb' 9 27 ∧ new.setWidth 6 = e.setWidth 6))
      ∧ ∀ tok (ext : BitVec 48) (d : List Byte) (p : Paddock) u tgt, k.desc = some d → firstBad (mcastChecks d) = none →
          s.paddock? k.owner.pdk = some p →
          let src := (descWord d 0).toNat % 0x1000000000000
          let size := natAt d 8 4
          let part := natAt d 14 1
          let asked (n : Nat) : Bool := natAt d 15 1 / 2 ^ n % 2 == 1
          let dest (n : Nat) : CoreNum := BitVec.ofNat 10 (8 * (s.cur.toNat / 8) + n)
          let open_ (n : Nat) : Prop := asked n = true ∧ p.desc.ownsCore (dest n) = true ∧ s.enabledCore (dest n) = true
            ∧ (size + 4095) / 4096 ≤ (getAt p.desc.parts part (0, 0)).2
          src % 4096 + size ≤ 4096 → s.engTarget (s.agentOf k) src size false = (u, .ok tgt) → tgt.isWb = true → (∃ n < 8, open_ n) →
          Answers (exec (.mcast tok ext) s) fun t => t.me.bte = [] ∧ t.shadows = s.shadows
            ∧ (∃ m, t.mcasts = s.mcasts ++ [m] ∧ m.cmd.id = k.id ∧ m.core = s.cur ∧ m.src.toNat = src ∧ m.size = size
              ∧ m.reads = natAt d 12 2 ∧ m.part = part ∧ m.mask.toNat = natAt d 15 1
              ∧ m.htab.toNat = (descWord d 16).toNat % 0x1000000000000)
            ∧ ∀ n < 8, open_ n → ∃ r, r ∈ (t.loftAt (dest n)).incoming ∧ r.granules = (size + 4095) / 4096
                ∧ r.count = natAt d 12 2 ∧ r.part = part ∧ r.who = .mcast s.cur k.id)
    ∧ (∀ (x : Shadow) (l : LeafSwap) (done : Completion), s.shadows = [x] → x.isJoin = false → x.core = s.cur → x.leaf = some l →
        x.followOn = none → x.completion = some done → done.tok ≠ 0 → s.noneWait → s.Inv → s.splits x.runs = false →
        (∀ r ∈ x.runs, s.accessError (some s.cur) r.tgt r.bytes.length true = none) →
        (s.read8 l.pa = l.old → Answers (exec (.shadowPublish x.id) s) fun t => t.holds none l.pa 8 l.new ∧ t.shadows = []
            ∧ t.me.done = s.me.done ++ [done])
        ∧ (s.read8 l.pa ≠ l.old → Answers (exec (.shadowPublish x.id) s) fun t => s.sameStorage t ∧ t.shadows = []
            ∧ t.me.done = s.me.done ++ [{ done with word := word .none 1 0 }]))
    ∧ ∀ tok (addr : BitVec 48) (len : BitVec 32) sc (r : PendRange) (y : Shadow) pa kk c fu bs, s.me.ranges = [r] →
        s.shadows = [y] → y.core = s.cur → y.cmd = r.cmd → y.runs = [⟨.mem pa kk c fu, bs⟩] → y.leaf = none → y.followOn = none →
        s.noneWait → s.Inv → s.mcasts = [] → s.splits y.runs = false →
        s.accessError (some s.cur) (.mem pa kk c fu) bs.length true = none →
        let own : List Completion := if y.isJoin then [] else y.completion.toList
        (∀ d ∈ own, d.tok ≠ 0) →
        let meets : Prop := r.start < addr.toNat + len.toNat ∧ addr.toNat < r.start + r.len
        let ended (t : State) (before : List Completion) (n : Nat) : Prop := t.me.bte = []
          ∧ t.me.done = s.me.done ++ before ++ [⟨k.id, k.tok, word .none 0 n, .none, k.addr, k.owner⟩]
        (meets → Answers (exec (.publish tok addr len sc) s) fun t => ended t own 1 ∧ t.shadows = [] ∧ t.me.ranges = []
            ∧ (∀ i b, bs[i]? = some b → t.readPhys kk (pa + i) = b) ∧ s.sameOutside t pa bs.length)
        ∧ (¬ meets → Answers (exec (.publish tok addr len sc) s) fun t => ended t [] 0 ∧ t.shadows = [y] ∧ t.me.ranges = [r]
            ∧ s.sameStorage t)

/-! ## Remote commands and launches -/

/-- 15 R337 to R341, 01 R13, R14, 04 R63 to R65: a remote command at the head of its inbox that can travel sends its
message and awaits the answer, and one that cannot completes with LINK_DOWN; REMOTE_DELIVERY performs a message at
USER in the Paddock of the issuer's number and answers it, and completes a command of this device; LAUNCH forms a
group with the lowest free number. Said of ranges that each lie in one 4 KiB page, with no range pending, of a command
that no tier page has suspended before; a write is taken when no read under way would see it in part (11 R219). -/
def Obligations.RemoteCommands : Prop :=
  ∀ (s : State), s.me.ranges = [] → s.me.bte = [] → s.me.join.inbox = [] → s.me.suspended = [] →
    let linked : Prop := s.hub.devid.isSome = true ∧ s.hub.portsDown ≠ BitVec.allOnes 16
    let travels : Prop := linked ∧ s.linkCut (some s.cur) (.remote 0 0 .wb) = false
    (∀ (k : Cmd) (rest : List Cmd) (d : List Byte), s.me.remote = k :: rest → k.desc = some d → k.trail = [] →
      let a := s.agentOf k
      let dev : BitVec 20 := BitVec.ofNat 20 (natAt d 16 4)
      let sends (t : State) (c : RemoteCmd) (n : Nat) (dest : List Run) : Prop :=
        t.me.remote = rest ∧ t.me.seq = s.me.seq ∧ s.sameStorage t ∧ t.hub.nextSerial = s.hub.nextSerial + 1
          ∧ t.hub.remoteOut = s.hub.remoteOut ++ [⟨dev, k.owner.pdk, s.cur, s.hub.nextSerial, c⟩]
          ∧ ∃ w, t.hub.remoteWaits = s.hub.remoteWaits ++ [w] ∧ w.serial = s.hub.nextSerial ∧ w.device = dev ∧ w.core = s.cur
            ∧ s.hub.portsDown.getLsbD w.port.toNat = false ∧ w.dest = dest
            ∧ w.completion = ⟨k.id, k.tok, BitVec.ofNat 64 (n * 0x10000), .none, k.addr, k.owner⟩
      let near := natAt d 0 8
      let far : BitVec 48 := BitVec.ofNat 48 (natAt d 8 6)
      let len := natAt d 20 4
      (∀ tok ext u pa kk c fu, travels → firstBad (transferChecks d) = none → near % 4096 + len ≤ 4096 →
          s.engTarget a near len false = (u, .ok (.mem pa kk c fu)) →
          Answers (exec (.rput tok ext) s) fun t => ∃ bs : List Byte, sends t (.put far bs) len [] ∧ bs.length = len
            ∧ ∀ i < len, bs[i]? = some (s.readPhys kk (pa + i)))
      ∧ (∀ tok ext u tgt, travels → firstBad (transferChecks d) = none → near % 4096 + len ≤ 4096 →
          s.engTarget a near len true = (u, .ok tgt) →
          Answers (exec (.rget tok ext) s) fun t => sends t (.get far len) len [⟨tgt, List.replicate len 0⟩])
      ∧ (∀ tok ext op u tgt, travels → firstBad (ramoChecks d) = none → s.engTarget a (natAt d 40 8) 8 true = (u, .ok tgt) →
          Answers (exec (.ramo tok ext op) s) fun t =>
            sends t (.amo (BitVec.ofNat 48 (natAt d 0 6)) op (descWord d 24) (descWord d 32)) 8 [⟨tgt, List.replicate 8 0⟩])
      ∧ (∀ tok ext u v pa pb ka kb ca cb fa fb (p : Packet) (rec : BitVec 48), travels → firstBad (rsendChecks d) = none →
          s.engTarget a near 16 false = (u, .ok (.mem pa ka ca fa)) → s.holdsPacket ka pa p → carriedLaunch p = .ok rec →
          rec.toNat % 4096 + 256 ≤ 4096 → u.engTarget a rec.toNat 256 false = (v, .ok (.mem pb kb cb fb)) →
          Answers (exec (.rsend tok ext) s) fun t => ∃ bs : List Byte, sends t (.send p bs) 0 [] ∧ bs.length = 256
            ∧ ∀ i < 256, bs[i]? = some (s.readPhys kb (pb + i)))
      ∧ (¬ linked → k.followTok = none → ∀ tok ext, firstBad (transferChecks d) = none →
          Answers (exec (.rput tok ext) s) fun t => t.me.remote = rest ∧ t.hub = s.hub
            ∧ ∃ x, t.me.done = s.me.done ++ [x] ∧ x.tok = k.tok ∧ x.code = .linkDown))
    ∧ (∀ (m : RemoteMsg), linked →
        let a := homeAgent m
        let answers (t : State) (data : List Byte) : Prop :=
          t.hub.remoteOut = s.hub.remoteOut ++ [{ m with cmd := .reply 0 0 0 data }]
        (∀ va bs u pa kk c fu, m.cmd = .put va bs → 0 < bs.length → va.toNat % 4096 + bs.length ≤ 4096 → s.noneWait → s.Inv →
            s.engTarget a va.toNat bs.length true = (u, .ok (.mem pa kk c fu)) →
            s.splits [⟨.mem pa kk c fu, bs⟩] = false → Answers (exec (.remoteDelivery m) s) fun t =>
              answers t [] ∧ (∀ i b, bs[i]? = some b → t.readPhys kk (pa + i) = b) ∧ s.sameOutside t pa bs.length)
        ∧ (∀ va n u pa kk c fu, m.cmd = .get va n → 0 < n → va.toNat % 4096 + n ≤ 4096 →
            s.engTarget a va.toNat n false = (u, .ok (.mem pa kk c fu)) → Answers (exec (.remoteDelivery m) s) fun t =>
              ∃ bs : List Byte, answers t bs ∧ bs.length = n ∧ (∀ i < n, bs[i]? = some (s.readPhys kk (pa + i)))
                ∧ s.sameStorage t)
        ∧ (∀ va op opnd expect old pa kk c fu, m.cmd = .amo va op opnd expect → op.toNat < 10 → s.noneWait → s.Inv →
            (s.translate none m.pdk (va.setWidth 64) (Acc.both .user).byEngine).2 = .ok (.mem pa kk c fu) →
            s.accessError none (.mem pa kk c fu) 8 false = none → s.holds kk pa 8 old →
            Answers (exec (.remoteDelivery m) s) fun t =>
              (∃ bs : List Byte, answers t bs ∧ bs.length = 8 ∧ ∀ i < 8, bs[i]? = some (old.extractLsb' (8 * i) 8))
                ∧ (op = 0 → t.holds kk pa 8 (old + opnd)) ∧ (op = 8 → t.holds kk pa 8 opnd)
                ∧ (op = 9 → old = expect → t.holds kk pa 8 opnd)
                ∧ (op = 9 → old ≠ expect → s.sameStorage t) ∧ s.sameOutside t pa 8)
        ∧ (∀ packet bs p, m.cmd = .send packet bs → s.paddock? m.pdk = some p → natAt bs 0 1 = m.pdk.toNat →
            firstBad (launchChecks bs) = none → p.groups.length < 256 → Answers (exec (.remoteDelivery m) s) fun t =>
              answers t [] ∧ ∃ g, t.paddock? m.pdk = some { p with groups := p.groups ++ [g] } ∧ g.sink = .none
                ∧ g.entry = BitVec.ofNat 48 (natAt bs 8 8))
        ∧ ∀ code data w x pa kk c fu n, m.cmd = .reply 0 code 0 data → s.hub.remoteWaits = [w] → w.serial = m.serial →
            w.core = m.core → w.core = s.cur → w.completion = x → x.tok ≠ 0 → w.dest = [⟨.mem pa kk c fu, List.replicate n 0⟩] →
            data.length = n → s.noneWait → s.Inv → s.splits [⟨.mem pa kk c fu, data⟩] = false →
            s.accessError (some w.core) (.mem pa kk c fu) n true = none → Answers (exec (.remoteDelivery m) s) fun t =>
              (∀ i b, data[i]? = some b → t.readPhys kk (pa + i) = b) ∧ s.sameOutside t pa n
                ∧ t.hub.remoteWaits = [] ∧ t.me.done = s.me.done ++ [x])
    ∧ ∀ (k : Cmd) (rest : List Cmd) tok early (addr : BitVec 48) u pa kk c fu (bs : List Byte) (p : Paddock),
        s.me.ostler = k :: rest → k.tok ≠ 0 → k.trail = [] → addr.toNat % 4096 + 256 ≤ 4096 →
        s.engTarget (s.agentOf k) addr.toNat 256 false = (u, .ok (.mem pa kk c fu)) → bs.length = 256 →
        (∀ i < 256, bs[i]? = some (s.readPhys kk (pa + i))) → natAt bs 0 1 = k.owner.pdk.toNat →
        s.paddock? k.owner.pdk = some p → firstBad (launchChecks bs) = none → p.groups.length < 256 →
        Answers (exec (.launch tok early addr) s) fun t => t.me.ostler = rest ∧ t.me.seq = s.me.seq ∧ s.sameStorage t
          ∧ (∃ g, t.paddock? k.owner.pdk = some { p with groups := p.groups ++ [g] } ∧ g.prio = natAt bs 1 1 % 4
            ∧ g.entry = BitVec.ofNat 48 (natAt bs 8 8) ∧ g.fbase = BitVec.ofNat 48 (natAt bs 16 6) ∧ g.fstride = natAt bs 24 4
            ∧ g.doneFut = descWord bs 32 ∧ g.next = 0 ∧ g.levels.length = natAt bs 2 1
            ∧ p.group? g.number = none ∧ ∀ n < g.number.toNat, (p.group? (BitVec.ofNat 16 n)).isSome = true)
          ∧ t.me.done = if early then s.me.done ++ [⟨k.id, k.tok, 0, .none, k.addr, k.owner⟩] else s.me.done

/-! ## The module -/

/-- 01 R8 to R15, R18, R20, R11, 02 R29, R44, R45 (Table HST-12): what happens to a module that is ready.
SENSOR_SAMPLE gives a core its readings and the next sample number once step 7 of the reset has started the sensors;
THERMAL_WARNING (the hottest sensor of a die comes to stand at its threshold), THERMAL_TRIP (it reaches 110 °C),
LINK_RETRY_TIMEOUT, CXL_LINK_DOWN, PORT_DOWN, LANE_FAILURE and SCRUB record what has failed, add a record to the fault
log and send the event on lane 0 (on lane 1 for the failure of lane 0). A failed link ends the remote commands in
flight on it with ECC_UNCORR, and a failed lane's events that the host has not acknowledged go out again first on the
other. An event whose condition does not hold changes nothing. -/
def Obligations.ModuleEvents : Prop :=
  ∀ (s : State), s.hub.ready = true → s.lanesUp → s.mgmt.log.length < 256 →
    let tells (t : State) (lane : Lane) (type : EventType) (p : FaultRecord → Prop) : Prop :=
      ∃ e r, t.hub.sent = s.hub.sent ++ [(lane, e)] ∧ e.type = type ∧ e.pdk = none ∧ e.record = some r
        ∧ t.mgmt.log = s.mgmt.log ++ [r] ∧ r.source = 0x3FF ∧ r.time = s.clk ∧ p r
    let same (t : State) : Prop := s.sameStorage t ∧ t.me.seq = s.me.seq ∧ t.paddocks = s.paddocks
    let hottest (d : DieNum) (temp : BitVec 16) : Prop :=
      (∃ c, dieOf c = d ∧ s.enabledCore c = true ∧ (s.coreAt c).sensor.temp = temp)
        ∧ ∀ c, dieOf c = d → s.enabledCore c = true → (s.coreAt c).sensor.temp.toInt ≤ temp.toInt
    (∀ r : SensorReading, s.enabledCore r.core = true →
        (s.mgmt.main = true → 8 ≤ s.mgmt.step.toNat → Answers (exec (.sensorSample [r]) s) fun t => same t
          ∧ (∀ c, c ≠ r.core → (t.coreAt c).sensor = (s.coreAt c).sensor)
          ∧ ((s.die (dieOf r.core)).tripped = false →
              (t.coreAt r.core).sensor = ⟨r.temp, r.droop, (s.coreAt r.core).sensor.seq + 1⟩
                ∧ assocGet t.mgmt.samples r.core = some (t.coreAt r.core).sensor)
          ∧ ((s.die (dieOf r.core)).tripped = true → (t.coreAt r.core).sensor = (s.coreAt r.core).sensor))
        ∧ (s.mgmt.main = false ∨ s.mgmt.step.toNat < 8 → exec (.sensorSample [r]) s = .next s))
    ∧ (∀ (d : DieNum) (temp : BitVec 16), d.toNat < s.dies.length → hottest d temp →
        (4 * ((s.die d).warnAt : Int) ≤ temp.toInt → (s.die d).hot = false →
          Answers (exec (.thermalWarning d temp) s) fun t =>
            tells t .lane0 .thermal (fun r => r.val0 = d.setWidth 64 ∧ r.val1 = temp.setWidth 64) ∧ same t
              ∧ t.mgmt.warn = s.mgmt.warn ||| (1#4 <<< d.toNat) ∧ (t.die d).hot = true)
        ∧ (temp.toInt < 4 * ((s.die d).warnAt : Int) ∨ (s.die d).hot = true → exec (.thermalWarning d temp) s = .next s))
    ∧ (∀ (d : DieNum) (temp : BitVec 16), d.toNat < s.dies.length → hottest d temp →
        ((s.die d).tripped = false → 440 ≤ temp.toInt → Answers (exec (.thermalTrip d) s) fun t =>
          tells t .lane0 .fault (fun r => r.machine = true ∧ r.code = 0x7F ∧ r.val0 = d.setWidth 64)
            ∧ (t.die d).tripped = true ∧ t.mgmt.trip = s.mgmt.trip ||| (1#4 <<< d.toNat)
            ∧ (∀ c, dieOf c = d → t.coreAt c = Core.reset) ∧ ∀ c, dieOf c ≠ d → t.coreAt c = s.coreAt c)
        ∧ ((s.die d).tripped = true ∨ temp.toInt < 440 → exec (.thermalTrip d) s = .next s))
    ∧ (∀ a b : BitVec 3, linked2 a.toNat b.toNat = true → s.hub.linkFailed a b = false →
        let cut (c : CoreNum) : Bool :=
          ({ s with hub := { s.hub with linksDown := s.hub.linksDown ++ [(a, b)] } } : State).linkCut (some c) (.remote 0 0 .wb)
        Answers (exec (.linkRetryTimeout a b) s) fun t => t.hub.linkFailed a b = true ∧ t.hub.linkFailed b a = true ∧ same t
          ∧ (tells t .lane0 .fault fun r => r.machine = true ∧ r.val0 = a.setWidth 64 ∧ r.val1 = b.setWidth 64)
          ∧ (∀ w, w ∈ t.hub.remoteWaits ↔ w ∈ s.hub.remoteWaits ∧ cut w.core = false)
          ∧ ∀ w ∈ s.hub.remoteWaits, cut w.core = true → ∃ x ∈ (t.coreAt w.core).done, x.tok = w.completion.tok
              ∧ x.owner = w.completion.owner ∧ x.code = .eccUncorr)
    ∧ (∀ p : BitVec 2, s.hub.cxlDown.getLsbD p.toNat = false → Answers (exec (.cxlLinkDown p) s) fun t =>
        t.hub.cxlDown = s.hub.cxlDown ||| (1#4 <<< p.toNat) ∧ same t
          ∧ tells t .lane0 .fault fun r => r.code = Code.linkDown.toByte ∧ r.val0 = p.setWidth 64)
    ∧ (∀ p : BitVec 4, s.hub.portsDown.getLsbD p.toNat = false → s.hub.remoteWaits = [] → Answers (exec (.portDown p) s) fun t =>
        t.hub.portsDown = s.hub.portsDown ||| (1#16 <<< p.toNat) ∧ same t
          ∧ tells t .lane0 .fault fun r => r.code = Code.linkDown.toByte ∧ r.val0 = p.setWidth 64)
    ∧ (∀ l : Lane, (s.hub.lane l).unacked.length ≤ 4096 → Answers (exec (.laneFailure l) s) fun t => (t.hub.lane l).up = false
        ∧ (t.hub.lane (otherLane l)).up = true ∧ same t
        ∧ ∃ e r, t.hub.sent = s.hub.sent ++ (s.hub.lane l).unacked.map (fun x => (otherLane l, x)) ++ [(otherLane l, e)]
            ∧ e.type = .fault ∧ e.pdk = none ∧ e.record = some r ∧ t.mgmt.log = s.mgmt.log ++ [r] ∧ r.source = 0x3FF
            ∧ r.time = s.clk ∧ r.code = Code.linkDown.toByte)
    ∧ ∀ pa : BitVec 44,
        (s.hub.scrubPeriod ≠ 0 → pa.toNat < 0x9000000000 → Answers (exec (.scrub pa) s) fun t => same t
          ∧ pa.toNat / 32 ∈ t.badWords ∧ tells t .lane0 .fault fun r => r.code = Code.eccUncorr.toByte ∧ r.val0 = pa.setWidth 64)
        ∧ (s.hub.scrubPeriod = 0 ∨ 0x9000000000 ≤ pa.toNat → exec (.scrub pa) s = .next s)

/-- 01 R16, R21 (Table PKG-6), 02 R41, R43 (Tables HST-9 to HST-11): the power of the module, its reset, and the
registers of the management port. A reset, a hold and a loss of power leave every core, Paddock and byte of HBM as at
reset and the count of clk at zero (13 R279; the tier's devices keep their bytes, which is the model's choice,
notes/assumptions/35.md); the sequence ends with READY where the boot ROM accepts an image and that image the others,
and a step that fails stops it and is logged. LOGDATA reads the oldest record a word at a time; FWDATA stages eight
bytes while FWSTAGE is 1. -/
def Obligations.ManagementPort : Prop :=
  ∀ (s : State),
    let m := s.mgmt
    let off (t : State) : Prop := (∀ c, t.coreAt c = Core.reset) ∧ t.paddocks = [] ∧ (∀ a, isHbm a = true → t.readPhys none a = 0)
      ∧ (s.Inv → ∀ key a, isTier a = true → t.readPhys key a = s.readPhys key a) ∧ t.clk = 0
    let flash (t : State) : Prop := t.mgmt.flashA = m.flashA ∧ t.mgmt.flashB = m.flashB
    let booted := imageAccepted m.flashA || imageAccepted m.flashB
    let ok := booted && otherImages.all imageAccepted
    (m.standby = true → m.main = true → m.hold = false → m.fwswap = false → ∀ r : ResetOutcome, r.failStep = none →
        r.lanesDown = 0 → Answers (exec (.moduleReset r) s) fun t => off t ∧ flash t
            ∧ t.hub.ready = ok ∧ t.mgmt.ready = ok ∧ t.mgmt.fwok = booted ∧ t.mgmt.step = (if ok then 8 else 3)
            ∧ (ok = true → t.hub.cxlDown = r.cxlDown ∧ t.hub.portsDown = r.portsDown ∧ t.hub.devid = none
              ∧ ∃ e bs, t.hub.sent = s.hub.sent ++ [(.lane0, e)] ∧ e.type = .ready ∧ t.hub.frames = s.hub.frames ++ [(.lane0, bs)]
                ∧ natAt bs 0 1 = 0x85 ∧ natAt bs 2 2 = 0 ∧ natAt bs 6 2 = 32 ∧ bs.drop 16 = e.payload)
            ∧ (ok = false → t.mgmt.failstep = 3))
    ∧ (m.standby = true → m.main = true → m.hold = false → m.fwswap = false → m.log.length < 256 →
        ∀ (n : BitVec 4) (r : ResetOutcome), 1 ≤ n.toNat → n.toNat ≤ 8 → r.failStep = some n → r.lanesDown = 0 →
        let k : BitVec 4 := if n.toNat ≤ 3 ∨ ok = true then n else 3
        Answers (exec (.moduleReset r) s) fun t => off t ∧ flash t ∧ t.hub.ready = false ∧ t.mgmt.ready = false
          ∧ t.mgmt.step = k ∧ t.mgmt.failstep = k ∧ (∃ x, t.mgmt.log = m.log ++ [x])
          ∧ (k.toNat ≤ 5 → t.hub.sent = s.hub.sent)
          ∧ (5 < k.toNat → ∃ e, t.hub.sent = s.hub.sent ++ [(.lane0, e)] ∧ e.type = .fault))
    ∧ (m.standby = true → m.hold = true → ∀ r, Answers (exec (.moduleReset r) s) fun t => off t ∧ flash t
        ∧ t.mgmt.step = 1 ∧ t.hub.ready = false)
    ∧ (m.standby = false → Answers (exec .standbyPowerGood s) fun t => t.mgmt.standby = true ∧ t.mgmt.main = false
        ∧ t.mgmt.step = 1 ∧ t.mgmt.log = [] ∧ flash t)
    ∧ (m.standby = true → exec .standbyPowerGood s = .next s)
    ∧ (m.standby = true → m.main = false → Answers (exec .mainPowerGood s) fun t =>
        t = { s with mgmt := { m with main := true, step := if m.hold then 1 else 2 } })
    ∧ (m.main = true → Answers (exec .mainPowerLoss s) fun t => off t ∧ flash t ∧ t.mgmt.main = false ∧ t.hub.ready = false
        ∧ t.mgmt.log = m.log)
    ∧ (m.standby = true → Answers (exec .standbyPowerLoss s) fun t => off t ∧ flash t ∧ t.mgmt.standby = false
        ∧ t.mgmt.main = false ∧ t.mgmt.log = [])
    ∧ (m.standby = true →
        let sets (i : Instr) (n : Mgmt) : Prop := exec i s = .next { s with mgmt := n }
        (∀ w ws, m.logRest = w :: ws → sets .logdata { m with readData := w, logRest := ws })
        ∧ (∀ r rest, m.logRest = [] → m.log = r :: rest → Answers (exec .logdata s) fun t =>
            t.mgmt.log = rest ∧ t.mgmt.logRest.length = 5
              ∧ ∀ k < 6, ∀ i < 8, (t.mgmt.readData :: t.mgmt.logRest)[k]?.map (fun w => w.extractLsb' (8 * i) 8)
                  = r.bytes[8 * k + i]?)
        ∧ (m.logRest = [] → m.log = [] → sets .logdata { m with readData := 0 })
        ∧ (∀ v, m.fwstage = false → exec (.fwdata v) s = .next s)
        ∧ (∀ v, m.fwstage = true → m.fwaddr.toNat + 8 ≤ 0x10000000000000000 → Answers (exec (.fwdata v) s) fun t =>
            t.mgmt.fwaddr = m.fwaddr + 8
              ∧ (∀ i < 8, assocGet t.mgmt.staging (m.fwaddr.toNat + i) = some (v.extractLsb' (8 * i) 8))
              ∧ ∀ a, ¬ (m.fwaddr.toNat ≤ a ∧ a < m.fwaddr.toNat + 8) → assocGet t.mgmt.staging a = assocGet m.staging a)
        ∧ (Answers (exec (.hold true) s) fun t => off t ∧ t.mgmt.hold = true ∧ t.mgmt.step = 1 ∧ t.hub.ready = false)
        ∧ (m.hold = true → sets (.hold false) { m with hold := false, step := 2 })
        ∧ (m.hold = false → exec (.hold false) s = .next s)
        ∧ (∀ v, sets (.fwstage v) { m with fwstage := v }) ∧ (∀ v, sets (.fwswap v) { m with fwswap := v })
        ∧ (∀ k, sets (.warn k) { m with warn := m.warn &&& ~~~ k })
        ∧ (∀ v : Word, sets (.registerWrite (.management 0x020 v)) { m with sensidx := v.setWidth 10 }
            ∧ sets (.registerWrite (.management 0x030 v)) { m with fwaddr := BitVec.ofNat 64 (v.toNat / 8 * 8) }
            ∧ sets (.registerWrite (.management 0x000 v)) { m with warn := m.warn &&& ~~~ (v.extractLsb' 16 4) }))
    ∧ (m.standby = false → exec .logdata s = .next s ∧ ∀ v, exec (.fwdata v) s = .next s)
    ∧ s.mgmtValue 0x000 = BitVec.ofNat 64 (m.main.toNat + 2 * m.ready.toNat + 4 * m.fwok.toNat + 8 * m.fwslot.toNat
        + 0x10 * m.step.toNat + 0x100 * m.failstep.toNat + 0x1000 * m.trip.toNat + 0x10000 * m.warn.toNat)
    ∧ s.mgmtValue 0x008 = BitVec.ofNat 64 (m.hold.toNat + 2 * m.fwstage.toNat + 4 * m.fwswap.toNat)

/-- 02 R31 to R37 (Tables HST-3, HST-6): the messages that form, change, stop and feed a Paddock. A frame that no rule
discards is performed and answered on the lane of its Paddock. CREATE forms the Paddock with empty queues and sets
STVEC on its cores; MODIFY changes its fields; DESTROY and PADDOCK_RESET stop it, answer ABORTED for every unfinished
launch and zero its memory and keys; KEYLOAD sets a slot where the ciphertext decrypts and is DENIED where it does
not; LAUNCH installs its group. The refusals of R31, R32, R34 and R37 change no Paddock. Where stops take time, a stop
answers nothing yet, and a LAUNCH for the Paddock is ABORTED under a RESET and meets NO_PADDOCK under a DESTROY; that
some stops end at once and others take time is the model's choice (notes/assumptions/95.md). -/
def Obligations.PaddockMessages : Prop :=
  ∀ (s : State) (f : Frame),
    let n := f.pdk
    let b := f.payload
    let replies (t : State) (status : Byte) : Prop := s.responds t f (some n) [] status 0 []
    let refuses (i : Instr) (status : Byte) : Prop := Answers (exec i s) fun t =>
      replies t status ∧ t.paddocks = s.paddocks ∧ t.me = s.me ∧ t.others = s.others ∧ s.sameStorage t ∧ t.hub.keys = s.hub.keys
    let stvecs (t : State) (d : PdkDesc) : Prop := ∀ c, (t.coreAt c).seq =
      if d.ownsCore c && s.enabledCore c then { (s.coreAt c).seq with stvec := d.stvec } else (s.coreAt c).seq
    let aborts (p : Paddock) (es : List (Lane × HostEvent)) : Prop :=
      (es.map fun e => (e.1, e.2.type, e.2.tag, e.2.payload.head?)) = p.groups.filterMap fun g =>
        match g.sink with
        | .message tag => some (eventLane (some n), EventType.completion, tag, some (0x09 : Byte))
        | .token _ _ | .none => none
    let quiet : Prop := ∀ p ∈ s.paddocks, p.stopping = none
    let stopped (t : State) (p : Paddock) (k : StopKind) : Prop :=
      (∀ c, p.desc.ownsCore c = true → (t.coreAt c).task = none ∧ (t.coreAt c).loft.tiles = [])
        ∧ (∃ es, aborts p es ∧ t.hub.sent = s.hub.sent ++ es)
        ∧ t.paddocks = s.paddocks.map fun x =>
            if x.num = n then { x with records := [], groups := [], pointers := [], stopping := some k } else x
    (s.takes 0x04 f → natAt b 1 1 = n.toNat → quiet →
      (natAt b 0 1 = 1 → s.descriptorFits b →
        (s.paddock? n = none → s.descriptorApart n b → s.sharesFit n [] b → s.hub.queueMemory = true → Answers (exec (.create f) s) fun t =>
            ∃ p, t.paddocks = s.paddocks ++ [p] ∧ p.num = n ∧ p.desc.holds b ∧ p.records = [] ∧ p.groups = []
              ∧ p.ctrl.length = 4 ∧ stvecs t p.desc ∧ s.sameStorage t ∧ replies t 0)
        ∧ (s.paddock? n ≠ none ∨ ¬ s.descriptorApart n b ∨ ¬ s.sharesFit n [] b ∨ s.hub.queueMemory = false →
            refuses (.create f) 4))
      ∧ (natAt b 0 1 = 1 → s.paddock? n = none → s.descriptorApart n b → s.sharesFit n [] b → ¬ s.descriptorFits b →
          refuses (.create f) 3)
      ∧ (∀ p, natAt b 0 1 = 2 → s.descriptorFits b → s.paddock? n = some p → natAt b 8 10 = p.desc.clusters.toNat →
          p.desc.hbm = (List.range 8).map (fun k => ⟨natAt b (128 + 16 * k) 8, natAt b (136 + 16 * k) 8⟩) →
          s.descriptorApart n b → s.sharesFit n p.desc.draw b → Answers (exec (.modify f) s) fun t =>
            ∃ d, d.holds b ∧ t.paddocks = s.paddocks.map (fun x => if x.num = n then { x with desc := d } else x)
              ∧ (d.stvec ≠ p.desc.stvec → stvecs t d)
              ∧ (d.stvec = p.desc.stvec → ∀ c, (t.coreAt c).seq = (s.coreAt c).seq)
              ∧ (d.ptroot ≠ p.desc.ptroot → ∀ c, ∀ e ∈ (t.coreAt c).tlb, e.pdk ≠ n)
              ∧ s.sameStorage t ∧ replies t 0)
      ∧ (∀ p, natAt b 0 1 = 2 → s.descriptorFits b → s.paddock? n = some p → natAt b 8 10 ≠ p.desc.clusters.toNat →
          refuses (.modify f) 3)
      ∧ (∀ p, natAt b 0 1 = 3 → s.descriptorFits b → s.paddock? n = some p →
          (s.hub.slowStops = false → Answers (exec (.destroy f) s) fun t =>
            s.emptied t p.desc ∧ t.paddocks = s.paddocks.filter (fun x => x.num != n)
              ∧ ∃ es, aborts p es ∧ s.responds t f (some n) es 0 0 [])
          ∧ (s.hub.slowStops = true → Answers (exec (.destroy f) s) fun t => stopped t p .destroy))
      ∧ (s.paddock? n = none → (natAt b 0 1 = 2 → refuses (.modify f) 5) ∧ (natAt b 0 1 = 3 → refuses (.destroy f) 5)
          ∧ (natAt b 0 1 = 4 → refuses (.keyload f) 5))
      ∧ (natAt b 0 1 = 0 ∨ 4 < natAt b 0 1 → refuses (.create f) 3)
      ∧ ∀ p, natAt b 0 1 = 4 → s.paddock? n = some p → natAt b 3 61 = 0 → natAt b 448 64 = 0 →
          let slot : BitVec 6 := BitVec.ofNat 6 (natAt b 2 1)
          (63 < natAt b 2 1 → refuses (.keyload f) 3)
          ∧ (natAt b 2 1 ≤ 63 → p.desc.keymask.getLsbD slot.toNat = false → refuses (.keyload f) 4)
          ∧ (natAt b 2 1 ≤ 63 → p.desc.keymask.getLsbD slot.toNat = true →
              match Config.rsaOaepDecrypt ((b.drop 64).take 384) with
              | none => refuses (.keyload f) 8
              | some k => Answers (exec (.keyload f) s) fun t => replies t 0 ∧ t.paddocks = s.paddocks
                  ∧ ∀ x, assocGet t.hub.keys x = if x = slot then some k else assocGet s.hub.keys x))
    ∧ (s.takes 0x05 f →
        (∀ p, natAt b 0 16 = 1 → quiet → s.paddock? n = some p →
            (s.hub.slowStops = false → Answers (exec (.paddockReset f) s) fun t =>
              s.emptied t p.desc ∧ (∃ es, aborts p es ∧ s.responds t f (some n) es 0 0 [])
                ∧ t.paddocks = s.paddocks.map fun x => if x.num = n then { x with records := [], groups := [], pointers := [] } else x)
            ∧ (s.hub.slowStops = true → Answers (exec (.paddockReset f) s) fun t => stopped t p .reset))
        ∧ (natAt b 0 16 = 1 → quiet → s.paddock? n = none → refuses (.paddockReset f) 5)
        ∧ (natAt b 0 16 = 0 → Answers (exec (.paddockReset f) s) fun t => (∀ c, t.coreAt c = Core.reset) ∧ t.paddocks = []
            ∧ t.hub.ready = false ∧ t.mgmt.step = 1 ∧ t.hub.sent = s.hub.sent))
    ∧ (s.takes 0x01 f →
        (∀ p, s.paddock? n = some p → p.stopping = none → natAt b 0 1 = n.toNat → firstBad (launchChecks b) = none →
          p.groups.length < 256 → Answers (exec (.launchMessage f) s) fun t => replies t 0 ∧ s.sameStorage t
            ∧ t.me = s.me ∧ t.others = s.others
            ∧ ∃ g, t.paddock? n = some { p with groups := p.groups ++ [g] } ∧ g.sink = .message f.tag
              ∧ g.entry = BitVec.ofNat 48 (natAt b 8 8) ∧ g.fbase = BitVec.ofNat 48 (natAt b 16 6)
              ∧ g.fstride = natAt b 24 4 ∧ g.doneFut = descWord b 32 ∧ g.prio = natAt b 1 1 % 4 ∧ g.next = 0
              ∧ g.levels.length = natAt b 2 1 ∧ p.group? g.number = none)
        ∧ (∀ p, s.paddock? n = some p → p.stopping = none → natAt b 0 1 ≠ n.toNat → refuses (.launchMessage f) 3)
        ∧ (∀ p, s.paddock? n = some p → (p.stopping = some .reset → refuses (.launchMessage f) 9)
            ∧ (p.stopping = some .destroy → refuses (.launchMessage f) 5))
        ∧ (s.paddock? n = none → refuses (.launchMessage f) 5))

/-- 02 R23 to R25, R29, R30, R38 to R42 (Tables HST-2, HST-3, HST-7, HST-8): MEMRD brings back and MEMWR stores the
bytes of a range by virtual address, under the Paddock's tables and keys, or by physical address (of HBM, as memory
holds the bytes: that no key applies is the model's choice, notes/assumptions/37.md), unless it meets an error; a
range in a hole ends with XLATE; QUERY, SYSCFG and ATTEST answer what the tables say; a type that is not assigned is
BAD_FIELD. A frame that is bad, comes before READY or finds 64 queued gets a FAULT event and no RESPONSE. -/
def Obligations.HostMessages : Prop :=
  ∀ (s : State) (f : Frame),
    let n := f.pdk
    let b := f.payload
    let a := natAt b 0 8
    let len := natAt b 8 4
    let index := natAt b 8 4
    let still (t : State) : Prop := s.sameStorage t ∧ t.me = s.me ∧ t.others = s.others ∧ t.paddocks = s.paddocks
    let refuses (i : Instr) (own : Option PdkNum) (status code : Byte) : Prop := Answers (exec i s) fun t =>
      s.responds t f own [] status code [] ∧ still t ∧ t.dies = s.dies ∧ t.hub.devid = s.hub.devid
    let spanOk : Prop := 1 ≤ len ∧ len ≤ 4096 ∧ natAt b 12 4 = 0 ∧ a % 2 ^ 16 + len ≤ 2 ^ 16
    let here : Prop := a / 2 ^ 44 = match s.hub.devid with | some d => d.toNat | none => 0
    let va : Word := BitVec.ofNat 64 a
    let reaches (pa : Nat) (key : Option (BitVec 512)) (c : Cache) (fu wr : Bool) : Prop :=
      s.accessError none (.mem pa key c fu) len wr = none
    let lives : Prop := ∃ p, s.paddock? n = some p ∧ p.stopping = none
    let stored (t : State) (key : Option (BitVec 512)) (pa : Nat) : Prop :=
      (∀ i < len, b[16 + i]? = some (t.readPhys key (pa + i))) ∧ s.sameOutside t pa len
    let asks (subject : Nat) : Prop :=
      s.takes 0x06 f ∧ natAt b 0 1 = subject ∧ natAt b 1 7 = 0 ∧ natAt b 12 4 = 0
    let tells (i : Instr) (own : Option PdkNum) (p : List Byte → Prop) : Prop :=
      Answers (exec i s) fun t => still t ∧ ∃ d, s.responds t f own [] 0 0 d ∧ p d
    let sets (key : Nat) : Prop := s.takes 0x07 f ∧ natAt b 0 1 = key ∧ natAt b 1 7 = 0
    let v := natAt b 8 8
    let does (i : Instr) (p : State → Prop) : Prop :=
      Answers (exec i s) fun t => still t ∧ s.responds t f none [] 0 0 [] ∧ p t
    (s.takes 0x02 f → spanOk →
      (∀ pa kk c fu, f.flags = 0 → lives → a % 4096 + len ≤ 4096 → reaches pa kk c fu false →
          (s.translate none n va (Acc.read .paddock)).2 = .ok (.mem pa kk c fu) → tells (.memrd f) (some n) fun d =>
            d.length = len ∧ ∀ i < len, d[i]? = some (s.readPhys kk (pa + i)))
      ∧ (f.flags = 1 → here → a % 2 ^ 44 + len ≤ 0x9000000000 → reaches (a % 2 ^ 44) none .wb false false → tells (.memrd f) none fun d =>
            d.length = len ∧ ∀ i < len, d[i]? = some (s.readPhys none (a % 2 ^ 44 + i)))
      ∧ (f.flags = 1 → here → 0x9000000000 ≤ a % 2 ^ 44 → a % 2 ^ 44 + len ≤ 0x10000000000 → refuses (.memrd f) none 6 0x10)
      ∧ (f.flags = 0 → lives → a % 4096 + len ≤ 4096 → ∀ e : FaultInfo,
          (s.translate none n va (Acc.read .paddock)).2 = .error e → refuses (.memrd f) (some n) 6 e.code.toByte)
      ∧ (f.flags = 1 → ¬ here → refuses (.memrd f) none 3 0)
      ∧ (f.flags = 0 → s.paddock? n = none → refuses (.memrd f) (some n) 5 0)
      ∧ ∀ p, f.flags = 0 → s.paddock? n = some p → (p.stopping = some .reset → refuses (.memrd f) (some n) 9 0)
          ∧ (p.stopping = some .destroy → refuses (.memrd f) (some n) 5 0))
    ∧ (s.takes 0x03 f → spanOk → s.noneWait → s.Inv →
      (∀ pa kk c fu, f.flags = 0 → (s.paddock? n).isSome = true → a % 4096 + len ≤ 4096 → reaches pa kk c fu true →
          (s.translate none n va (Acc.write .paddock)).2 = .ok (.mem pa kk c fu) → Answers (exec (.memwr f) s) fun t =>
            s.responds t f (some n) [] 0 0 [] ∧ stored t kk pa ∧ t.me.seq = s.me.seq)
      ∧ (f.flags = 1 → here → a % 2 ^ 44 + len ≤ 0x9000000000 → reaches (a % 2 ^ 44) none .wb false true →
          Answers (exec (.memwr f) s) fun t =>
            s.responds t f none [] 0 0 [] ∧ stored t none (a % 2 ^ 44) ∧ t.me.seq = s.me.seq)
      ∧ (f.flags = 0 → (s.paddock? n).isSome = true → a % 4096 + len ≤ 4096 → ∀ e : FaultInfo,
          (s.translate none n va (Acc.write .paddock)).2 = .error e → refuses (.memwr f) (some n) 6 e.code.toByte))
    ∧ (s.takes 0x02 f → f.flags = 1 → (len < 1 ∨ 4096 < len ∨ 2 ^ 16 < a % 2 ^ 16 + len) → refuses (.memrd f) none 3 0)
    ∧ (asks 0 → tells (.queryDeviceInfo f) none fun d => d.length = 32 ∧ natAt d 0 1 = s.chip.gradeB.toNat
        ∧ natAt d 2 2 = 8 * ((List.range 80).countP fun k => !s.chip.fused.getLsbD k)
        ∧ natAt d 4 4 = (match s.hub.devid with | some x => x.toNat | none => 0xFFFFFFFF)
        ∧ natAt d 14 1 = s.hub.cxlDown.toNat ∧ natAt d 16 10 = (~~~ s.chip.fused).toNat
        ∧ natAt d 12 2 = if s.hub.devid.isSome then s.hub.portsDown.toNat else 0xFFFF)
    ∧ (asks 1 → (∀ c : CoreNum, c.toNat = index → s.enabledCore c = true → tells (.querySensor f) none fun d =>
            let x := (s.coreAt c).sensor
            d.length = 8 ∧ natAt d 0 2 = x.temp.toNat ∧ natAt d 2 2 = x.droop.toNat ∧ natAt d 4 4 = x.seq.toNat)
          ∧ (1024 ≤ index → refuses (.querySensor f) none 3 0))
    ∧ (asks 2 → (∀ p, s.paddock? n = some p → p.desc.draw.length = 4 → p.desc.qbound.length = 4 → p.desc.parts.length = 8 →
            p.desc.hbm.length = 8 → tells (.queryPaddock f) (some n) fun d => d.length = 512 ∧ natAt d 1 1 = n.toNat
              ∧ natAt d 8 10 = p.desc.clusters.toNat ∧ natAt d 24 8 = p.desc.ptroot.toNat ∧ natAt d 32 8 = p.desc.stvec.toNat
              ∧ natAt d 40 8 = p.desc.utvec.toNat ∧ natAt d 48 8 = p.desc.keymask.toNat
              ∧ (∀ k < 8, ∀ r, p.desc.hbm[k]? = some r → natAt d (128 + 16 * k) 8 = r.base % 2 ^ 64) ∧ natAt d 272 240 = 0)
          ∧ (s.paddock? n = none → refuses (.queryPaddock f) (some n) 5 0))
    ∧ (asks 3 → (index ≤ s.mgmt.log.length → tells (.queryFaultLog f) none fun d => d.length = 48 * min 64 (s.mgmt.log.length - index)
            ∧ ∀ k r, k < 64 → s.mgmt.log[index + k]? = some r → (d.drop (48 * k)).take 48 = r.bytes)
          ∧ (s.mgmt.log.length < index → refuses (.queryFaultLog f) none 3 0))
    ∧ (asks 4 → tells (.queryDraw f) none fun d => d.length = 24 ∧ ∀ k < 4,
        natAt d (6 * k) 2 = (s.die (BitVec.ofNat 2 k)).pool % 2 ^ 16
          ∧ natAt d (6 * k + 2) 2 = (s.paddocks.map fun p => p.desc.draw.getD k 0).sum % 2 ^ 16
          ∧ natAt d (6 * k + 4) 2 = s.admitted (BitVec.ofNat 2 k) none % 2 ^ 16)
    ∧ (asks 5 → tells (.queryCertificates f) none fun d => d = Config.certificateChain.take 4096)
    ∧ (sets 1 → (v ≤ 786431 → s.hub.devid = none → does (.syscfgDevid f) fun t =>
            t.hub.devid = some (BitVec.ofNat 20 v) ∧ t.dies = s.dies)
          ∧ (v ≤ 786431 → s.hub.devid ≠ none → refuses (.syscfgDevid f) none 8 0)
          ∧ (786431 < v → refuses (.syscfgDevid f) none 3 0))
    ∧ (sets 2 → s.dies.length = 4 →
          let pool (k : Nat) : Nat := natAt b (8 + 2 * k) 2
          let fits : Prop := ∀ k < 4, (s.paddocks.map fun p => p.desc.draw.getD k 0).sum + 7 * (s.die (BitVec.ofNat 2 k)).jtok ≤ pool k
          (pool 0 + pool 1 + pool 2 + pool 3 ≤ 9120 → fits → does (.syscfgPools f) fun t =>
              ∀ k < 4, t.die (BitVec.ofNat 2 k) = { s.die (BitVec.ofNat 2 k) with pool := pool k })
          ∧ (pool 0 + pool 1 + pool 2 + pool 3 ≤ 9120 → ¬ fits → refuses (.syscfgPools f) none 4 0)
          ∧ (9120 < pool 0 + pool 1 + pool 2 + pool 3 → refuses (.syscfgPools f) none 3 0))
    ∧ (sets 3 → s.dies.length = 4 →
          let d : DieNum := BitVec.ofNat 2 v
          let w := natAt b 9 1
          (70 ≤ w → w ≤ 100 → does (.syscfgWarn f) fun t =>
              ∀ e, t.die e = if e = d then { s.die e with warnAt := w } else s.die e)
          ∧ (w < 70 ∨ 100 < w → refuses (.syscfgWarn f) none 3 0))
    ∧ (sets 4 → does (.syscfgScrub f) fun t => t.hub.scrubPeriod = BitVec.ofNat 64 v ∧ t.dies = s.dies)
    ∧ (s.takes 0x08 f → tells (.attest f) none fun d => d.take 32 = b
        ∧ (d.drop 32).take 32 = sha256 s.mgmt.running ∧ (d.drop 64).take 32 = sha256 (Config.dieFirmware ++ Config.mapperImage)
        ∧ natAt d 128 8 = Config.serialNumber.toNat ∧ natAt d 136 4 = (match s.hub.devid with | some x => x.toNat | none => 0xFFFFFFFF)
        ∧ natAt d 140 4 = Config.rollbackCounter.toNat ∧ d.length = 528 ∧ natAt d 144 384 = (Config.attestSignature (d.take 144)).toNat)
    ∧ (∀ type : Byte, type = 0 ∨ 8 < type.toNat → s.takes type f → refuses (.unassignedType type f) none 3 0)
    ∧ (∀ type : Byte, s.lanesUp →
        let l := s.hub.lane f.lane
        let drops (t : State) : Prop := still t ∧ (t.hub.lane f.lane).queue = l.queue ∧ (t.hub.lane f.lane).expect = f.seq + 1
        (¬ frameGood type f l.expect → Answers (exec (.unassignedType type f) s) fun t => drops t
            ∧ s.declines t f fun r => r.status = 2 ∧ r.val0 = l.expect.setWidth 64 ∧ r.val1 = f.seq.setWidth 64)
        ∧ (frameGood type f l.expect → s.hub.ready = false → type ≠ 0x05 → type ≠ 0x06 →
            Answers (exec (.unassignedType type f) s) fun t => drops t ∧ s.declines t f fun r => r.status = 1 ∧ r.code = 0x61)
        ∧ (frameGood type f l.expect → s.hub.ready = true → l.queue.length = 64 →
            Answers (exec (.unassignedType type f) s) fun t => drops t ∧ s.declines t f fun r => r.status = 7))

/-! ## Encodings -/

/-- 12 "Worked encodings", 13, 14, 15: words and a packet written out in the spec decode to the instructions that they
stand for there, and the words that it calls ILLEGAL are rejected by name. -/
def Obligations.SpecWords : Prop :=
  decode 0x010C4160 = .ok (.add { sd := 3, sa := 4, sb := 5, ea := true, eb := false })
    ∧ decode 0x380C4404 = .ok (.ld { sd := 3, sa := 4, ea := false, size := .w, off := 4 })
    ∧ decode 0x400C4145 = .ok (.amoadd { sd := 3, sa := 4, sb := 5, ea := false, eb := false, order := .acquire, scope := .die })
    ∧ decode 0x4C248980 = .ok (.fence { sd := 9, mask := 0x22, scope := .package })
    ∧ decode 0x290C03FC = .ok (.bne { sa := 3, sb := 0, ea := false, eb := false, off := 0x3FC })
    ∧ decode 0x58244003 = .ok (.bartok { sd := 9, sa := 4, ea := false } .package)
    ∧ decode 0x601461C2 = .ok (.talloc { sd := 5, sa := 6, sb := 7, ea := false, eb := false } 2)
    ∧ decode 0x8A0C4206 = .ok (.cvt { sd := 3, sa := 4, ea := false } .b8a .fp32 .rup false)
    ∧ decodePacket 0x020C9200000000000010000000822041
        = .ok (.feedt { tok := 9, port := 3, eof := true, handle := 0x00822041, count := 16, level := 0 })
    ∧ decode 0x010C416B = .error .fn ∧ decode 0x4A0C4009 = .error .reservedValue ∧ decode 0 = .error .opcode

/-- 12 R230 to R237 (Tables ENC-1 to ENC-5): the word of every well-formed scalar instruction, with every operand at
every value that its encoding admits, decodes to that instruction. -/
def Obligations.ScalarRoundTrip : Prop :=
  ∀ i : Instr, WellFormed i → isEvent i = false → i.isCommand = false → (∀ w r, i ≠ .undecodableInstruction w r) →
    decode (encode i) = .ok i

/-- 12 R238 to R242, 15 R321 to R341 (Tables ENC-6, ENC-7, CMD-4 to CMD-9): the packet of every well-formed stream
command, with every field at every value that its encoding admits, decodes to that command. -/
def Obligations.PacketRoundTrip : Prop :=
  ∀ i : Instr, WellFormed i → i.isCommand = true → decodePacket (encodePacket i) = .ok i

/-- 12 R231, R232, R236, R237, R240: an instruction has one word or one packet, so no bit that the spec does not name
is ignored, and what decodes is well formed: a scalar instruction from a word, a command from a packet. -/
def Obligations.EncodingsUnique : Prop :=
  (∀ (w : IWord) (i : Instr), decode w = .ok i → encode i = w ∧ WellFormed i ∧ isEvent i = false ∧ i.isCommand = false)
    ∧ ∀ (p : Packet) (i : Instr), decodePacket p = .ok i → encodePacket i = p ∧ WellFormed i ∧ i.isCommand = true

/-! ## Steps -/

/-- 13 R254, 12 R232, R233, 15 R319 to R321: a step runs what is fetched. In the turn of a core that runs a task and
has no trap, stop or sleep pending, the word at the pc is decoded and executed (its line of the instruction buffer, 05
Table COR-1, counts as the one used last), a word that does not decode is an UNDECODABLE_INSTRUCTION, and a line that
the core lacks is fetched; in the turn of an engine that is free, the packet at the head of its inbox; in the turn of
an event, the event. Whose turn it is the schedule says, and without one the focused core moves (the model's own view,
notes/assumptions/2.md). Before a turn the clk pass that it names, and one more where what the turn does at a home has
missed its place in the clk (06 R104, R107, 14 R294, R299, R303). -/
def Obligations.StepRuns : Prop :=
  ∀ (s : State) (rest : List Turn) (dt : Nat),
    let begun (w : Mover) : State := ({ s with sched := rest } : State).beginTurn ⟨dt, w⟩
    let at_ (c : CoreNum) : State := (begun (.core c)).focus c
    let alone : State := s.beginTurn ⟨1, .core s.cur⟩
    let engine (c : CoreNum) (b : Box) : State := (begun (.engine c b)).focus c
    let ready (v : State) : Prop := v.coreRuns v.cur = true ∧ (v.me.task.isSome || v.me.detached.isSome) = true
      ∧ v.me.pipe.traps = [] ∧ v.me.stopping = none ∧ v.me.sleeping = none
    let word (v : State) (w : IWord) : Prop := v.pc.toNat % 4 = 0 ∧ ∃ l, v.me.lineOf v.pc = some l
      ∧ w.toNat = l.bytes.toNat / 256 ^ (v.pc.toNat % 256) % 2 ^ 32
    let runs (v : State) (is : Out → Prop) : Prop :=
      let used := v.mapMe fun c => c.useLine c.seq.pc
      (∀ w i, word v w → decode w = .ok i → is (exec i used))
        ∧ (∀ w r, word v w → decode w = .error r → is (exec (.undecodableInstruction w r) used))
        ∧ (v.pc.toNat % 4 ≠ 0 ∨ v.me.lineOf v.pc = none → is (exec (.instructionFetch v.cur) v))
    (∀ c, s.sched = ⟨dt, .core c⟩ :: rest → ready (at_ c) → runs (at_ c) fun o => step s = o)
    ∧ (s.sched = [] → ready alone → runs alone fun o => ∀ t, o = .next t → ∃ turns, step s = .next { t with sched := turns })
    ∧ (∀ c b k i, s.sched = ⟨dt, .engine c b⟩ :: rest →
        let v := engine c b
        (v.me.inbox b).head? = some k → v.coreRuns c = true → v.engineFree b = true →
        (b = .join → ∀ x ∈ (v.me.inbox b).tail, pktOp x.packet ≠ 0x25) → decodePacket k.packet = .ok i → step s = exec i v)
    ∧ (∀ i, s.sched = ⟨dt, .event i⟩ :: rest → isEvent i = true → step s = exec i (begun (.event i)))
    ∧ (∀ c, s.sched = ⟨dt, .core c⟩ :: rest → (at_ c).coreRuns c = false → step s = .next (at_ c))
    ∧ (∀ a, s.sched = ⟨dt, .env a⟩ :: rest → step s = .next ((begun (.env a)).surround a))
    ∧ ∀ t, ∃ k m, k ≤ 1 ∧ s.beginTurn t = { s with clk := s.clk + t.elapsed + k, inClk := m }
        ∧ (s.homeOp t.who = .none → k = 0)

/-- The memory after module reset is in the canonical form that every step keeps (01 R21 step 5: nothing is listed),
and the part is whole, with no cluster fused off (01 R7). -/
def Obligations.ResetInv : Prop := State.reset.Inv

/-- 03 R44 to R48 (Table ADR-2): whatever step the device takes, by any core, engine or event, its memory stays in the
one canonical form in which equal contents are equal data: addresses rise strictly, and no entry equals what an
unlisted byte reads as. The part keeps the clusters of its grade: two of each die fused off on grade B, none on any
other (01 R7). -/
def Obligations.StepKeepsInv : Prop := ∀ s t : State, s.Inv → step s = .next t → t.Inv
end

