-- ==== Sys2Proof/Laws/Dispatch.lean ====
section
/-!
SUPPORT. One lemma for every arm of `exec`, so that no proof unfolds the dispatch.
-/
namespace Sys2Proof.Machine
variable (s : State)

@[simp] theorem exec_add (o : ROps) : exec (.add o) s = execAdd o s := rfl
@[simp] theorem exec_sub (o : ROps) : exec (.sub o) s = execSub o s := rfl
@[simp] theorem exec_and (o : ROps) : exec (.and o) s = execAnd o s := rfl
@[simp] theorem exec_or (o : ROps) : exec (.or o) s = execOr o s := rfl
@[simp] theorem exec_xor (o : ROps) : exec (.xor o) s = execXor o s := rfl
@[simp] theorem exec_andn (o : ROps) : exec (.andn o) s = execAndn o s := rfl
@[simp] theorem exec_orn (o : ROps) : exec (.orn o) s = execOrn o s := rfl
@[simp] theorem exec_shl (o : ROps) : exec (.shl o) s = execShl o s := rfl
@[simp] theorem exec_shr (o : ROps) : exec (.shr o) s = execShr o s := rfl
@[simp] theorem exec_sar (o : ROps) : exec (.sar o) s = execSar o s := rfl
@[simp] theorem exec_rotl (o : ROps) : exec (.rotl o) s = execRotl o s := rfl
@[simp] theorem exec_min (o : ROps) : exec (.min o) s = execMin o s := rfl
@[simp] theorem exec_max (o : ROps) : exec (.max o) s = execMax o s := rfl
@[simp] theorem exec_minu (o : ROps) : exec (.minu o) s = execMinu o s := rfl
@[simp] theorem exec_maxu (o : ROps) : exec (.maxu o) s = execMaxu o s := rfl
@[simp] theorem exec_seq (o : ROps) : exec (.seq o) s = execSeq o s := rfl
@[simp] theorem exec_sne (o : ROps) : exec (.sne o) s = execSne o s := rfl
@[simp] theorem exec_slt (o : ROps) : exec (.slt o) s = execSlt o s := rfl
@[simp] theorem exec_sltu (o : ROps) : exec (.sltu o) s = execSltu o s := rfl
@[simp] theorem exec_mul (o : ROps) : exec (.mul o) s = execMul o s := rfl
@[simp] theorem exec_mulhi (o : ROps) : exec (.mulhi o) s = execMulhi o s := rfl
@[simp] theorem exec_mulhiu (o : ROps) : exec (.mulhiu o) s = execMulhiu o s := rfl
@[simp] theorem exec_div (o : ROps) : exec (.div o) s = execDiv o s := rfl
@[simp] theorem exec_divu (o : ROps) : exec (.divu o) s = execDivu o s := rfl
@[simp] theorem exec_rem (o : ROps) : exec (.rem o) s = execRem o s := rfl
@[simp] theorem exec_remu (o : ROps) : exec (.remu o) s = execRemu o s := rfl
@[simp] theorem exec_divideResult (core : CoreNum) : exec (.divideResult core) s = execDivideResult core s := rfl
@[simp] theorem exec_clz (o : UOps) : exec (.clz o) s = execClz o s := rfl
@[simp] theorem exec_ctz (o : UOps) : exec (.ctz o) s = execCtz o s := rfl
@[simp] theorem exec_popc (o : UOps) : exec (.popc o) s = execPopc o s := rfl
@[simp] theorem exec_brev (o : UOps) : exec (.brev o) s = execBrev o s := rfl
@[simp] theorem exec_lea (o : ROps) (k : BitVec 2) : exec (.lea o k) s = execLea o k s := rfl
@[simp] theorem exec_addi (o : IOps) : exec (.addi o) s = execAddi o s := rfl
@[simp] theorem exec_andi (o : IOps) : exec (.andi o) s = execAndi o s := rfl
@[simp] theorem exec_ori (o : IOps) : exec (.ori o) s = execOri o s := rfl
@[simp] theorem exec_xori (o : IOps) : exec (.xori o) s = execXori o s := rfl
@[simp] theorem exec_shli (o : ShiftOps) : exec (.shli o) s = execShli o s := rfl
@[simp] theorem exec_shri (o : ShiftOps) : exec (.shri o) s = execShri o s := rfl
@[simp] theorem exec_sari (o : ShiftOps) : exec (.sari o) s = execSari o s := rfl
@[simp] theorem exec_slti (o : IOps) : exec (.slti o) s = execSlti o s := rfl
@[simp] theorem exec_sltiu (o : IOps) : exec (.sltiu o) s = execSltiu o s := rfl
@[simp] theorem exec_sext (o : ShiftOps) : exec (.sext o) s = execSext o s := rfl
@[simp] theorem exec_zext (o : ShiftOps) : exec (.zext o) s = execZext o s := rfl
@[simp] theorem exec_bfx (o : FieldOps) : exec (.bfx o) s = execBfx o s := rfl
@[simp] theorem exec_bfxs (o : FieldOps) : exec (.bfxs o) s = execBfxs o s := rfl
@[simp] theorem exec_bfi (o : FieldOps) : exec (.bfi o) s = execBfi o s := rfl
@[simp] theorem exec_li (o : LOps) : exec (.li o) s = execLi o s := rfl
@[simp] theorem exec_lis1 (o : LOps) : exec (.lis1 o) s = execLis1 o s := rfl
@[simp] theorem exec_lis2 (o : LOps) : exec (.lis2 o) s = execLis2 o s := rfl
@[simp] theorem exec_lis3 (sd : Reg) (imm : BitVec 10) : exec (.lis3 sd imm) s = execLis3 sd imm s := rfl
@[simp] theorem exec_beq (o : BOps) : exec (.beq o) s = execBeq o s := rfl
@[simp] theorem exec_bne (o : BOps) : exec (.bne o) s = execBne o s := rfl
@[simp] theorem exec_blt (o : BOps) : exec (.blt o) s = execBlt o s := rfl
@[simp] theorem exec_bge (o : BOps) : exec (.bge o) s = execBge o s := rfl
@[simp] theorem exec_bltu (o : BOps) : exec (.bltu o) s = execBltu o s := rfl
@[simp] theorem exec_bgeu (o : BOps) : exec (.bgeu o) s = execBgeu o s := rfl
@[simp] theorem exec_jmp (off : BitVec 24) : exec (.jmp off) s = execJmp off s := rfl
@[simp] theorem exec_jal (off : BitVec 24) : exec (.jal off) s = execJal off s := rfl
@[simp] theorem exec_jr (o : SOps) (imm : BitVec 11) : exec (.jr o imm) s = execJr o imm s := rfl
@[simp] theorem exec_jalr (o : IOps) : exec (.jalr o) s = execJalr o s := rfl
@[simp] theorem exec_loop (o : SOps) (last : BitVec 17) : exec (.loop o last) s = execLoop o last s := rfl
@[simp] theorem exec_ld (o : MOps) : exec (.ld o) s = execLd o s := rfl
@[simp] theorem exec_lds (o : MOps) : exec (.lds o) s = execLds o s := rfl
@[simp] theorem exec_st (o : MOps) : exec (.st o) s = execSt o s := rfl
@[simp] theorem exec_ldq (o : QOps) : exec (.ldq o) s = execLdq o s := rfl
@[simp] theorem exec_stq (o : QOps) : exec (.stq o) s = execStq o s := rfl
@[simp] theorem exec_loadReturn (core : CoreNum) (id : Nat) (ecc : Bool) : exec (.loadReturn core id ecc) s = execLoadReturn core id ecc s := rfl
@[simp] theorem exec_storeAcknowledge (core : CoreNum) (id : Nat) (ecc : Bool) : exec (.storeAcknowledge core id ecc) s = execStoreAcknowledge core id ecc s := rfl
@[simp] theorem exec_amoadd (o : AOps) : exec (.amoadd o) s = execAmoadd o s := rfl
@[simp] theorem exec_amoand (o : AOps) : exec (.amoand o) s = execAmoand o s := rfl
@[simp] theorem exec_amoor (o : AOps) : exec (.amoor o) s = execAmoor o s := rfl
@[simp] theorem exec_amoxor (o : AOps) : exec (.amoxor o) s = execAmoxor o s := rfl
@[simp] theorem exec_amomin (o : AOps) : exec (.amomin o) s = execAmomin o s := rfl
@[simp] theorem exec_amomax (o : AOps) : exec (.amomax o) s = execAmomax o s := rfl
@[simp] theorem exec_amominu (o : AOps) : exec (.amominu o) s = execAmominu o s := rfl
@[simp] theorem exec_amomaxu (o : AOps) : exec (.amomaxu o) s = execAmomaxu o s := rfl
@[simp] theorem exec_amoswp (o : AOps) : exec (.amoswp o) s = execAmoswp o s := rfl
@[simp] theorem exec_cas (o : AOps) : exec (.cas o) s = execCas o s := rfl
@[simp] theorem exec_lda (o : UOps) (acq : Bool) (scope : AScope) : exec (.lda o acq scope) s = execLda o acq scope s := rfl
@[simp] theorem exec_stl (o : PairOps) (rel : Bool) (scope : AScope) : exec (.stl o rel scope) s = execStl o rel scope s := rfl
@[simp] theorem exec_atomicAtHome (core : CoreNum) (id : Nat) : exec (.atomicAtHome core id) s = execAtomicAtHome core id s := rfl
@[simp] theorem exec_fence (o : FenceOps) : exec (.fence o) s = execFence o s := rfl
@[simp] theorem exec_fencec (o : FenceOps) : exec (.fencec o) s = execFencec o s := rfl
@[simp] theorem exec_fenceTokenFill (core : CoreNum) (id : Nat) : exec (.fenceTokenFill core id) s = execFenceTokenFill core id s := rfl
@[simp] theorem exec_ldf (o : UOps) : exec (.ldf o) s = execLdf o s := rfl
@[simp] theorem exec_fput (o : PairOps) : exec (.fput o) s = execFput o s := rfl
@[simp] theorem exec_fclr (o : SOps) : exec (.fclr o) s = execFclr o s := rfl
@[simp] theorem exec_ftest (o : UOps) : exec (.ftest o) s = execFtest o s := rfl
@[simp] theorem exec_fempty (sd : Reg) : exec (.fempty sd) s = execFempty sd s := rfl
@[simp] theorem exec_femptyTimeout (core : CoreNum) (reg : Reg) : exec (.femptyTimeout core reg) s = execFemptyTimeout core reg s := rfl
@[simp] theorem exec_rfull (sd sa : Reg) : exec (.rfull sd sa) s = execRfull sd sa s := rfl
@[simp] theorem exec_bararr (o : SOps) (scope : Scope) : exec (.bararr o scope) s = execBararr o scope s := rfl
@[simp] theorem exec_barexp (o : PairOps) (scope : Scope) : exec (.barexp o scope) s = execBarexp o scope s := rfl
@[simp] theorem exec_bartok (o : UOps) (scope : Scope) : exec (.bartok o scope) s = execBartok o scope s := rfl
@[simp] theorem exec_talloc (o : ROps) (part : BitVec 4) : exec (.talloc o part) s = execTalloc o part s := rfl
@[simp] theorem exec_tcons (o : SOps) : exec (.tcons o) s = execTcons o s := rfl
@[simp] theorem exec_tfree (o : SOps) : exec (.tfree o) s = execTfree o s := rfl
@[simp] theorem exec_tinfo (o : UOps) : exec (.tinfo o) s = execTinfo o s := rfl
@[simp] theorem exec_tsend (o : PairOps) (port : BitVec 4) : exec (.tsend o port) s = execTsend o port s := rfl
@[simp] theorem exec_taddr (o : UOps) : exec (.taddr o) s = execTaddr o s := rfl
@[simp] theorem exec_spawn (o : SOps) (trap rpl ute tile : Bool) : exec (.spawn o trap rpl ute tile) s = execSpawn o trap rpl ute tile s := rfl
@[simp] theorem exec_retire : exec .retire s = execRetire s := rfl
@[simp] theorem exec_yield (o : PairOps) (kind : YieldKind) : exec (.yield o kind) s = execYield o kind s := rfl
@[simp] theorem exec_etrig : exec .etrig s = execEtrig s := rfl
@[simp] theorem exec_runq (sd : Reg) : exec (.runq sd) s = execRunq sd s := rfl
@[simp] theorem exec_cmd (o : SOps) : exec (.cmd o) s = execCmd o s := rfl
@[simp] theorem exec_cmdm (o : PairOps) (slot : CmdSlot) : exec (.cmdm o slot) s = execCmdm o slot s := rfl
@[simp] theorem exec_prd (o : UOps) : exec (.prd o) s = execPrd o s := rfl
@[simp] theorem exec_pwr (o : PairOps) : exec (.pwr o) s = execPwr o s := rfl
@[simp] theorem exec_cfg (o : UOps) (graph : Bool) : exec (.cfg o graph) s = execCfg o graph s := rfl
@[simp] theorem exec_instq (sd : Reg) : exec (.instq sd) s = execInstq sd s := rfl
@[simp] theorem exec_fadd (o : FpOps) : exec (.fadd o) s = execFadd o s := rfl
@[simp] theorem exec_fsub (o : FpOps) : exec (.fsub o) s = execFsub o s := rfl
@[simp] theorem exec_fmul (o : FpOps) : exec (.fmul o) s = execFmul o s := rfl
@[simp] theorem exec_fdiv (o : FpOps) : exec (.fdiv o) s = execFdiv o s := rfl
@[simp] theorem exec_fsqrt (o : UOps) (dbl : Bool) (rm : Rounding) : exec (.fsqrt o dbl rm) s = execFsqrt o dbl rm s := rfl
@[simp] theorem exec_fma (o : FpOps) : exec (.fma o) s = execFma o s := rfl
@[simp] theorem exec_fmin (o : ROps) (dbl : Bool) : exec (.fmin o dbl) s = execFmin o dbl s := rfl
@[simp] theorem exec_fmax (o : ROps) (dbl : Bool) : exec (.fmax o dbl) s = execFmax o dbl s := rfl
@[simp] theorem exec_fcmp (o : ROps) (dbl : Bool) (cond : FCond) : exec (.fcmp o dbl cond) s = execFcmp o dbl cond s := rfl
@[simp] theorem exec_fclass (o : UOps) (dbl : Bool) : exec (.fclass o dbl) s = execFclass o dbl s := rfl
@[simp] theorem exec_fpResult (core : CoreNum) : exec (.fpResult core) s = execFpResult core s := rfl
@[simp] theorem exec_cvt (o : UOps) (dst src : ScalarFmt) (rm : Rounding) (sat : Bool) : exec (.cvt o dst src rm sat) s = execCvt o dst src rm sat s := rfl
@[simp] theorem exec_trap (n : BitVec 11) : exec (.trap n) s = execTrap n s := rfl
@[simp] theorem exec_eret : exec .eret s = execEret s := rfl
@[simp] theorem exec_mfs (sd : Reg) (n : SysReg) : exec (.mfs sd n) s = execMfs sd n s := rfl
@[simp] theorem exec_mts (o : SOps) (n : SysReg) : exec (.mts o n) s = execMts o n s := rfl
@[simp] theorem exec_wfe : exec .wfe s = execWfe s := rfl
@[simp] theorem exec_wfeTimeout (core : CoreNum) : exec (.wfeTimeout core) s = execWfeTimeout core s := rfl
@[simp] theorem exec_sev : exec .sev s = execSev s := rfl
@[simp] theorem exec_halt : exec .halt s = execHalt s := rfl
@[simp] theorem exec_bkpt : exec .bkpt s = execBkpt s := rfl
@[simp] theorem exec_instructionFetch (core : CoreNum) : exec (.instructionFetch core) s = execInstructionFetch core s := rfl
@[simp] theorem exec_feed (o : FeedOps) : exec (.feed o) s = execFeed o s := rfl
@[simp] theorem exec_feedt (o : FeedTOps) : exec (.feedt o) s = execFeedt o s := rfl
@[simp] theorem exec_feedc (o : FeedCOps) : exec (.feedc o) s = execFeedc o s := rfl
@[simp] theorem exec_drain (o : DrainOps) : exec (.drain o) s = execDrain o s := rfl
@[simp] theorem exec_draint (o : DrainTOps) : exec (.draint o) s = execDraint o s := rfl
@[simp] theorem exec_eofi (tok : Reg) (port : BitVec 4) (level : BitVec 3) : exec (.eofi tok port level) s = execEofi tok port level s := rfl
@[simp] theorem exec_parm (tok : Reg) (elem : BitVec 7) (k : BitVec 3) (value : BitVec 32) : exec (.parm tok elem k value) s = execParm tok elem k value s := rfl
@[simp] theorem exec_arm (tok : Reg) (cols : BitVec 12) : exec (.arm tok cols) s = execArm tok cols s := rfl
@[simp] theorem exec_haltf (tok : Reg) : exec (.haltf tok) s = execHaltf tok s := rfl
@[simp] theorem exec_jdense (tok : Reg) (f : JoinFmt) (m : BitVec 7) (n : BitVec 6) (base : BitVec 15) (ext : BitVec 48) : exec (.jdense tok f m n base ext) s = execJdense tok f m n base ext s := rfl
@[simp] theorem exec_jsparse (tok : Reg) (f : JoinFmt) (ext : BitVec 48) : exec (.jsparse tok f ext) s = execJsparse tok f ext s := rfl
@[simp] theorem exec_jgath (tok : Reg) (f : JoinFmt) (nb : BitVec 12) (ext : BitVec 48) : exec (.jgath tok f nb ext) s = execJgath tok f nb ext s := rfl
@[simp] theorem exec_jfeed (tok : Reg) (src : Word) (count : BitVec 32) (afmt : BitVec 2) (rm : Rounding) : exec (.jfeed tok src count afmt rm) s = execJfeed tok src count afmt rm s := rfl
@[simp] theorem exec_jdrain (tok : Reg) (ordered : Bool) (target : DrainTarget) : exec (.jdrain tok ordered target) s = execJdrain tok ordered target s := rfl
@[simp] theorem exec_jpeek (tok : Reg) (addr : BitVec 48) : exec (.jpeek tok addr) s = execJpeek tok addr s := rfl
@[simp] theorem exec_jclr (tok : Reg) : exec (.jclr tok) s = execJclr tok s := rfl
@[simp] theorem exec_jspill (tok : Reg) (addr : BitVec 48) (cap : BitVec 32) : exec (.jspill tok addr cap) s = execJspill tok addr cap s := rfl
@[simp] theorem exec_copy (tok : Reg) (ext : BitVec 48) (faddr : BitVec 48) (ftok : Reg) : exec (.copy tok ext faddr ftok) s = execCopy tok ext faddr ftok s := rfl
@[simp] theorem exec_mcast (tok : Reg) (ext : BitVec 48) : exec (.mcast tok ext) s = execMcast tok ext s := rfl
@[simp] theorem exec_pagein (tok : Reg) (ext : BitVec 48) : exec (.pagein tok ext) s = execPagein tok ext s := rfl
@[simp] theorem exec_publish (tok : Reg) (addr : BitVec 48) (len : BitVec 32) (scope : Scope) : exec (.publish tok addr len scope) s = execPublish tok addr len scope s := rfl
@[simp] theorem exec_fill (tok : Reg) (body : FillBody) : exec (.fill tok body) s = execFill tok body s := rfl
@[simp] theorem exec_rput (tok : Reg) (ext : BitVec 48) : exec (.rput tok ext) s = execRput tok ext s := rfl
@[simp] theorem exec_rget (tok : Reg) (ext : BitVec 48) : exec (.rget tok ext) s = execRget tok ext s := rfl
@[simp] theorem exec_ramo (tok : Reg) (ext : BitVec 48) (op : BitVec 4) : exec (.ramo tok ext op) s = execRamo tok ext op s := rfl
@[simp] theorem exec_rsend (tok : Reg) (ext : BitVec 48) : exec (.rsend tok ext) s = execRsend tok ext s := rfl
@[simp] theorem exec_launch (tok : Reg) (early : Bool) (addr : BitVec 48) : exec (.launch tok early addr) s = execLaunch tok early addr s := rfl
@[simp] theorem exec_remoteDelivery (m : RemoteMsg) : exec (.remoteDelivery m) s = execRemoteDelivery m s := rfl
@[simp] theorem exec_commandCompletion (core : CoreNum) (id : Nat) : exec (.commandCompletion core id) s = execCommandCompletion core id s := rfl
@[simp] theorem exec_shadowPublish (id : Nat) : exec (.shadowPublish id) s = execShadowPublish id s := rfl
@[simp] theorem exec_configurationStart (core : CoreNum) : exec (.configurationStart core) s = execConfigurationStart core s := rfl
@[simp] theorem exec_mappingTimeout (core : CoreNum) : exec (.mappingTimeout core) s = execMappingTimeout core s := rfl
@[simp] theorem exec_instant (core : CoreNum) : exec (.instant core) s = execInstant core s := rfl
@[simp] theorem exec_thrTimeout (core : CoreNum) (elem : BitVec 7) : exec (.thrTimeout core elem) s = execThrTimeout core elem s := rfl
@[simp] theorem exec_ctlmTimeout (core : CoreNum) (elem : BitVec 7) : exec (.ctlmTimeout core elem) s = execCtlmTimeout core elem s := rfl
@[simp] theorem exec_ingLim (core : CoreNum) (id : Nat) : exec (.ingLim core id) s = execIngLim core id s := rfl
@[simp] theorem exec_dispatchClk (die : DieNum) : exec (.dispatchClk die) s = execDispatchClk die s := rfl
@[simp] theorem exec_generatorEnqueue (pdk : PdkNum) (group : GroupNum) : exec (.generatorEnqueue pdk group) s = execGeneratorEnqueue pdk group s := rfl
@[simp] theorem exec_groupRetire (pdk : PdkNum) (group : GroupNum) : exec (.groupRetire pdk group) s = execGroupRetire pdk group s := rfl
@[simp] theorem exec_preemption (pdk : PdkNum) : exec (.preemption pdk) s = execPreemption pdk s := rfl
@[simp] theorem exec_fabricSaved (core : CoreNum) : exec (.fabricSaved core) s = execFabricSaved core s := rfl
@[simp] theorem exec_drainWindowEnd (core : CoreNum) : exec (.drainWindowEnd core) s = execDrainWindowEnd core s := rfl
@[simp] theorem exec_softError (core : CoreNum) (unit : ErrorUnit) : exec (.softError core unit) s = execSoftError core unit s := rfl
@[simp] theorem exec_requeue (pdk : PdkNum) (die : DieNum) : exec (.requeue pdk die) s = execRequeue pdk die s := rfl
@[simp] theorem exec_abortRecord (pdk : PdkNum) (die : DieNum) : exec (.abortRecord pdk die) s = execAbortRecord pdk die s := rfl
@[simp] theorem exec_abortGroup (pdk : PdkNum) (die : DieNum) : exec (.abortGroup pdk die) s = execAbortGroup pdk die s := rfl
@[simp] theorem exec_holdActionEnd (pdk : PdkNum) (die : DieNum) : exec (.holdActionEnd pdk die) s = execHoldActionEnd pdk die s := rfl
@[simp] theorem exec_deadlockSample : exec .deadlockSample s = execDeadlockSample s := rfl
@[simp] theorem exec_loftGrantClk (core : CoreNum) : exec (.loftGrantClk core) s = execLoftGrantClk core s := rfl
@[simp] theorem exec_tileAdmission (id : Nat) : exec (.tileAdmission id) s = execTileAdmission id s := rfl
@[simp] theorem exec_tileCount (id : Nat) : exec (.tileCount id) s = execTileCount id s := rfl
@[simp] theorem exec_heldRelease (id : Nat) : exec (.heldRelease id) s = execHeldRelease id s := rfl
@[simp] theorem exec_admissionAnswer (id : Nat) : exec (.admissionAnswer id) s = execAdmissionAnswer id s := rfl
@[simp] theorem exec_tokenRingClk (die : DieNum) : exec (.tokenRingClk die) s = execTokenRingClk die s := rfl
@[simp] theorem exec_tokenHoldExpiry (core : CoreNum) : exec (.tokenHoldExpiry core) s = execTokenHoldExpiry core s := rfl
@[simp] theorem exec_jtok (die : DieNum) (value : Word) : exec (.jtok die value) s = execJtok die value s := rfl
@[simp] theorem exec_go (core : CoreNum) (id : Nat) : exec (.go core id) s = execGo core id s := rfl
@[simp] theorem exec_invalidationDone (pdk : PdkNum) (die : DieNum) : exec (.invalidationDone pdk die) s = execInvalidationDone pdk die s := rfl
@[simp] theorem exec_thrcntRead (core : CoreNum) (id : Nat) : exec (.thrcntRead core id) s = execThrcntRead core id s := rfl
@[simp] theorem exec_partcntRead (core : CoreNum) (id : Nat) : exec (.partcntRead core id) s = execPartcntRead core id s := rfl
@[simp] theorem exec_loftstatRead (core : CoreNum) (id : Nat) : exec (.loftstatRead core id) s = execLoftstatRead core id s := rfl
@[simp] theorem exec_registerWrite (w : RegWrite) : exec (.registerWrite w) s = execRegisterWrite w s := rfl
@[simp] theorem exec_sensorSample (readings : List SensorReading) : exec (.sensorSample readings) s = execSensorSample readings s := rfl
@[simp] theorem exec_thermalWarning (die : DieNum) (temp : BitVec 16) : exec (.thermalWarning die temp) s = execThermalWarning die temp s := rfl
@[simp] theorem exec_thermalTrip (die : DieNum) : exec (.thermalTrip die) s = execThermalTrip die s := rfl
@[simp] theorem exec_linkRetryTimeout (a b : BitVec 3) : exec (.linkRetryTimeout a b) s = execLinkRetryTimeout a b s := rfl
@[simp] theorem exec_cxlLinkDown (port : BitVec 2) : exec (.cxlLinkDown port) s = execCxlLinkDown port s := rfl
@[simp] theorem exec_portDown (port : BitVec 4) : exec (.portDown port) s = execPortDown port s := rfl
@[simp] theorem exec_laneFailure (lane : Lane) : exec (.laneFailure lane) s = execLaneFailure lane s := rfl
@[simp] theorem exec_scrub (pa : BitVec 44) : exec (.scrub pa) s = execScrub pa s := rfl
@[simp] theorem exec_standbyPowerGood : exec .standbyPowerGood s = execStandbyPowerGood s := rfl
@[simp] theorem exec_mainPowerGood : exec .mainPowerGood s = execMainPowerGood s := rfl
@[simp] theorem exec_moduleReset (r : ResetOutcome) : exec (.moduleReset r) s = execModuleReset r s := rfl
@[simp] theorem exec_launchMessage (f : Frame) : exec (.launchMessage f) s = execLaunchMessage f s := rfl
@[simp] theorem exec_memrd (f : Frame) : exec (.memrd f) s = execMemrd f s := rfl
@[simp] theorem exec_memwr (f : Frame) : exec (.memwr f) s = execMemwr f s := rfl
@[simp] theorem exec_create (f : Frame) : exec (.create f) s = execCreate f s := rfl
@[simp] theorem exec_modify (f : Frame) : exec (.modify f) s = execModify f s := rfl
@[simp] theorem exec_destroy (f : Frame) : exec (.destroy f) s = execDestroy f s := rfl
@[simp] theorem exec_keyload (f : Frame) : exec (.keyload f) s = execKeyload f s := rfl
@[simp] theorem exec_paddockReset (f : Frame) : exec (.paddockReset f) s = execPaddockReset f s := rfl
@[simp] theorem exec_queryDeviceInfo (f : Frame) : exec (.queryDeviceInfo f) s = execQueryDeviceInfo f s := rfl
@[simp] theorem exec_querySensor (f : Frame) : exec (.querySensor f) s = execQuerySensor f s := rfl
@[simp] theorem exec_queryPaddock (f : Frame) : exec (.queryPaddock f) s = execQueryPaddock f s := rfl
@[simp] theorem exec_queryFaultLog (f : Frame) : exec (.queryFaultLog f) s = execQueryFaultLog f s := rfl
@[simp] theorem exec_queryDraw (f : Frame) : exec (.queryDraw f) s = execQueryDraw f s := rfl
@[simp] theorem exec_queryCertificates (f : Frame) : exec (.queryCertificates f) s = execQueryCertificates f s := rfl
@[simp] theorem exec_syscfgDevid (f : Frame) : exec (.syscfgDevid f) s = execSyscfgDevid f s := rfl
@[simp] theorem exec_syscfgPools (f : Frame) : exec (.syscfgPools f) s = execSyscfgPools f s := rfl
@[simp] theorem exec_syscfgWarn (f : Frame) : exec (.syscfgWarn f) s = execSyscfgWarn f s := rfl
@[simp] theorem exec_syscfgScrub (f : Frame) : exec (.syscfgScrub f) s = execSyscfgScrub f s := rfl
@[simp] theorem exec_attest (f : Frame) : exec (.attest f) s = execAttest f s := rfl
@[simp] theorem exec_logdata : exec .logdata s = execLogdata s := rfl
@[simp] theorem exec_fwdata (value : Word) : exec (.fwdata value) s = execFwdata value s := rfl
@[simp] theorem exec_hold (value : Bool) : exec (.hold value) s = execHold value s := rfl
@[simp] theorem exec_fwstage (value : Bool) : exec (.fwstage value) s = execFwstage value s := rfl
@[simp] theorem exec_fwswap (value : Bool) : exec (.fwswap value) s = execFwswap value s := rfl
@[simp] theorem exec_warn (mask : BitVec 4) : exec (.warn mask) s = execWarn mask s := rfl
@[simp] theorem exec_undecodableInstruction (word : IWord) (reason : IllegalReason) : exec (.undecodableInstruction word reason) s = execUndecodableInstruction word reason s := rfl
@[simp] theorem exec_unassignedType (type : Byte) (f : Frame) : exec (.unassignedType type f) s = execUnassignedType type f s := rfl
@[simp] theorem exec_mainPowerLoss : exec .mainPowerLoss s = execMainPowerLoss s := rfl
@[simp] theorem exec_standbyPowerLoss : exec .standbyPowerLoss s = execStandbyPowerLoss s := rfl

end Sys2Proof.Machine
end

