-- ==== Sys2Proof/Laws/State.lean ====
section
/-!
SUPPORT. One lemma per field per update of the state (Machine/Access.lean, Machine/Ops.lean), so that no proof unfolds a
record update.
-/
namespace Sys2Proof.Machine
variable (s : State)

/-! ## State.mapMe -/

@[simp] theorem State.mapMe_chip (f : Core → Core) : (s.mapMe f).chip = s.chip := rfl
@[simp] theorem State.mapMe_clk (f : Core → Core) : (s.mapMe f).clk = s.clk := rfl
@[simp] theorem State.mapMe_inClk (f : Core → Core) : (s.mapMe f).inClk = s.inClk := rfl
@[simp] theorem State.mapMe_sched (f : Core → Core) : (s.mapMe f).sched = s.sched := rfl
@[simp] theorem State.mapMe_cur (f : Core → Core) : (s.mapMe f).cur = s.cur := rfl
@[simp] theorem State.mapMe_me (f : Core → Core) : (s.mapMe f).me = f s.me := rfl
@[simp] theorem State.mapMe_others (f : Core → Core) : (s.mapMe f).others = s.others := rfl
@[simp] theorem State.mapMe_mem (f : Core → Core) : (s.mapMe f).mem = s.mem := rfl
@[simp] theorem State.mapMe_encBy (f : Core → Core) : (s.mapMe f).encBy = s.encBy := rfl
@[simp] theorem State.mapMe_fullBits (f : Core → Core) : (s.mapMe f).fullBits = s.fullBits := rfl
@[simp] theorem State.mapMe_badWords (f : Core → Core) : (s.mapMe f).badWords = s.badWords := rfl
@[simp] theorem State.mapMe_shadows (f : Core → Core) : (s.mapMe f).shadows = s.shadows := rfl
@[simp] theorem State.mapMe_nextShadow (f : Core → Core) : (s.mapMe f).nextShadow = s.nextShadow := rfl
@[simp] theorem State.mapMe_tileMsgs (f : Core → Core) : (s.mapMe f).tileMsgs = s.tileMsgs := rfl
@[simp] theorem State.mapMe_nextMsg (f : Core → Core) : (s.mapMe f).nextMsg = s.nextMsg := rfl
@[simp] theorem State.mapMe_freeIx (f : Core → Core) : (s.mapMe f).freeIx = s.freeIx := rfl
@[simp] theorem State.mapMe_mcasts (f : Core → Core) : (s.mapMe f).mcasts = s.mcasts := rfl
@[simp] theorem State.mapMe_journal (f : Core → Core) : (s.mapMe f).journal = s.journal := rfl
@[simp] theorem State.mapMe_lastTaker (f : Core → Core) : (s.mapMe f).lastTaker = s.lastTaker := rfl
@[simp] theorem State.mapMe_paddocks (f : Core → Core) : (s.mapMe f).paddocks = s.paddocks := rfl
@[simp] theorem State.mapMe_dies (f : Core → Core) : (s.mapMe f).dies = s.dies := rfl
@[simp] theorem State.mapMe_hub (f : Core → Core) : (s.mapMe f).hub = s.hub := rfl
@[simp] theorem State.mapMe_mgmt (f : Core → Core) : (s.mapMe f).mgmt = s.mgmt := rfl

/-! ## State.mapSeq -/

@[simp] theorem State.mapSeq_chip (f : Seq → Seq) : (s.mapSeq f).chip = s.chip := rfl
@[simp] theorem State.mapSeq_clk (f : Seq → Seq) : (s.mapSeq f).clk = s.clk := rfl
@[simp] theorem State.mapSeq_inClk (f : Seq → Seq) : (s.mapSeq f).inClk = s.inClk := rfl
@[simp] theorem State.mapSeq_sched (f : Seq → Seq) : (s.mapSeq f).sched = s.sched := rfl
@[simp] theorem State.mapSeq_cur (f : Seq → Seq) : (s.mapSeq f).cur = s.cur := rfl
@[simp] theorem State.mapSeq_me (f : Seq → Seq) : (s.mapSeq f).me = { s.me with seq := f s.me.seq } := rfl
@[simp] theorem State.mapSeq_others (f : Seq → Seq) : (s.mapSeq f).others = s.others := rfl
@[simp] theorem State.mapSeq_mem (f : Seq → Seq) : (s.mapSeq f).mem = s.mem := rfl
@[simp] theorem State.mapSeq_encBy (f : Seq → Seq) : (s.mapSeq f).encBy = s.encBy := rfl
@[simp] theorem State.mapSeq_fullBits (f : Seq → Seq) : (s.mapSeq f).fullBits = s.fullBits := rfl
@[simp] theorem State.mapSeq_badWords (f : Seq → Seq) : (s.mapSeq f).badWords = s.badWords := rfl
@[simp] theorem State.mapSeq_shadows (f : Seq → Seq) : (s.mapSeq f).shadows = s.shadows := rfl
@[simp] theorem State.mapSeq_nextShadow (f : Seq → Seq) : (s.mapSeq f).nextShadow = s.nextShadow := rfl
@[simp] theorem State.mapSeq_tileMsgs (f : Seq → Seq) : (s.mapSeq f).tileMsgs = s.tileMsgs := rfl
@[simp] theorem State.mapSeq_nextMsg (f : Seq → Seq) : (s.mapSeq f).nextMsg = s.nextMsg := rfl
@[simp] theorem State.mapSeq_freeIx (f : Seq → Seq) : (s.mapSeq f).freeIx = s.freeIx := rfl
@[simp] theorem State.mapSeq_mcasts (f : Seq → Seq) : (s.mapSeq f).mcasts = s.mcasts := rfl
@[simp] theorem State.mapSeq_journal (f : Seq → Seq) : (s.mapSeq f).journal = s.journal := rfl
@[simp] theorem State.mapSeq_lastTaker (f : Seq → Seq) : (s.mapSeq f).lastTaker = s.lastTaker := rfl
@[simp] theorem State.mapSeq_paddocks (f : Seq → Seq) : (s.mapSeq f).paddocks = s.paddocks := rfl
@[simp] theorem State.mapSeq_dies (f : Seq → Seq) : (s.mapSeq f).dies = s.dies := rfl
@[simp] theorem State.mapSeq_hub (f : Seq → Seq) : (s.mapSeq f).hub = s.hub := rfl
@[simp] theorem State.mapSeq_mgmt (f : Seq → Seq) : (s.mapSeq f).mgmt = s.mgmt := rfl

/-! ## State.mapPipe -/

@[simp] theorem State.mapPipe_chip (f : Pipe → Pipe) : (s.mapPipe f).chip = s.chip := rfl
@[simp] theorem State.mapPipe_clk (f : Pipe → Pipe) : (s.mapPipe f).clk = s.clk := rfl
@[simp] theorem State.mapPipe_inClk (f : Pipe → Pipe) : (s.mapPipe f).inClk = s.inClk := rfl
@[simp] theorem State.mapPipe_sched (f : Pipe → Pipe) : (s.mapPipe f).sched = s.sched := rfl
@[simp] theorem State.mapPipe_cur (f : Pipe → Pipe) : (s.mapPipe f).cur = s.cur := rfl
@[simp] theorem State.mapPipe_me (f : Pipe → Pipe) : (s.mapPipe f).me = { s.me with pipe := f s.me.pipe } := rfl
@[simp] theorem State.mapPipe_others (f : Pipe → Pipe) : (s.mapPipe f).others = s.others := rfl
@[simp] theorem State.mapPipe_mem (f : Pipe → Pipe) : (s.mapPipe f).mem = s.mem := rfl
@[simp] theorem State.mapPipe_encBy (f : Pipe → Pipe) : (s.mapPipe f).encBy = s.encBy := rfl
@[simp] theorem State.mapPipe_fullBits (f : Pipe → Pipe) : (s.mapPipe f).fullBits = s.fullBits := rfl
@[simp] theorem State.mapPipe_badWords (f : Pipe → Pipe) : (s.mapPipe f).badWords = s.badWords := rfl
@[simp] theorem State.mapPipe_shadows (f : Pipe → Pipe) : (s.mapPipe f).shadows = s.shadows := rfl
@[simp] theorem State.mapPipe_nextShadow (f : Pipe → Pipe) : (s.mapPipe f).nextShadow = s.nextShadow := rfl
@[simp] theorem State.mapPipe_tileMsgs (f : Pipe → Pipe) : (s.mapPipe f).tileMsgs = s.tileMsgs := rfl
@[simp] theorem State.mapPipe_nextMsg (f : Pipe → Pipe) : (s.mapPipe f).nextMsg = s.nextMsg := rfl
@[simp] theorem State.mapPipe_freeIx (f : Pipe → Pipe) : (s.mapPipe f).freeIx = s.freeIx := rfl
@[simp] theorem State.mapPipe_mcasts (f : Pipe → Pipe) : (s.mapPipe f).mcasts = s.mcasts := rfl
@[simp] theorem State.mapPipe_journal (f : Pipe → Pipe) : (s.mapPipe f).journal = s.journal := rfl
@[simp] theorem State.mapPipe_lastTaker (f : Pipe → Pipe) : (s.mapPipe f).lastTaker = s.lastTaker := rfl
@[simp] theorem State.mapPipe_paddocks (f : Pipe → Pipe) : (s.mapPipe f).paddocks = s.paddocks := rfl
@[simp] theorem State.mapPipe_dies (f : Pipe → Pipe) : (s.mapPipe f).dies = s.dies := rfl
@[simp] theorem State.mapPipe_hub (f : Pipe → Pipe) : (s.mapPipe f).hub = s.hub := rfl
@[simp] theorem State.mapPipe_mgmt (f : Pipe → Pipe) : (s.mapPipe f).mgmt = s.mgmt := rfl

/-! ## State.put -/

@[simp] theorem State.put_chip (n : Reg) (v : Word) : (s.put n v).chip = s.chip := rfl
@[simp] theorem State.put_clk (n : Reg) (v : Word) : (s.put n v).clk = s.clk := rfl
@[simp] theorem State.put_inClk (n : Reg) (v : Word) : (s.put n v).inClk = s.inClk := rfl
@[simp] theorem State.put_sched (n : Reg) (v : Word) : (s.put n v).sched = s.sched := rfl
@[simp] theorem State.put_cur (n : Reg) (v : Word) : (s.put n v).cur = s.cur := rfl
@[simp] theorem State.put_me (n : Reg) (v : Word) : (s.put n v).me = { s.me with seq := s.me.seq.put n v } := rfl
@[simp] theorem State.put_others (n : Reg) (v : Word) : (s.put n v).others = s.others := rfl
@[simp] theorem State.put_mem (n : Reg) (v : Word) : (s.put n v).mem = s.mem := rfl
@[simp] theorem State.put_encBy (n : Reg) (v : Word) : (s.put n v).encBy = s.encBy := rfl
@[simp] theorem State.put_fullBits (n : Reg) (v : Word) : (s.put n v).fullBits = s.fullBits := rfl
@[simp] theorem State.put_badWords (n : Reg) (v : Word) : (s.put n v).badWords = s.badWords := rfl
@[simp] theorem State.put_shadows (n : Reg) (v : Word) : (s.put n v).shadows = s.shadows := rfl
@[simp] theorem State.put_nextShadow (n : Reg) (v : Word) : (s.put n v).nextShadow = s.nextShadow := rfl
@[simp] theorem State.put_tileMsgs (n : Reg) (v : Word) : (s.put n v).tileMsgs = s.tileMsgs := rfl
@[simp] theorem State.put_nextMsg (n : Reg) (v : Word) : (s.put n v).nextMsg = s.nextMsg := rfl
@[simp] theorem State.put_freeIx (n : Reg) (v : Word) : (s.put n v).freeIx = s.freeIx := rfl
@[simp] theorem State.put_mcasts (n : Reg) (v : Word) : (s.put n v).mcasts = s.mcasts := rfl
@[simp] theorem State.put_journal (n : Reg) (v : Word) : (s.put n v).journal = s.journal := rfl
@[simp] theorem State.put_lastTaker (n : Reg) (v : Word) : (s.put n v).lastTaker = s.lastTaker := rfl
@[simp] theorem State.put_paddocks (n : Reg) (v : Word) : (s.put n v).paddocks = s.paddocks := rfl
@[simp] theorem State.put_dies (n : Reg) (v : Word) : (s.put n v).dies = s.dies := rfl
@[simp] theorem State.put_hub (n : Reg) (v : Word) : (s.put n v).hub = s.hub := rfl
@[simp] theorem State.put_mgmt (n : Reg) (v : Word) : (s.put n v).mgmt = s.mgmt := rfl

/-! ## State.setEmpty -/

@[simp] theorem State.setEmpty_chip (n : Reg) : (s.setEmpty n).chip = s.chip := rfl
@[simp] theorem State.setEmpty_clk (n : Reg) : (s.setEmpty n).clk = s.clk := rfl
@[simp] theorem State.setEmpty_inClk (n : Reg) : (s.setEmpty n).inClk = s.inClk := rfl
@[simp] theorem State.setEmpty_sched (n : Reg) : (s.setEmpty n).sched = s.sched := rfl
@[simp] theorem State.setEmpty_cur (n : Reg) : (s.setEmpty n).cur = s.cur := rfl
@[simp] theorem State.setEmpty_me (n : Reg) : (s.setEmpty n).me = { s.me with seq := s.me.seq.setEmpty n } := rfl
@[simp] theorem State.setEmpty_others (n : Reg) : (s.setEmpty n).others = s.others := rfl
@[simp] theorem State.setEmpty_mem (n : Reg) : (s.setEmpty n).mem = s.mem := rfl
@[simp] theorem State.setEmpty_encBy (n : Reg) : (s.setEmpty n).encBy = s.encBy := rfl
@[simp] theorem State.setEmpty_fullBits (n : Reg) : (s.setEmpty n).fullBits = s.fullBits := rfl
@[simp] theorem State.setEmpty_badWords (n : Reg) : (s.setEmpty n).badWords = s.badWords := rfl
@[simp] theorem State.setEmpty_shadows (n : Reg) : (s.setEmpty n).shadows = s.shadows := rfl
@[simp] theorem State.setEmpty_nextShadow (n : Reg) : (s.setEmpty n).nextShadow = s.nextShadow := rfl
@[simp] theorem State.setEmpty_tileMsgs (n : Reg) : (s.setEmpty n).tileMsgs = s.tileMsgs := rfl
@[simp] theorem State.setEmpty_nextMsg (n : Reg) : (s.setEmpty n).nextMsg = s.nextMsg := rfl
@[simp] theorem State.setEmpty_freeIx (n : Reg) : (s.setEmpty n).freeIx = s.freeIx := rfl
@[simp] theorem State.setEmpty_mcasts (n : Reg) : (s.setEmpty n).mcasts = s.mcasts := rfl
@[simp] theorem State.setEmpty_journal (n : Reg) : (s.setEmpty n).journal = s.journal := rfl
@[simp] theorem State.setEmpty_lastTaker (n : Reg) : (s.setEmpty n).lastTaker = s.lastTaker := rfl
@[simp] theorem State.setEmpty_paddocks (n : Reg) : (s.setEmpty n).paddocks = s.paddocks := rfl
@[simp] theorem State.setEmpty_dies (n : Reg) : (s.setEmpty n).dies = s.dies := rfl
@[simp] theorem State.setEmpty_hub (n : Reg) : (s.setEmpty n).hub = s.hub := rfl
@[simp] theorem State.setEmpty_mgmt (n : Reg) : (s.setEmpty n).mgmt = s.mgmt := rfl

/-! ## State.advance -/

@[simp] theorem State.advance_chip : (s.advance).chip = s.chip := rfl
@[simp] theorem State.advance_clk : (s.advance).clk = s.clk := rfl
@[simp] theorem State.advance_inClk : (s.advance).inClk = s.inClk := rfl
@[simp] theorem State.advance_sched : (s.advance).sched = s.sched := rfl
@[simp] theorem State.advance_cur : (s.advance).cur = s.cur := rfl
@[simp] theorem State.advance_me : (s.advance).me = { s.me.unblock s.clk with seq := s.me.seq.advance } := rfl
@[simp] theorem State.advance_others : (s.advance).others = s.others := rfl
@[simp] theorem State.advance_mem : (s.advance).mem = s.mem := rfl
@[simp] theorem State.advance_encBy : (s.advance).encBy = s.encBy := rfl
@[simp] theorem State.advance_fullBits : (s.advance).fullBits = s.fullBits := rfl
@[simp] theorem State.advance_badWords : (s.advance).badWords = s.badWords := rfl
@[simp] theorem State.advance_shadows : (s.advance).shadows = s.shadows := rfl
@[simp] theorem State.advance_nextShadow : (s.advance).nextShadow = s.nextShadow := rfl
@[simp] theorem State.advance_tileMsgs : (s.advance).tileMsgs = s.tileMsgs := rfl
@[simp] theorem State.advance_nextMsg : (s.advance).nextMsg = s.nextMsg := rfl
@[simp] theorem State.advance_freeIx : (s.advance).freeIx = s.freeIx := rfl
@[simp] theorem State.advance_mcasts : (s.advance).mcasts = s.mcasts := rfl
@[simp] theorem State.advance_journal : (s.advance).journal = s.journal := rfl
@[simp] theorem State.advance_lastTaker : (s.advance).lastTaker = s.lastTaker := rfl
@[simp] theorem State.advance_paddocks : (s.advance).paddocks = s.paddocks := rfl
@[simp] theorem State.advance_dies : (s.advance).dies = s.dies := rfl
@[simp] theorem State.advance_hub : (s.advance).hub = s.hub := rfl
@[simp] theorem State.advance_mgmt : (s.advance).mgmt = s.mgmt := rfl

/-! ## State.jump -/

@[simp] theorem State.jump_chip (t : Word) (b : Bool) : (s.jump t b).chip = s.chip := rfl
@[simp] theorem State.jump_clk (t : Word) (b : Bool) : (s.jump t b).clk = s.clk := rfl
@[simp] theorem State.jump_inClk (t : Word) (b : Bool) : (s.jump t b).inClk = s.inClk := rfl
@[simp] theorem State.jump_sched (t : Word) (b : Bool) : (s.jump t b).sched = s.sched := rfl
@[simp] theorem State.jump_cur (t : Word) (b : Bool) : (s.jump t b).cur = s.cur := rfl
@[simp] theorem State.jump_others (t : Word) (b : Bool) : (s.jump t b).others = s.others := rfl
@[simp] theorem State.jump_mem (t : Word) (b : Bool) : (s.jump t b).mem = s.mem := rfl
@[simp] theorem State.jump_encBy (t : Word) (b : Bool) : (s.jump t b).encBy = s.encBy := rfl
@[simp] theorem State.jump_fullBits (t : Word) (b : Bool) : (s.jump t b).fullBits = s.fullBits := rfl
@[simp] theorem State.jump_badWords (t : Word) (b : Bool) : (s.jump t b).badWords = s.badWords := rfl
@[simp] theorem State.jump_shadows (t : Word) (b : Bool) : (s.jump t b).shadows = s.shadows := rfl
@[simp] theorem State.jump_nextShadow (t : Word) (b : Bool) : (s.jump t b).nextShadow = s.nextShadow := rfl
@[simp] theorem State.jump_tileMsgs (t : Word) (b : Bool) : (s.jump t b).tileMsgs = s.tileMsgs := rfl
@[simp] theorem State.jump_nextMsg (t : Word) (b : Bool) : (s.jump t b).nextMsg = s.nextMsg := rfl
@[simp] theorem State.jump_freeIx (t : Word) (b : Bool) : (s.jump t b).freeIx = s.freeIx := rfl
@[simp] theorem State.jump_mcasts (t : Word) (b : Bool) : (s.jump t b).mcasts = s.mcasts := rfl
@[simp] theorem State.jump_journal (t : Word) (b : Bool) : (s.jump t b).journal = s.journal := rfl
@[simp] theorem State.jump_lastTaker (t : Word) (b : Bool) : (s.jump t b).lastTaker = s.lastTaker := rfl
@[simp] theorem State.jump_paddocks (t : Word) (b : Bool) : (s.jump t b).paddocks = s.paddocks := rfl
@[simp] theorem State.jump_dies (t : Word) (b : Bool) : (s.jump t b).dies = s.dies := rfl
@[simp] theorem State.jump_hub (t : Word) (b : Bool) : (s.jump t b).hub = s.hub := rfl
@[simp] theorem State.jump_mgmt (t : Word) (b : Bool) : (s.jump t b).mgmt = s.mgmt := rfl

/-! ## State.drew -/

@[simp] theorem State.drew_chip : (s.drew).chip = s.chip := rfl
@[simp] theorem State.drew_clk : (s.drew).clk = s.clk := rfl
@[simp] theorem State.drew_inClk : (s.drew).inClk = s.inClk := rfl
@[simp] theorem State.drew_sched : (s.drew).sched = s.sched := rfl
@[simp] theorem State.drew_cur : (s.drew).cur = s.cur := rfl
@[simp] theorem State.drew_me : (s.drew).me = s.me := rfl
@[simp] theorem State.drew_others : (s.drew).others = s.others := rfl
@[simp] theorem State.drew_mem : (s.drew).mem = s.mem := rfl
@[simp] theorem State.drew_encBy : (s.drew).encBy = s.encBy := rfl
@[simp] theorem State.drew_fullBits : (s.drew).fullBits = s.fullBits := rfl
@[simp] theorem State.drew_badWords : (s.drew).badWords = s.badWords := rfl
@[simp] theorem State.drew_shadows : (s.drew).shadows = s.shadows := rfl
@[simp] theorem State.drew_nextShadow : (s.drew).nextShadow = s.nextShadow := rfl
@[simp] theorem State.drew_tileMsgs : (s.drew).tileMsgs = s.tileMsgs := rfl
@[simp] theorem State.drew_nextMsg : (s.drew).nextMsg = s.nextMsg := rfl
@[simp] theorem State.drew_freeIx : (s.drew).freeIx = s.freeIx + 1 := rfl
@[simp] theorem State.drew_mcasts : (s.drew).mcasts = s.mcasts := rfl
@[simp] theorem State.drew_journal : (s.drew).journal = s.journal := rfl
@[simp] theorem State.drew_lastTaker : (s.drew).lastTaker = s.lastTaker := rfl
@[simp] theorem State.drew_paddocks : (s.drew).paddocks = s.paddocks := rfl
@[simp] theorem State.drew_dies : (s.drew).dies = s.dies := rfl
@[simp] theorem State.drew_hub : (s.drew).hub = s.hub := rfl
@[simp] theorem State.drew_mgmt : (s.drew).mgmt = s.mgmt := rfl

/-! ## State.modPaddock -/

@[simp] theorem State.modPaddock_chip (n : PdkNum) (f : Paddock → Paddock) : (s.modPaddock n f).chip = s.chip := rfl
@[simp] theorem State.modPaddock_clk (n : PdkNum) (f : Paddock → Paddock) : (s.modPaddock n f).clk = s.clk := rfl
@[simp] theorem State.modPaddock_inClk (n : PdkNum) (f : Paddock → Paddock) : (s.modPaddock n f).inClk = s.inClk := rfl
@[simp] theorem State.modPaddock_sched (n : PdkNum) (f : Paddock → Paddock) : (s.modPaddock n f).sched = s.sched := rfl
@[simp] theorem State.modPaddock_cur (n : PdkNum) (f : Paddock → Paddock) : (s.modPaddock n f).cur = s.cur := rfl
@[simp] theorem State.modPaddock_me (n : PdkNum) (f : Paddock → Paddock) : (s.modPaddock n f).me = s.me := rfl
@[simp] theorem State.modPaddock_others (n : PdkNum) (f : Paddock → Paddock) : (s.modPaddock n f).others = s.others := rfl
@[simp] theorem State.modPaddock_mem (n : PdkNum) (f : Paddock → Paddock) : (s.modPaddock n f).mem = s.mem := rfl
@[simp] theorem State.modPaddock_encBy (n : PdkNum) (f : Paddock → Paddock) : (s.modPaddock n f).encBy = s.encBy := rfl
@[simp] theorem State.modPaddock_fullBits (n : PdkNum) (f : Paddock → Paddock) : (s.modPaddock n f).fullBits = s.fullBits := rfl
@[simp] theorem State.modPaddock_badWords (n : PdkNum) (f : Paddock → Paddock) : (s.modPaddock n f).badWords = s.badWords := rfl
@[simp] theorem State.modPaddock_shadows (n : PdkNum) (f : Paddock → Paddock) : (s.modPaddock n f).shadows = s.shadows := rfl
@[simp] theorem State.modPaddock_nextShadow (n : PdkNum) (f : Paddock → Paddock) : (s.modPaddock n f).nextShadow = s.nextShadow := rfl
@[simp] theorem State.modPaddock_tileMsgs (n : PdkNum) (f : Paddock → Paddock) : (s.modPaddock n f).tileMsgs = s.tileMsgs := rfl
@[simp] theorem State.modPaddock_nextMsg (n : PdkNum) (f : Paddock → Paddock) : (s.modPaddock n f).nextMsg = s.nextMsg := rfl
@[simp] theorem State.modPaddock_freeIx (n : PdkNum) (f : Paddock → Paddock) : (s.modPaddock n f).freeIx = s.freeIx := rfl
@[simp] theorem State.modPaddock_mcasts (n : PdkNum) (f : Paddock → Paddock) : (s.modPaddock n f).mcasts = s.mcasts := rfl
@[simp] theorem State.modPaddock_journal (n : PdkNum) (f : Paddock → Paddock) : (s.modPaddock n f).journal = s.journal := rfl
@[simp] theorem State.modPaddock_lastTaker (n : PdkNum) (f : Paddock → Paddock) : (s.modPaddock n f).lastTaker = s.lastTaker := rfl
@[simp] theorem State.modPaddock_paddocks (n : PdkNum) (f : Paddock → Paddock) : (s.modPaddock n f).paddocks = s.paddocks.map fun p => if p.num = n then f p else p := rfl
@[simp] theorem State.modPaddock_dies (n : PdkNum) (f : Paddock → Paddock) : (s.modPaddock n f).dies = s.dies := rfl
@[simp] theorem State.modPaddock_hub (n : PdkNum) (f : Paddock → Paddock) : (s.modPaddock n f).hub = s.hub := rfl
@[simp] theorem State.modPaddock_mgmt (n : PdkNum) (f : Paddock → Paddock) : (s.modPaddock n f).mgmt = s.mgmt := rfl

/-! ## State.modDie -/

@[simp] theorem State.modDie_chip (d : DieNum) (f : Die → Die) : (s.modDie d f).chip = s.chip := rfl
@[simp] theorem State.modDie_clk (d : DieNum) (f : Die → Die) : (s.modDie d f).clk = s.clk := rfl
@[simp] theorem State.modDie_inClk (d : DieNum) (f : Die → Die) : (s.modDie d f).inClk = s.inClk := rfl
@[simp] theorem State.modDie_sched (d : DieNum) (f : Die → Die) : (s.modDie d f).sched = s.sched := rfl
@[simp] theorem State.modDie_cur (d : DieNum) (f : Die → Die) : (s.modDie d f).cur = s.cur := rfl
@[simp] theorem State.modDie_me (d : DieNum) (f : Die → Die) : (s.modDie d f).me = s.me := rfl
@[simp] theorem State.modDie_others (d : DieNum) (f : Die → Die) : (s.modDie d f).others = s.others := rfl
@[simp] theorem State.modDie_mem (d : DieNum) (f : Die → Die) : (s.modDie d f).mem = s.mem := rfl
@[simp] theorem State.modDie_encBy (d : DieNum) (f : Die → Die) : (s.modDie d f).encBy = s.encBy := rfl
@[simp] theorem State.modDie_fullBits (d : DieNum) (f : Die → Die) : (s.modDie d f).fullBits = s.fullBits := rfl
@[simp] theorem State.modDie_badWords (d : DieNum) (f : Die → Die) : (s.modDie d f).badWords = s.badWords := rfl
@[simp] theorem State.modDie_shadows (d : DieNum) (f : Die → Die) : (s.modDie d f).shadows = s.shadows := rfl
@[simp] theorem State.modDie_nextShadow (d : DieNum) (f : Die → Die) : (s.modDie d f).nextShadow = s.nextShadow := rfl
@[simp] theorem State.modDie_tileMsgs (d : DieNum) (f : Die → Die) : (s.modDie d f).tileMsgs = s.tileMsgs := rfl
@[simp] theorem State.modDie_nextMsg (d : DieNum) (f : Die → Die) : (s.modDie d f).nextMsg = s.nextMsg := rfl
@[simp] theorem State.modDie_freeIx (d : DieNum) (f : Die → Die) : (s.modDie d f).freeIx = s.freeIx := rfl
@[simp] theorem State.modDie_mcasts (d : DieNum) (f : Die → Die) : (s.modDie d f).mcasts = s.mcasts := rfl
@[simp] theorem State.modDie_journal (d : DieNum) (f : Die → Die) : (s.modDie d f).journal = s.journal := rfl
@[simp] theorem State.modDie_lastTaker (d : DieNum) (f : Die → Die) : (s.modDie d f).lastTaker = s.lastTaker := rfl
@[simp] theorem State.modDie_paddocks (d : DieNum) (f : Die → Die) : (s.modDie d f).paddocks = s.paddocks := rfl
@[simp] theorem State.modDie_dies (d : DieNum) (f : Die → Die) : (s.modDie d f).dies = updAt s.dies d.toNat f := rfl
@[simp] theorem State.modDie_hub (d : DieNum) (f : Die → Die) : (s.modDie d f).hub = s.hub := rfl
@[simp] theorem State.modDie_mgmt (d : DieNum) (f : Die → Die) : (s.modDie d f).mgmt = s.mgmt := rfl

/-! ## State.writePhys -/

@[simp] theorem State.writePhys_chip (k : Option (BitVec 512)) (a : Nat) (b : Byte) : (s.writePhys k a b).chip = s.chip := rfl
@[simp] theorem State.writePhys_clk (k : Option (BitVec 512)) (a : Nat) (b : Byte) : (s.writePhys k a b).clk = s.clk := rfl
@[simp] theorem State.writePhys_inClk (k : Option (BitVec 512)) (a : Nat) (b : Byte) : (s.writePhys k a b).inClk = s.inClk := rfl
@[simp] theorem State.writePhys_sched (k : Option (BitVec 512)) (a : Nat) (b : Byte) : (s.writePhys k a b).sched = s.sched := rfl
@[simp] theorem State.writePhys_cur (k : Option (BitVec 512)) (a : Nat) (b : Byte) : (s.writePhys k a b).cur = s.cur := rfl
@[simp] theorem State.writePhys_me (k : Option (BitVec 512)) (a : Nat) (b : Byte) : (s.writePhys k a b).me = s.me := rfl
@[simp] theorem State.writePhys_others (k : Option (BitVec 512)) (a : Nat) (b : Byte) : (s.writePhys k a b).others = s.others := rfl
@[simp] theorem State.writePhys_mem (k : Option (BitVec 512)) (a : Nat) (b : Byte) : (s.writePhys k a b).mem = Memory.write s.mem a b := rfl
@[simp] theorem State.writePhys_fullBits (k : Option (BitVec 512)) (a : Nat) (b : Byte) : (s.writePhys k a b).fullBits = s.fullBits := rfl
@[simp] theorem State.writePhys_badWords (k : Option (BitVec 512)) (a : Nat) (b : Byte) : (s.writePhys k a b).badWords = s.badWords := rfl
@[simp] theorem State.writePhys_shadows (k : Option (BitVec 512)) (a : Nat) (b : Byte) : (s.writePhys k a b).shadows = s.shadows := rfl
@[simp] theorem State.writePhys_nextShadow (k : Option (BitVec 512)) (a : Nat) (b : Byte) : (s.writePhys k a b).nextShadow = s.nextShadow := rfl
@[simp] theorem State.writePhys_tileMsgs (k : Option (BitVec 512)) (a : Nat) (b : Byte) : (s.writePhys k a b).tileMsgs = s.tileMsgs := rfl
@[simp] theorem State.writePhys_nextMsg (k : Option (BitVec 512)) (a : Nat) (b : Byte) : (s.writePhys k a b).nextMsg = s.nextMsg := rfl
@[simp] theorem State.writePhys_freeIx (k : Option (BitVec 512)) (a : Nat) (b : Byte) : (s.writePhys k a b).freeIx = s.freeIx := rfl
@[simp] theorem State.writePhys_mcasts (k : Option (BitVec 512)) (a : Nat) (b : Byte) : (s.writePhys k a b).mcasts = s.mcasts := rfl
@[simp] theorem State.writePhys_journal (k : Option (BitVec 512)) (a : Nat) (b : Byte) : (s.writePhys k a b).journal = s.journal := rfl
@[simp] theorem State.writePhys_lastTaker (k : Option (BitVec 512)) (a : Nat) (b : Byte) : (s.writePhys k a b).lastTaker = s.lastTaker := rfl
@[simp] theorem State.writePhys_paddocks (k : Option (BitVec 512)) (a : Nat) (b : Byte) : (s.writePhys k a b).paddocks = s.paddocks := rfl
@[simp] theorem State.writePhys_dies (k : Option (BitVec 512)) (a : Nat) (b : Byte) : (s.writePhys k a b).dies = s.dies := rfl
@[simp] theorem State.writePhys_hub (k : Option (BitVec 512)) (a : Nat) (b : Byte) : (s.writePhys k a b).hub = s.hub := rfl
@[simp] theorem State.writePhys_mgmt (k : Option (BitVec 512)) (a : Nat) (b : Byte) : (s.writePhys k a b).mgmt = s.mgmt := rfl

/-! ## State.setFullBit -/

@[simp] theorem State.setFullBit_chip (a : Nat) (v : Bool) : (s.setFullBit a v).chip = s.chip := rfl
@[simp] theorem State.setFullBit_clk (a : Nat) (v : Bool) : (s.setFullBit a v).clk = s.clk := rfl
@[simp] theorem State.setFullBit_inClk (a : Nat) (v : Bool) : (s.setFullBit a v).inClk = s.inClk := rfl
@[simp] theorem State.setFullBit_sched (a : Nat) (v : Bool) : (s.setFullBit a v).sched = s.sched := rfl
@[simp] theorem State.setFullBit_cur (a : Nat) (v : Bool) : (s.setFullBit a v).cur = s.cur := rfl
@[simp] theorem State.setFullBit_me (a : Nat) (v : Bool) : (s.setFullBit a v).me = s.me := rfl
@[simp] theorem State.setFullBit_others (a : Nat) (v : Bool) : (s.setFullBit a v).others = s.others := rfl
@[simp] theorem State.setFullBit_mem (a : Nat) (v : Bool) : (s.setFullBit a v).mem = s.mem := rfl
@[simp] theorem State.setFullBit_encBy (a : Nat) (v : Bool) : (s.setFullBit a v).encBy = s.encBy := rfl
@[simp] theorem State.setFullBit_fullBits (a : Nat) (v : Bool) : (s.setFullBit a v).fullBits = if v then insertNat s.fullBits a else s.fullBits.filter (· != a) := rfl
@[simp] theorem State.setFullBit_shadows (a : Nat) (v : Bool) : (s.setFullBit a v).shadows = s.shadows := rfl
@[simp] theorem State.setFullBit_nextShadow (a : Nat) (v : Bool) : (s.setFullBit a v).nextShadow = s.nextShadow := rfl
@[simp] theorem State.setFullBit_tileMsgs (a : Nat) (v : Bool) : (s.setFullBit a v).tileMsgs = s.tileMsgs := rfl
@[simp] theorem State.setFullBit_nextMsg (a : Nat) (v : Bool) : (s.setFullBit a v).nextMsg = s.nextMsg := rfl
@[simp] theorem State.setFullBit_freeIx (a : Nat) (v : Bool) : (s.setFullBit a v).freeIx = s.freeIx := rfl
@[simp] theorem State.setFullBit_mcasts (a : Nat) (v : Bool) : (s.setFullBit a v).mcasts = s.mcasts := rfl
@[simp] theorem State.setFullBit_journal (a : Nat) (v : Bool) : (s.setFullBit a v).journal = s.journal := rfl
@[simp] theorem State.setFullBit_lastTaker (a : Nat) (v : Bool) : (s.setFullBit a v).lastTaker = s.lastTaker := rfl
@[simp] theorem State.setFullBit_paddocks (a : Nat) (v : Bool) : (s.setFullBit a v).paddocks = s.paddocks := rfl
@[simp] theorem State.setFullBit_dies (a : Nat) (v : Bool) : (s.setFullBit a v).dies = s.dies := rfl
@[simp] theorem State.setFullBit_hub (a : Nat) (v : Bool) : (s.setFullBit a v).hub = s.hub := rfl
@[simp] theorem State.setFullBit_mgmt (a : Nat) (v : Bool) : (s.setFullBit a v).mgmt = s.mgmt := rfl

/-! ## State.addConsume -/

@[simp] theorem State.addConsume_chip (x : Consume) : (s.addConsume x).chip = s.chip := rfl
@[simp] theorem State.addConsume_clk (x : Consume) : (s.addConsume x).clk = s.clk := rfl
@[simp] theorem State.addConsume_inClk (x : Consume) : (s.addConsume x).inClk = s.inClk := rfl
@[simp] theorem State.addConsume_sched (x : Consume) : (s.addConsume x).sched = s.sched := rfl
@[simp] theorem State.addConsume_cur (x : Consume) : (s.addConsume x).cur = s.cur := rfl
@[simp] theorem State.addConsume_me (x : Consume) : (s.addConsume x).me = { s.me with consumes := s.me.consumes ++ [x] } := rfl
@[simp] theorem State.addConsume_others (x : Consume) : (s.addConsume x).others = s.others := rfl
@[simp] theorem State.addConsume_mem (x : Consume) : (s.addConsume x).mem = s.mem := rfl
@[simp] theorem State.addConsume_encBy (x : Consume) : (s.addConsume x).encBy = s.encBy := rfl
@[simp] theorem State.addConsume_fullBits (x : Consume) : (s.addConsume x).fullBits = s.fullBits := rfl
@[simp] theorem State.addConsume_badWords (x : Consume) : (s.addConsume x).badWords = s.badWords := rfl
@[simp] theorem State.addConsume_shadows (x : Consume) : (s.addConsume x).shadows = s.shadows := rfl
@[simp] theorem State.addConsume_nextShadow (x : Consume) : (s.addConsume x).nextShadow = s.nextShadow := rfl
@[simp] theorem State.addConsume_tileMsgs (x : Consume) : (s.addConsume x).tileMsgs = s.tileMsgs := rfl
@[simp] theorem State.addConsume_nextMsg (x : Consume) : (s.addConsume x).nextMsg = s.nextMsg := rfl
@[simp] theorem State.addConsume_freeIx (x : Consume) : (s.addConsume x).freeIx = s.freeIx := rfl
@[simp] theorem State.addConsume_mcasts (x : Consume) : (s.addConsume x).mcasts = s.mcasts := rfl
@[simp] theorem State.addConsume_journal (x : Consume) : (s.addConsume x).journal = s.journal := rfl
@[simp] theorem State.addConsume_lastTaker (x : Consume) : (s.addConsume x).lastTaker = s.lastTaker := rfl
@[simp] theorem State.addConsume_paddocks (x : Consume) : (s.addConsume x).paddocks = s.paddocks := rfl
@[simp] theorem State.addConsume_dies (x : Consume) : (s.addConsume x).dies = s.dies := rfl
@[simp] theorem State.addConsume_hub (x : Consume) : (s.addConsume x).hub = s.hub := rfl
@[simp] theorem State.addConsume_mgmt (x : Consume) : (s.addConsume x).mgmt = s.mgmt := rfl

/-! ## State.addShadow -/

@[simp] theorem State.addShadow_chip (x : Shadow) : (s.addShadow x).chip = s.chip := rfl
@[simp] theorem State.addShadow_clk (x : Shadow) : (s.addShadow x).clk = s.clk := rfl
@[simp] theorem State.addShadow_inClk (x : Shadow) : (s.addShadow x).inClk = s.inClk := rfl
@[simp] theorem State.addShadow_sched (x : Shadow) : (s.addShadow x).sched = s.sched := rfl
@[simp] theorem State.addShadow_cur (x : Shadow) : (s.addShadow x).cur = s.cur := rfl
@[simp] theorem State.addShadow_me (x : Shadow) : (s.addShadow x).me = s.me := rfl
@[simp] theorem State.addShadow_others (x : Shadow) : (s.addShadow x).others = s.others := rfl
@[simp] theorem State.addShadow_mem (x : Shadow) : (s.addShadow x).mem = s.mem := rfl
@[simp] theorem State.addShadow_encBy (x : Shadow) : (s.addShadow x).encBy = s.encBy := rfl
@[simp] theorem State.addShadow_fullBits (x : Shadow) : (s.addShadow x).fullBits = s.fullBits := rfl
@[simp] theorem State.addShadow_badWords (x : Shadow) : (s.addShadow x).badWords = s.badWords := rfl
@[simp] theorem State.addShadow_shadows (x : Shadow) : (s.addShadow x).shadows = s.shadows ++ [{ x with id := s.nextShadow }] := rfl
@[simp] theorem State.addShadow_nextShadow (x : Shadow) : (s.addShadow x).nextShadow = s.nextShadow + 1 := rfl
@[simp] theorem State.addShadow_tileMsgs (x : Shadow) : (s.addShadow x).tileMsgs = s.tileMsgs := rfl
@[simp] theorem State.addShadow_nextMsg (x : Shadow) : (s.addShadow x).nextMsg = s.nextMsg := rfl
@[simp] theorem State.addShadow_freeIx (x : Shadow) : (s.addShadow x).freeIx = s.freeIx := rfl
@[simp] theorem State.addShadow_mcasts (x : Shadow) : (s.addShadow x).mcasts = s.mcasts := rfl
@[simp] theorem State.addShadow_journal (x : Shadow) : (s.addShadow x).journal = s.journal := rfl
@[simp] theorem State.addShadow_lastTaker (x : Shadow) : (s.addShadow x).lastTaker = s.lastTaker := rfl
@[simp] theorem State.addShadow_paddocks (x : Shadow) : (s.addShadow x).paddocks = s.paddocks := rfl
@[simp] theorem State.addShadow_dies (x : Shadow) : (s.addShadow x).dies = s.dies := rfl
@[simp] theorem State.addShadow_hub (x : Shadow) : (s.addShadow x).hub = s.hub := rfl
@[simp] theorem State.addShadow_mgmt (x : Shadow) : (s.addShadow x).mgmt = s.mgmt := rfl

/-! ## State.sendTile -/

@[simp] theorem State.sendTile_chip (k : TileMsgKind) (r h : CoreNum) (w : BitVec 32) (c o : Nat) : (s.sendTile k r h w c o).chip = s.chip := rfl
@[simp] theorem State.sendTile_clk (k : TileMsgKind) (r h : CoreNum) (w : BitVec 32) (c o : Nat) : (s.sendTile k r h w c o).clk = s.clk := rfl
@[simp] theorem State.sendTile_inClk (k : TileMsgKind) (r h : CoreNum) (w : BitVec 32) (c o : Nat) : (s.sendTile k r h w c o).inClk = s.inClk := rfl
@[simp] theorem State.sendTile_sched (k : TileMsgKind) (r h : CoreNum) (w : BitVec 32) (c o : Nat) : (s.sendTile k r h w c o).sched = s.sched := rfl
@[simp] theorem State.sendTile_cur (k : TileMsgKind) (r h : CoreNum) (w : BitVec 32) (c o : Nat) : (s.sendTile k r h w c o).cur = s.cur := rfl
@[simp] theorem State.sendTile_me (k : TileMsgKind) (r h : CoreNum) (w : BitVec 32) (c o : Nat) : (s.sendTile k r h w c o).me = s.me := rfl
@[simp] theorem State.sendTile_others (k : TileMsgKind) (r h : CoreNum) (w : BitVec 32) (c o : Nat) : (s.sendTile k r h w c o).others = s.others := rfl
@[simp] theorem State.sendTile_mem (k : TileMsgKind) (r h : CoreNum) (w : BitVec 32) (c o : Nat) : (s.sendTile k r h w c o).mem = s.mem := rfl
@[simp] theorem State.sendTile_encBy (k : TileMsgKind) (r h : CoreNum) (w : BitVec 32) (c o : Nat) : (s.sendTile k r h w c o).encBy = s.encBy := rfl
@[simp] theorem State.sendTile_fullBits (k : TileMsgKind) (r h : CoreNum) (w : BitVec 32) (c o : Nat) : (s.sendTile k r h w c o).fullBits = s.fullBits := rfl
@[simp] theorem State.sendTile_badWords (k : TileMsgKind) (r h : CoreNum) (w : BitVec 32) (c o : Nat) : (s.sendTile k r h w c o).badWords = s.badWords := rfl
@[simp] theorem State.sendTile_shadows (k : TileMsgKind) (r h : CoreNum) (w : BitVec 32) (c o : Nat) : (s.sendTile k r h w c o).shadows = s.shadows := rfl
@[simp] theorem State.sendTile_nextShadow (k : TileMsgKind) (r h : CoreNum) (w : BitVec 32) (c o : Nat) : (s.sendTile k r h w c o).nextShadow = s.nextShadow := rfl
@[simp] theorem State.sendTile_nextMsg (k : TileMsgKind) (r h : CoreNum) (w : BitVec 32) (c o : Nat) : (s.sendTile k r h w c o).nextMsg = s.nextMsg + 1 := rfl
@[simp] theorem State.sendTile_freeIx (k : TileMsgKind) (r h : CoreNum) (w : BitVec 32) (c o : Nat) : (s.sendTile k r h w c o).freeIx = s.freeIx := rfl
@[simp] theorem State.sendTile_mcasts (k : TileMsgKind) (r h : CoreNum) (w : BitVec 32) (c o : Nat) : (s.sendTile k r h w c o).mcasts = s.mcasts := rfl
@[simp] theorem State.sendTile_journal (k : TileMsgKind) (r h : CoreNum) (w : BitVec 32) (c o : Nat) : (s.sendTile k r h w c o).journal = s.journal := rfl
@[simp] theorem State.sendTile_lastTaker (k : TileMsgKind) (r h : CoreNum) (w : BitVec 32) (c o : Nat) : (s.sendTile k r h w c o).lastTaker = s.lastTaker := rfl
@[simp] theorem State.sendTile_paddocks (k : TileMsgKind) (r h : CoreNum) (w : BitVec 32) (c o : Nat) : (s.sendTile k r h w c o).paddocks = s.paddocks := rfl
@[simp] theorem State.sendTile_dies (k : TileMsgKind) (r h : CoreNum) (w : BitVec 32) (c o : Nat) : (s.sendTile k r h w c o).dies = s.dies := rfl
@[simp] theorem State.sendTile_hub (k : TileMsgKind) (r h : CoreNum) (w : BitVec 32) (c o : Nat) : (s.sendTile k r h w c o).hub = s.hub := rfl
@[simp] theorem State.sendTile_mgmt (k : TileMsgKind) (r h : CoreNum) (w : BitVec 32) (c o : Nat) : (s.sendTile k r h w c o).mgmt = s.mgmt := rfl

/-! ## Values drawn free -/

@[simp] theorem State.anyWord_chip : s.anyWord.2.chip = s.chip := rfl
@[simp] theorem State.anyWord_clk : s.anyWord.2.clk = s.clk := rfl
@[simp] theorem State.anyWord_inClk : s.anyWord.2.inClk = s.inClk := rfl
@[simp] theorem State.anyWord_sched : s.anyWord.2.sched = s.sched := rfl
@[simp] theorem State.anyWord_cur : s.anyWord.2.cur = s.cur := rfl
@[simp] theorem State.anyWord_me : s.anyWord.2.me = s.me := rfl
@[simp] theorem State.anyWord_others : s.anyWord.2.others = s.others := rfl
@[simp] theorem State.anyWord_mem : s.anyWord.2.mem = s.mem := rfl
@[simp] theorem State.anyWord_encBy : s.anyWord.2.encBy = s.encBy := rfl
@[simp] theorem State.anyWord_fullBits : s.anyWord.2.fullBits = s.fullBits := rfl
@[simp] theorem State.anyWord_badWords : s.anyWord.2.badWords = s.badWords := rfl
@[simp] theorem State.anyWord_shadows : s.anyWord.2.shadows = s.shadows := rfl
@[simp] theorem State.anyWord_nextShadow : s.anyWord.2.nextShadow = s.nextShadow := rfl
@[simp] theorem State.anyWord_tileMsgs : s.anyWord.2.tileMsgs = s.tileMsgs := rfl
@[simp] theorem State.anyWord_nextMsg : s.anyWord.2.nextMsg = s.nextMsg := rfl
@[simp] theorem State.anyWord_freeIx : s.anyWord.2.freeIx = s.freeIx + 1 := rfl
@[simp] theorem State.anyWord_mcasts : s.anyWord.2.mcasts = s.mcasts := rfl
@[simp] theorem State.anyWord_journal : s.anyWord.2.journal = s.journal := rfl
@[simp] theorem State.anyWord_lastTaker : s.anyWord.2.lastTaker = s.lastTaker := rfl
@[simp] theorem State.anyWord_paddocks : s.anyWord.2.paddocks = s.paddocks := rfl
@[simp] theorem State.anyWord_dies : s.anyWord.2.dies = s.dies := rfl
@[simp] theorem State.anyWord_hub : s.anyWord.2.hub = s.hub := rfl
@[simp] theorem State.anyWord_mgmt : s.anyWord.2.mgmt = s.mgmt := rfl

/-! ## The focused core as the rest of the device sees it -/

@[simp] theorem State.coreAt_cur : s.coreAt s.cur = s.me := by simp [State.coreAt]
@[simp] theorem State.focus_cur : s.focus s.cur = s := by simp [State.focus]
@[simp] theorem State.onCore_cur (f : State → State) : s.onCore s.cur f = f s := by simp [State.onCore]
@[simp] theorem State.setCore_cur (k : Core) : s.setCore s.cur k = { s with me := k } := by simp [State.setCore]
@[simp] theorem State.modCore_cur (f : Core → Core) : s.modCore s.cur f = s.mapMe f := by simp [State.modCore, State.mapMe]
@[simp] theorem State.loftAt_cur : s.loftAt s.cur = s.me.loft := by simp [State.loftAt]

/-! ## Leaving a wait -/

@[simp] theorem Core.unblock_seq (c : Core) (n : Nat) : (c.unblock n).seq = c.seq := by unfold Core.unblock; split <;> rfl
@[simp] theorem Core.unblock_task (c : Core) (n : Nat) : (c.unblock n).task = c.task := by unfold Core.unblock; split <;> rfl
@[simp] theorem Core.unblock_pipe (c : Core) (n : Nat) : (c.unblock n).pipe = c.pipe := by unfold Core.unblock; split <;> rfl
@[simp] theorem Core.unblock_sleeping (c : Core) (n : Nat) : (c.unblock n).sleeping = c.sleeping := by unfold Core.unblock; split <;> rfl
@[simp] theorem Core.unblock_blockedAt (c : Core) (n : Nat) : (c.unblock n).blockedAt = c.blockedAt := by unfold Core.unblock; split <;> rfl
@[simp] theorem Core.unblock_ibuf (c : Core) (n : Nat) : (c.unblock n).ibuf = c.ibuf := by unfold Core.unblock; split <;> rfl
@[simp] theorem Core.unblock_tlb (c : Core) (n : Nat) : (c.unblock n).tlb = c.tlb := by unfold Core.unblock; split <;> rfl
@[simp] theorem Core.unblock_callers (c : Core) (n : Nat) : (c.unblock n).callers = c.callers := by unfold Core.unblock; split <;> rfl
@[simp] theorem Core.unblock_fabric (c : Core) (n : Nat) : (c.unblock n).fabric = c.fabric := by unfold Core.unblock; split <;> rfl
@[simp] theorem Core.unblock_join (c : Core) (n : Nat) : (c.unblock n).join = c.join := by unfold Core.unblock; split <;> rfl
@[simp] theorem Core.unblock_loft (c : Core) (n : Nat) : (c.unblock n).loft = c.loft := by unfold Core.unblock; split <;> rfl
@[simp] theorem Core.unblock_bte (c : Core) (n : Nat) : (c.unblock n).bte = c.bte := by unfold Core.unblock; split <;> rfl
@[simp] theorem Core.unblock_remote (c : Core) (n : Nat) : (c.unblock n).remote = c.remote := by unfold Core.unblock; split <;> rfl
@[simp] theorem Core.unblock_ostler (c : Core) (n : Nat) : (c.unblock n).ostler = c.ostler := by unfold Core.unblock; split <;> rfl
@[simp] theorem Core.unblock_done (c : Core) (n : Nat) : (c.unblock n).done = c.done := by unfold Core.unblock; split <;> rfl
@[simp] theorem Core.unblock_suspended (c : Core) (n : Nat) : (c.unblock n).suspended = c.suspended := by unfold Core.unblock; split <;> rfl
@[simp] theorem Core.unblock_ranges (c : Core) (n : Nat) : (c.unblock n).ranges = c.ranges := by unfold Core.unblock; split <;> rfl
@[simp] theorem Core.unblock_consumes (c : Core) (n : Nat) : (c.unblock n).consumes = c.consumes := by unfold Core.unblock; split <;> rfl
@[simp] theorem Core.unblock_sensor (c : Core) (n : Nat) : (c.unblock n).sensor = c.sensor := by unfold Core.unblock; split <;> rfl
@[simp] theorem Core.unblock_stopping (c : Core) (n : Nat) : (c.unblock n).stopping = c.stopping := by unfold Core.unblock; split <;> rfl
@[simp] theorem Core.unblock_detached (c : Core) (n : Nat) : (c.unblock n).detached = c.detached := by unfold Core.unblock; split <;> rfl

/-! ## State.resume, State.putDown and State.tick -/

@[simp] theorem State.resume_chip (k : Cmd) : (s.resume k).chip = s.chip := rfl
@[simp] theorem State.resume_clk (k : Cmd) : (s.resume k).clk = s.clk := rfl
@[simp] theorem State.resume_inClk (k : Cmd) : (s.resume k).inClk = s.inClk := rfl
@[simp] theorem State.resume_sched (k : Cmd) : (s.resume k).sched = s.sched := rfl
@[simp] theorem State.resume_cur (k : Cmd) : (s.resume k).cur = s.cur := rfl
@[simp] theorem State.resume_me (k : Cmd) : (s.resume k).me = s.me := rfl
@[simp] theorem State.resume_others (k : Cmd) : (s.resume k).others = s.others := rfl
@[simp] theorem State.resume_mem (k : Cmd) : (s.resume k).mem = s.mem := rfl
@[simp] theorem State.resume_encBy (k : Cmd) : (s.resume k).encBy = s.encBy := rfl
@[simp] theorem State.resume_fullBits (k : Cmd) : (s.resume k).fullBits = s.fullBits := rfl
@[simp] theorem State.resume_badWords (k : Cmd) : (s.resume k).badWords = s.badWords := rfl
@[simp] theorem State.resume_shadows (k : Cmd) : (s.resume k).shadows = s.shadows := rfl
@[simp] theorem State.resume_nextShadow (k : Cmd) : (s.resume k).nextShadow = s.nextShadow := rfl
@[simp] theorem State.resume_tileMsgs (k : Cmd) : (s.resume k).tileMsgs = s.tileMsgs := rfl
@[simp] theorem State.resume_nextMsg (k : Cmd) : (s.resume k).nextMsg = s.nextMsg := rfl
@[simp] theorem State.resume_freeIx (k : Cmd) : (s.resume k).freeIx = s.freeIx := rfl
@[simp] theorem State.resume_mcasts (k : Cmd) : (s.resume k).mcasts = s.mcasts := rfl
@[simp] theorem State.resume_journal (k : Cmd) : (s.resume k).journal = { Journal.empty with left := k.trail } := rfl
@[simp] theorem State.resume_lastTaker (k : Cmd) : (s.resume k).lastTaker = s.lastTaker := rfl
@[simp] theorem State.resume_paddocks (k : Cmd) : (s.resume k).paddocks = s.paddocks := rfl
@[simp] theorem State.resume_dies (k : Cmd) : (s.resume k).dies = s.dies := rfl
@[simp] theorem State.resume_hub (k : Cmd) : (s.resume k).hub = s.hub := rfl
@[simp] theorem State.resume_mgmt (k : Cmd) : (s.resume k).mgmt = s.mgmt := rfl

@[simp] theorem State.putDown_chip : s.putDown.chip = s.chip := rfl
@[simp] theorem State.putDown_clk : s.putDown.clk = s.clk := rfl
@[simp] theorem State.putDown_inClk : s.putDown.inClk = s.inClk := rfl
@[simp] theorem State.putDown_sched : s.putDown.sched = s.sched := rfl
@[simp] theorem State.putDown_cur : s.putDown.cur = s.cur := rfl
@[simp] theorem State.putDown_me : s.putDown.me = s.me := rfl
@[simp] theorem State.putDown_others : s.putDown.others = s.others := rfl
@[simp] theorem State.putDown_mem : s.putDown.mem = s.mem := rfl
@[simp] theorem State.putDown_encBy : s.putDown.encBy = s.encBy := rfl
@[simp] theorem State.putDown_fullBits : s.putDown.fullBits = s.fullBits := rfl
@[simp] theorem State.putDown_badWords : s.putDown.badWords = s.badWords := rfl
@[simp] theorem State.putDown_shadows : s.putDown.shadows = s.shadows := rfl
@[simp] theorem State.putDown_nextShadow : s.putDown.nextShadow = s.nextShadow := rfl
@[simp] theorem State.putDown_tileMsgs : s.putDown.tileMsgs = s.tileMsgs := rfl
@[simp] theorem State.putDown_nextMsg : s.putDown.nextMsg = s.nextMsg := rfl
@[simp] theorem State.putDown_freeIx : s.putDown.freeIx = s.freeIx := rfl
@[simp] theorem State.putDown_mcasts : s.putDown.mcasts = s.mcasts := rfl
@[simp] theorem State.putDown_journal : s.putDown.journal = Journal.empty := rfl
@[simp] theorem State.putDown_lastTaker : s.putDown.lastTaker = s.lastTaker := rfl
@[simp] theorem State.putDown_paddocks : s.putDown.paddocks = s.paddocks := rfl
@[simp] theorem State.putDown_dies : s.putDown.dies = s.dies := rfl
@[simp] theorem State.putDown_hub : s.putDown.hub = s.hub := rfl
@[simp] theorem State.putDown_mgmt : s.putDown.mgmt = s.mgmt := rfl

/-- A turn of the same clk moves no time. -/
@[simp] theorem State.tick_zero : s.tick 0 = s := rfl
/-- A turn of a later clk moves time and starts the clk's record of turns anew. -/
theorem State.tick_pos {n : Nat} (h : n ≠ 0) : s.tick n = { s with clk := s.clk + n, inClk := ClkMarks.empty } := if_neg h
@[simp] theorem State.tick_chip (n : Nat) : (s.tick n).chip = s.chip := by unfold State.tick; split <;> rfl
@[simp] theorem State.tick_clk (n : Nat) : (s.tick n).clk = s.clk + n := by
  unfold State.tick; split <;> simp [*]
@[simp] theorem State.tick_sched (n : Nat) : (s.tick n).sched = s.sched := by unfold State.tick; split <;> rfl
@[simp] theorem State.tick_cur (n : Nat) : (s.tick n).cur = s.cur := by unfold State.tick; split <;> rfl
@[simp] theorem State.tick_me (n : Nat) : (s.tick n).me = s.me := by unfold State.tick; split <;> rfl
@[simp] theorem State.tick_others (n : Nat) : (s.tick n).others = s.others := by unfold State.tick; split <;> rfl
@[simp] theorem State.tick_mem (n : Nat) : (s.tick n).mem = s.mem := by unfold State.tick; split <;> rfl
@[simp] theorem State.tick_encBy (n : Nat) : (s.tick n).encBy = s.encBy := by unfold State.tick; split <;> rfl
@[simp] theorem State.tick_fullBits (n : Nat) : (s.tick n).fullBits = s.fullBits := by unfold State.tick; split <;> rfl
@[simp] theorem State.tick_badWords (n : Nat) : (s.tick n).badWords = s.badWords := by unfold State.tick; split <;> rfl
@[simp] theorem State.tick_shadows (n : Nat) : (s.tick n).shadows = s.shadows := by unfold State.tick; split <;> rfl
@[simp] theorem State.tick_nextShadow (n : Nat) : (s.tick n).nextShadow = s.nextShadow := by unfold State.tick; split <;> rfl
@[simp] theorem State.tick_tileMsgs (n : Nat) : (s.tick n).tileMsgs = s.tileMsgs := by unfold State.tick; split <;> rfl
@[simp] theorem State.tick_nextMsg (n : Nat) : (s.tick n).nextMsg = s.nextMsg := by unfold State.tick; split <;> rfl
@[simp] theorem State.tick_freeIx (n : Nat) : (s.tick n).freeIx = s.freeIx := by unfold State.tick; split <;> rfl
@[simp] theorem State.tick_mcasts (n : Nat) : (s.tick n).mcasts = s.mcasts := by unfold State.tick; split <;> rfl
@[simp] theorem State.tick_journal (n : Nat) : (s.tick n).journal = s.journal := by unfold State.tick; split <;> rfl
@[simp] theorem State.tick_lastTaker (n : Nat) : (s.tick n).lastTaker = s.lastTaker := by unfold State.tick; split <;> rfl
@[simp] theorem State.tick_paddocks (n : Nat) : (s.tick n).paddocks = s.paddocks := by unfold State.tick; split <;> rfl
@[simp] theorem State.tick_dies (n : Nat) : (s.tick n).dies = s.dies := by unfold State.tick; split <;> rfl
@[simp] theorem State.tick_hub (n : Nat) : (s.tick n).hub = s.hub := by unfold State.tick; split <;> rfl
@[simp] theorem State.tick_mgmt (n : Nat) : (s.tick n).mgmt = s.mgmt := by unfold State.tick; split <;> rfl

end Sys2Proof.Machine
end

