-- ==== Sys2Proof/Laws/Memory.lean ====
section
/-!
SUPPORT. Laws of the memory: a read after a write, and the canonical form, which every memory operation keeps.
-/
namespace Sys2Proof.Machine
namespace Memory

/-- What a list whose addresses start at `lo` holds below `lo`. -/
theorem read_below {m : List Host.Cell} {lo n : Nat} (h : wfFrom lo m = true) (hn : n < lo) : read m n = empty := by
  cases m with
  | nil => rfl
  | cons c rest =>
    obtain ⟨a, b⟩ := c
    simp only [wfFrom, Bool.and_eq_true, decide_eq_true_eq] at h
    have h1 : a ≠ n := by omega
    have h2 : n < a := by omega
    simp [read, h1, h2]

/-- A lower bound may be lowered. -/
theorem wfFrom_mono {m : List Host.Cell} {lo k : Nat} (hk : k ≤ lo) (h : wfFrom lo m = true) : wfFrom k m = true := by
  cases m with
  | nil => rfl
  | cons c rest =>
    simp only [wfFrom, Bool.and_eq_true, decide_eq_true_eq] at h ⊢
    exact ⟨⟨by omega, h.1.2⟩, h.2⟩

/-- A write at or above the lower bound keeps the canonical form. -/
theorem wfFrom_write {m : List Host.Cell} {lo n : Nat} {v : Byte} (h : wfFrom lo m = true) (hn : lo ≤ n) :
    wfFrom lo (write m n v) = true := by
  induction m generalizing lo with
  | nil => unfold write; split <;> simp_all [wfFrom]
  | cons c rest ih =>
    obtain ⟨a, b⟩ := c
    simp only [wfFrom, Bool.and_eq_true, decide_eq_true_eq, bne_iff_ne] at h
    unfold write
    split
    · split
      · simp [wfFrom, h]
      · simp only [wfFrom, Bool.and_eq_true, decide_eq_true_eq, bne_iff_ne]
        exact ⟨⟨hn, by assumption⟩, ⟨by omega, h.1.2⟩, h.2⟩
    · split
      · split
        · exact wfFrom_mono (by omega) h.2
        · simp only [wfFrom, Bool.and_eq_true, decide_eq_true_eq, bne_iff_ne]
          subst_vars
          exact ⟨⟨h.1.1, by assumption⟩, h.2⟩
      · simp only [wfFrom, Bool.and_eq_true, decide_eq_true_eq, bne_iff_ne]
        exact ⟨h.1, ih h.2 (by omega)⟩

/-- A write keeps the canonical form. -/
theorem wf_write {m : List Host.Cell} {n : Nat} {v : Byte} (h : wf m = true) : wf (write m n v) = true :=
  wfFrom_write h (Nat.zero_le _)

/-- Writes of several bytes keep the canonical form. -/
theorem wf_writeBytes {m : List Host.Cell} {n : Nat} {bs : List Byte} (h : wf m = true) :
    wf (writeBytes m n bs) = true := by
  induction bs generalizing m n with
  | nil => exact h
  | cons b bs ih => exact ih (wf_write h)

/-- Entries taken away leave the canonical form. -/
theorem wfFrom_filter {m : List Host.Cell} {lo : Nat} (p : Host.Cell → Bool) (h : wfFrom lo m = true) :
    wfFrom lo (m.filter p) = true := by
  induction m generalizing lo with
  | nil => rfl
  | cons c rest ih =>
    simp only [wfFrom, Bool.and_eq_true, decide_eq_true_eq] at h
    rw [List.filter_cons]
    split
    · simp only [wfFrom, Bool.and_eq_true, decide_eq_true_eq]
      exact ⟨h.1, ih h.2⟩
    · exact ih (wfFrom_mono (by omega) h.2)

/-- Entries taken away leave the canonical form. -/
theorem wf_filter {m : List Host.Cell} (p : Host.Cell → Bool) (h : wf m = true) : wf (m.filter p) = true :=
  wfFrom_filter p h

/-- Reading a byte that has just been written. -/
theorem read_write_same (m : List Host.Cell) (n : Nat) (v : Byte) {lo : Nat} (h : wfFrom lo m = true) :
    read (write m n v) n = v := by
  induction m generalizing lo with
  | nil => unfold write; split <;> simp_all [read]
  | cons c rest ih =>
    obtain ⟨a, b⟩ := c
    simp only [wfFrom, Bool.and_eq_true, decide_eq_true_eq] at h
    unfold write
    split
    · split
      · simp only [read]
        have : a ≠ n := by omega
        simp_all
      · simp [read]
    · split
      · split
        · subst_vars; rw [read_below h.2 (by omega)]
        · simp [read]
      · have h1 : a ≠ n := by omega
        have h2 : ¬ n < a := by omega
        simp only [read, h1, h2, if_false]
        exact ih h.2

/-- Reading another byte than the one that has just been written. -/
theorem read_write_other (m : List Host.Cell) {n k : Nat} (v : Byte) (hk : k ≠ n) {lo : Nat} (h : wfFrom lo m = true) :
    read (write m n v) k = read m k := by
  induction m generalizing lo with
  | nil =>
    unfold write
    split
    · rfl
    · have : n ≠ k := fun e => hk e.symm
      simp [read, this]
  | cons c rest ih =>
    obtain ⟨a, b⟩ := c
    simp only [wfFrom, Bool.and_eq_true, decide_eq_true_eq] at h
    have hn : n ≠ k := fun e => hk e.symm
    unfold write
    split
    · split
      · rfl
      · by_cases hlt : k < n
        · have h1 : a ≠ k := by omega
          have h2 : k < a := by omega
          simp [read, hn, hlt, h1, h2]
        · simp [read, hn, hlt]
    · split
      · split
        · subst_vars
          by_cases hlt : k < a
          · rw [read_below h.2 (by omega)]
            simp [read, hn, hlt]
          · have : read ((a, b) :: rest) k = read rest k := by simp [read, hn, hlt]
            rw [this]
        · subst_vars
          simp [read, hn]
      · simp only [read]
        rw [ih h.2]

end Memory

/-! ## Keys of bytes -/

/-- A key found under the address at which it was put. -/
@[simp] theorem assocGet_insertAt_same {ν : Type} (l : List (Nat × ν)) (n : Nat) (w : ν) :
    assocGet (insertAt l n w) n = some w := by
  induction l with
  | nil => simp [insertAt, assocGet]
  | cons c rest ih =>
    obtain ⟨a, v⟩ := c
    unfold insertAt
    split
    · simp [assocGet]
    · split
      · subst_vars; simp [assocGet]
      · have : a ≠ n := fun e => by subst e; contradiction
        simp [assocGet, this, ih]

/-- Another address keeps its key. -/
theorem assocGet_insertAt_other {ν : Type} (l : List (Nat × ν)) {n k : Nat} (w : ν) (hk : k ≠ n) :
    assocGet (insertAt l n w) k = assocGet l k := by
  have hn : n ≠ k := fun e => hk e.symm
  induction l with
  | nil => simp [insertAt, assocGet, hn]
  | cons c rest ih =>
    obtain ⟨a, v⟩ := c
    unfold insertAt
    split
    · simp [assocGet, hn]
    · split
      · subst_vars; simp [assocGet, hn]
      · simp [assocGet, ih]

/-- A key that is gone. -/
@[simp] theorem assocGet_assocDel_same {κ ν : Type} [DecidableEq κ] (l : List (κ × ν)) (n : κ) :
    assocGet (assocDel l n) n = none := by
  induction l with
  | nil => rfl
  | cons c rest ih =>
    obtain ⟨a, v⟩ := c
    unfold assocDel
    split
    · exact ih
    · simp_all [assocGet]

/-- Other keys stay. -/
theorem assocGet_assocDel_other {κ ν : Type} [DecidableEq κ] (l : List (κ × ν)) {n k : κ} (hk : k ≠ n) :
    assocGet (assocDel l n) k = assocGet l k := by
  induction l with
  | nil => rfl
  | cons c rest ih =>
    obtain ⟨a, v⟩ := c
    have hn : n ≠ k := fun e => hk e.symm
    unfold assocDel
    split
    · subst_vars; simp [assocGet, hn, ih]
    · simp [assocGet, ih]

/-! ## Physical memory -/

/-- The invariant through a write of one byte. -/
theorem State.Inv.writePhys {s : State} (h : s.Inv) (k : Option (BitVec 512)) (a : Nat) (b : Byte) :
    (s.writePhys k a b).Inv := ⟨Memory.wf_write h.1, h.2⟩

/-- The invariant through a write of several bytes. -/
theorem State.Inv.writePhysBytes {s : State} (h : s.Inv) (k : Option (BitVec 512)) (a : Nat) (bs : List Byte) :
    (s.writePhysBytes k a bs).Inv := by
  induction bs generalizing s a with
  | nil => exact h
  | cons b bs ih => exact ih (h.writePhys k a b) (a + 1)

/-- A byte read under the key under which it has just been written. -/
theorem State.readPhys_writePhys_same {s : State} (h : s.Inv) (k : Option (BitVec 512)) (a : Nat) (b : Byte) :
    (s.writePhys k a b).readPhys k a = b := by
  have hm := Memory.read_write_same s.mem a b h.1
  cases k <;> simp [State.readPhys, State.writePhys, hm]

/-- Another byte than the one that has just been written. -/
theorem State.readPhys_writePhys_other {s : State} (h : s.Inv) (k key : Option (BitVec 512)) {a x : Nat} (b : Byte)
    (hx : x ≠ a) : (s.writePhys k a b).readPhys key x = s.readPhys key x := by
  have hm := Memory.read_write_other s.mem b hx h.1
  cases k <;> simp [State.readPhys, State.writePhys, hm, assocGet_insertAt_other _ _ hx, assocGet_assocDel_other _ hx]

/-- Bytes outside those that have just been written. -/
theorem State.readPhys_writePhysBytes_other {s : State} (h : s.Inv) (k key : Option (BitVec 512)) (a : Nat)
    (bs : List Byte) {x : Nat} (hx : ¬ (a ≤ x ∧ x < a + bs.length)) :
    (s.writePhysBytes k a bs).readPhys key x = s.readPhys key x := by
  induction bs generalizing s a with
  | nil => rfl
  | cons b bs ih =>
    simp only [List.length_cons] at hx
    unfold State.writePhysBytes
    rw [ih (h.writePhys k a b) (a + 1) (by omega), State.readPhys_writePhys_other h k key b (by omega)]

/-- Bytes read under the key under which they have just been written. -/
theorem State.readPhysBytes_writePhysBytes {s : State} (h : s.Inv) (k : Option (BitVec 512)) (a : Nat) (bs : List Byte) :
    (s.writePhysBytes k a bs).readPhysBytes k a bs.length = bs := by
  induction bs generalizing s a with
  | nil => rfl
  | cons b bs ih =>
    have hb : (s.writePhysBytes k a (b :: bs)).readPhys k a = b := by
      unfold State.writePhysBytes
      rw [State.readPhys_writePhysBytes_other (h.writePhys k a b) k k (a + 1) bs (by omega)]
      exact State.readPhys_writePhys_same h k a b
    simp only [List.length_cons, State.readPhysBytes, hb]
    rw [State.writePhysBytes, ih (h.writePhys k a b) (a + 1)]

/-- The memory at reset is in its canonical form. -/
theorem State.reset_mem_wf : Memory.wf State.reset.mem = true := rfl

end Sys2Proof.Machine
end

