-- ==== Sys2Proof/Laws/Operations.lean ====
section
/-!
SUPPORT. What the shared operations can do, said once: registers after a write, the examination of operands, the end of an
instruction, and the checks before an access. Proofs about an instruction cite these and unfold nothing below its meaning.
-/
namespace Sys2Proof.Machine

/-! ## Registers -/

/-- A bit of a word with one bit set. -/
theorem getLsbD_or_one_shift (f : BitVec 64) (n : Reg) (k : Nat) :
    (f ||| (1#64 <<< n.toNat)).getLsbD k = (f.getLsbD k || decide (k = n.toNat)) := by
  have h := n.isLt
  simp only [BitVec.getLsbD_or, BitVec.getLsbD_shiftLeft, BitVec.getLsbD_one]
  by_cases hk : k = n.toNat
  · subst hk; simp; omega
  · by_cases hl : k < n.toNat
    · simp [hk, hl]
    · have : k - n.toNat ≠ 0 := by omega
      simp [hk, this]

/-- A bit of a word with one bit cleared. -/
theorem getLsbD_and_not_shift (f : BitVec 64) (n : Reg) (k : Nat) :
    (f &&& ~~~ (1#64 <<< n.toNat)).getLsbD k = (f.getLsbD k && decide (k ≠ n.toNat)) := by
  have h := n.isLt
  simp only [BitVec.getLsbD_and, BitVec.getLsbD_not, BitVec.getLsbD_shiftLeft, BitVec.getLsbD_one]
  by_cases hk : k = n.toNat
  · subst hk; simp
  · by_cases hl : k < n.toNat
    · by_cases hk64 : k < 64
      · simp [hk, hl, hk64]
      · omega
    · have : k - n.toNat ≠ 0 := by omega
      by_cases hk64 : k < 64
      · simp [hk, this, hk64]
      · have hf : f.getLsbD k = false := BitVec.getLsbD_of_ge f k (by omega)
        simp [hf]

/-- A register after a write: s0 reads as zero, and only the register written changes (12 R227). -/
theorem Seq.reg_put (q : Seq) (n m : Reg) (v : Word) :
    (q.put n v).reg m = if m = n ∧ n ≠ 0 then v else q.reg m := by
  by_cases h0 : n = 0
  · have h : ¬ (m = n ∧ n ≠ 0) := fun h => h.2 h0
    rw [if_neg h, Seq.put, if_pos h0]
  · rw [Seq.put, if_neg h0]
    unfold Seq.reg
    by_cases hm0 : m = 0
    · have h : ¬ (m = n ∧ n ≠ 0) := fun h => h0 (h.1 ▸ hm0)
      rw [if_pos hm0, if_neg h, if_pos hm0]
    · rw [if_neg hm0]
      by_cases he : m = n
      · subst he; rw [if_pos ⟨rfl, h0⟩]; simp
      · have hne : n.toNat ≠ m.toNat := fun e => he (BitVec.eq_of_toNat_eq e.symm)
        have h : ¬ (m = n ∧ n ≠ 0) := fun h => he h.1
        rw [if_neg h, if_neg hm0]
        exact Vector.getElem_set_ne n.isLt m.isLt hne

/-- Full bits after a write: the register written is full (12 R229). -/
theorem Seq.isFull_put (q : Seq) (n m : Reg) (v : Word) :
    (q.put n v).isFull m = (q.isFull m || decide (m = n)) := by
  unfold Seq.put Seq.isFull
  by_cases h0 : n = 0
  · rw [if_pos h0]
    by_cases hm : m = 0
    · simp [hm]
    · have : ¬ m = n := fun e => hm (e.trans h0)
      simp [this]
  · have : decide (m.toNat = n.toNat) = decide (m = n) := by simp [BitVec.toNat_eq]
    rw [if_neg h0]
    simp only [bit, getLsbD_or_one_shift, this, Bool.or_assoc]

/-- Full bits after a register is marked empty: s0 stays full (12 R227, R229). -/
theorem Seq.isFull_setEmpty (q : Seq) (n m : Reg) :
    (q.setEmpty n).isFull m = (q.isFull m && decide (m ≠ n ∨ n = 0)) := by
  unfold Seq.setEmpty Seq.isFull
  by_cases h0 : n = 0
  · rw [if_pos h0]; simp [h0]
  · rw [if_neg h0]
    have hd : decide (m.toNat ≠ n.toNat) = decide (m ≠ n ∨ n = 0) := by
      rw [decide_eq_decide]
      constructor
      · exact fun h => .inl fun e => h (e ▸ rfl)
      · rintro (h | h)
        · exact fun e => h (BitVec.eq_of_toNat_eq e)
        · exact absurd h h0
    simp only [bit, getLsbD_and_not_shift, hd]
    by_cases hm : m = 0
    · have : m ≠ n ∨ n = 0 := .inl fun e => h0 (e ▸ hm)
      simp [hm]
      exact .inl fun e => h0 e.symm
    · have hb : (m == 0) = false := by simpa using hm
      simp only [hb, Bool.false_or]

/-- A register marked empty keeps every value. -/
@[simp] theorem Seq.reg_setEmpty (q : Seq) (n m : Reg) : (q.setEmpty n).reg m = q.reg m := by
  unfold Seq.setEmpty; split <;> rfl

/-- s0 reads as zero. -/
@[simp] theorem Seq.reg_zero (q : Seq) : q.reg 0#6 = 0 := if_pos rfl
/-- s0 is full. -/
@[simp] theorem Seq.isFull_zero (q : Seq) : q.isFull 0#6 = true := by simp [Seq.isFull]
/-- A write to s0 is discarded. -/
@[simp] theorem Seq.put_zero (q : Seq) (v : Word) : q.put 0#6 v = q := if_pos rfl
/-- A write to s0 is discarded. -/
@[simp] theorem State.put_zero (s : State) (v : Word) : s.put 0#6 v = s := by
  rw [State.put, State.mapSeq, Seq.put_zero]

/-- The end of an instruction changes no register. -/
@[simp] theorem Seq.reg_advance (q : Seq) (n : Reg) : q.advance.reg n = q.reg n := rfl
/-- The end of an instruction changes no full bit. -/
@[simp] theorem Seq.isFull_advance (q : Seq) (n : Reg) : q.advance.isFull n = q.isFull n := rfl

/-! ## Operands (12 R228, R229, R233) -/

/-- Sources that are settled are ready. -/
theorem State.examine_settled {s : State} {l : List (Reg × Bool)} (h : s.settled (l.map (·.1))) : s.examine l = .ok := by
  induction l with
  | nil => rfl
  | cons x rest ih =>
    obtain ⟨n, e⟩ := x
    have h1 := h n (by simp)
    have h2 : s.settled (rest.map (·.1)) := fun m hm => h m (by simp at hm ⊢; exact .inr hm)
    simp [State.examine, h1.1, h1.2, ih h2]

/-- Destinations that are settled are claimed. -/
theorem State.claim_settled {s : State} {l : List Reg} (h : s.settled l) : s.claim l = .ok := by
  induction l with
  | nil => rfl
  | cons n rest ih =>
    have h1 := h n (by simp)
    have h2 : s.settled rest := fun m hm => h m (by simp [hm])
    simp [State.claim, h1.1, h1.2, ih h2]

/-- An instruction whose operands are settled has its effect. -/
theorem State.withOps_settled {s : State} {srcs : List (Reg × Bool)} {dsts : List Reg} (k : Out)
    (h : s.settled (srcs.map (·.1) ++ dsts)) : s.withOps srcs dsts k = k := by
  have h1 : s.settled (srcs.map (·.1)) := fun n hn => h n (by simp [hn])
  have h2 : s.settled dsts := fun n hn => h n (by simp [hn])
  simp [State.withOps, State.examine_settled h1, State.claim_settled h2]

/-- Everything that the examination of operands can do: the effect follows, the instruction waits, or it takes
EMPTY_SRC. -/
theorem State.withOps_cases (s : State) (srcs : List (Reg × Bool)) (dsts : List Reg) (k : Out) :
    s.withOps srcs dsts k = k ∨ (∃ b, s.withOps srcs dsts k = s.stall b)
      ∨ ∃ n : Reg, s.withOps srcs dsts k = s.trap .emptySrc (n.setWidth 64) 0 := by
  unfold State.withOps
  split
  · exact .inr (.inr ⟨_, rfl⟩)
  · exact .inr (.inl ⟨_, rfl⟩)
  · split
    · exact .inr (.inl ⟨_, rfl⟩)
    · exact .inr (.inr ⟨_, rfl⟩)
    · exact .inl rfl

/-- An R form whose operands are settled. -/
theorem State.rForm_settled {s : State} {o : ROps} (f : Word → Word → Word) (h : s.settled [o.sa, o.sb, o.sd]) :
    s.rForm o f = .next (s.put o.sd (f (s.reg o.sa) (s.reg o.sb))).advance := by
  unfold State.rForm
  rw [State.withOps_settled _ (by simpa using h)]; rfl

/-- A form of one source whose operands are settled. -/
theorem State.uForm_settled {s : State} {sd sa : Reg} {e : Bool} (f : Word → Word) (h : s.settled [sa, sd]) :
    s.uForm sd sa e f = .next (s.put sd (f (s.reg sa))).advance := by
  unfold State.uForm
  rw [State.withOps_settled _ (by simpa using h)]; rfl

/-- A form that replaces a part of a settled destination. -/
theorem State.insertForm_settled {s : State} {sd : Reg} {srcs : List (Reg × Bool)} (f : Word → Word)
    (h : s.settled (srcs.map (·.1) ++ [sd])) :
    s.insertForm sd srcs f = .next (s.put sd (f (s.reg sd))).advance := by
  unfold State.insertForm
  rw [State.withOps_settled]
  · rfl
  · intro n hn
    exact h n (by simp at hn ⊢; exact hn)

/-- An instruction that no acquire holds goes on. -/
theorem State.afterAcquire_mayIssue {s : State} (k : Out) (h : s.mayIssue) : s.afterAcquire k = k := by
  have h' : s.acquireHolds = false := h
  simp [State.afterAcquire, h']

/-- A load with room among the outstanding loads goes on. -/
theorem State.needLoads_room {s : State} {n : Nat} (k : Out) (h : s.loadsOut + n ≤ Config.maxLoads) :
    s.needLoads n k = k := by simp [State.needLoads, h]

/-- A store with room in the store queue goes on. -/
theorem State.needStores_room {s : State} {n : Nat} (k : Out) (h : s.me.pipe.stores.length + n ≤ Config.maxStores) :
    s.needStores n k = k := by simp [State.needStores, h]

/-- An access whose checks pass goes on. -/
theorem State.withTarget_passes {s t : State} {va : Word} {k : Nat} {a : Acc} {u : Target} (go : State → Target → Out)
    (h : s.passes va k a t u) : s.withTarget va k a go = go t u := by
  have h' : s.checked va k a = (t, .ok u) := h
  simp [State.withTarget, h']

/-! ## The running task -/

/-- Whose results the core produces depends on its task alone. -/
theorem State.here_congr {s t : State} (h1 : t.me.task = s.me.task) (h2 : t.me.detached = s.me.detached) :
    t.here = s.here := by simp [State.here, h1, h2]

/-- A register filled for the running task is written. -/
theorem State.fillFor_here (s : State) (n : Reg) (v : Word) (f : State → Record → State) :
    s.fillFor s.here n v f = s.put n v := by
  unfold State.fillFor
  split
  · subst_vars; rw [show (0 : Reg) = 0#6 from rfl, State.put_zero]
  · rw [if_pos rfl]

/-! ## Retiring (04 R79, 14 R310) -/

/-- A task with nothing out, no configuration and no join work that it must wait for retires at once. -/
theorem State.retireBlock_none {s : State} (hin : s.allIn) (htok : s.tokensOut s.here = [])
    (hf : (s.cores.map (·.pipe)).flatMap (·.fences) = []) (hb : (s.cores.map (·.pipe)).flatMap (·.bartoks) = [])
    (he : (s.cores.map (·.pipe)).flatMap (·.fempties) = []) (hcfg : s.configHere = false)
    (hj : ((s.isTileTask && s.me.joinBusy s.here s.me.pipe.nextId) || s.splits (s.joinRuns s.here)) = false) :
    s.retireBlock = none := by
  unfold State.retireBlock
  simp only [hin, hf, hb, he, htok, hcfg, hj, List.find?_nil, Bool.not_true, Bool.false_eq_true, if_false]

/-! ## An access that performs (01 R9, R11; 06 R102) -/

/-- A memory access ends in an error exactly where its link has failed or a word that it needs is uncorrectable. -/
theorem State.accessError_mem (s : State) (c : Option CoreNum) (pa : Nat) (key : Option (BitVec 512))
    (cache : Cache) (future : Bool) (n : Nat) (wr : Bool) :
    s.accessError c (.mem pa key cache future) n wr = none ↔
      s.linkCut c (.mem pa key cache future) = false ∧ s.badByte pa n (fun w => !wr || !coversWord pa n w) = none := by
  unfold State.accessError
  cases s.linkCut c (.mem pa key cache future) <;> simp

/-! ## Events to the host (02 R29, R45) -/

/-- An event on a lane that takes events now is sent at once. -/
theorem Hub.post_takes {h : Hub} {l : Lane} {m : Bool} {e : HostEvent} (hu : (h.lane (h.carrier l)).takes) :
    h.post l m e = h.send (h.carrier l) e := if_pos hu

/-- An event on a lane that takes none now is kept, and nothing is sent. -/
theorem Hub.post_kept {h : Hub} {l : Lane} {m : Bool} {e : HostEvent} (hu : ¬ (h.lane (h.carrier l)).takes) :
    h.post l m e = h.modLane (h.carrier l) (·.keep m e) := if_neg hu

/-- The next event that carries a fault record takes the count of the events lost, and the count starts anew. -/
theorem Hub.send_sent (h : Hub) (l : Lane) (e : HostEvent) :
    (h.send l e).sent = h.sent ++ [(l, e.withLost (h.lane l).lost)] := rfl

/-! ## The next instruction (13 R272) -/

/-- An instruction outside every loop end goes on at pc + 4. -/
theorem Seq.advance_pc {q : Seq} (h : ∀ e ∈ q.loops.head?, e.last ≠ q.pc) :
    q.advance.pc = q.pc + 4 ∧ q.advance.loops = q.loops := by
  unfold Seq.advance
  cases hl : q.loops with
  | nil => simp [loopEnd]
  | cons e rest =>
    have : e.last ≠ q.pc := h e (by simp [hl])
    simp [loopEnd, this]

end Sys2Proof.Machine
end

