-- ==== Sys2Proof/Tests/Slice0.lean ====
section
/-!
SUPPORT. The model's own tests: words written out from the worked encodings of the spec (12, 13, 14, 15, 17,
18, 19), ill-formed terms for each check of WellFormed, and witnesses for the hypotheses of the obligations.
-/
namespace Sys2Proof.Tests
open Sys2Proof Sys2Proof.Machine
set_option maxRecDepth 4000
set_option Elab.async false

/-! ## Words of the spec's examples -/

/-- 12 "Worked encodings": add s3, s4!, s5. -/
theorem test_word_add : decodeTableWord 32 0x010C4160 =
    some (.add { sd := 3, sa := 4, sb := 5, ea := true, eb := false }) := by decide
/-- 12 "Worked encodings": ld.w s3, 16(s4). -/
theorem test_word_ld : decodeTableWord 32 0x380C4404 =
    some (.ld { sd := 3, sa := 4, ea := false, size := .w, off := 4 }) := by decide
/-- 12 "Worked encodings": amoadd.acq.die s3, (s4), s5. -/
theorem test_word_amoadd : decodeTableWord 32 0x400C4145 =
    some (.amoadd { sd := 3, sa := 4, sb := 5, ea := false, eb := false, order := .acquire, scope := .die }) := by
  decide
/-- 12 "Worked encodings": fence s9, st+bw, package. -/
theorem test_word_fence : decodeTableWord 32 0x4C248980 =
    some (.fence { sd := 9, mask := 0x22, scope := .package }) := by decide
/-- 12 "Worked encodings": bne s3, s0, back, with off10 = 0x3FC. -/
theorem test_word_bne : decodeTableWord 32 0x290C03FC =
    some (.bne { sa := 3, sb := 0, ea := false, eb := false, off := 0x3FC }) := by decide
/-- 12 "Worked encodings": fn 11 of opcode 0x01 is unassigned. -/
theorem test_word_fn11 : decode 0x010C416B = .error .fn := by rfl
/-- 12 "Worked encodings": an LDA with order 0b10 is a reserved value. -/
theorem test_word_lda_release : decode 0x4A0C4009 = .error .reservedValue := by rfl
/-- 12 R232: zeroed memory decodes as opcode 0x00. -/
theorem test_word_zero : decode 0 = .error .opcode := by rfl
/-- 14 R302 example: bartok.package s9, s4. -/
theorem test_word_bartok : decodeTableWord 32 0x58244003 =
    some (.bartok { sd := 9, sa := 4, ea := false } .package) := by decide
/-- 14 R304 example: talloc s5, s6, s7, 2. -/
theorem test_word_talloc : decodeTableWord 32 0x601461C2 =
    some (.talloc { sd := 5, sa := 6, sb := 7, ea := false, eb := false } 2) := by decide
/-- 14 R318 example: cvt.b8a.fp32.rup s3, s4. -/
theorem test_word_cvt : decodeTableWord 32 0x8A0C4206 =
    some (.cvt { sd := 3, sa := 4, ea := false } .b8a .fp32 .rup false) := by decide
/-- 13 R249 example: lis1 s3, 0x1_159E. -/
theorem test_word_lis1 : decodeTableWord 32 0x210D159E = some (.lis1 ⟨3, 0x1159E⟩) := by decide
/-- 14 R296 example: cas.acqrel.die s3, (s4), s5. -/
theorem test_word_cas : decodeTableWord 32 0x490C414D =
    some (.cas { sd := 3, sa := 4, sb := 5, ea := false, eb := false, order := .acqRel, scope := .die }) := by decide
/-- 14 R297 example: fput s5, s10. -/
theorem test_word_fput : decodeTableWord 32 0x51005280 =
    some (.fput { sa := 5, sb := 10, ea := false, eb := false }) := by decide
/-- 14 R306 example: tsend s6, s7, 3. -/
theorem test_word_tsend : decodeTableWord 32 0x640061C3 =
    some (.tsend { sa := 6, sb := 7, ea := false, eb := false } 3) := by decide
/-- 14 R307 example: spawn s5, t+rpl+tile. -/
theorem test_word_spawn : decodeTableWord 32 0x7000500B = some (.spawn { sa := 5, ea := false } true true false true) := by
  decide
/-- 14 R316 example: fma.d.rtz s3, s4, s5. -/
theorem test_word_fma : decodeTableWord 32 0x850C414A =
    some (.fma { sd := 3, sa := 4, sb := 5, ea := false, eb := false, dbl := true, rm := .rtz }) := by decide
/-- 17: loop s19, p1_last, with end 4. -/
theorem test_word_loop : decodeTableWord 32 0x344C0004 = some (.loop { sa := 19, ea := false } 4) := by decide
/-- 17: cmdm s15, s10, 0. -/
theorem test_word_cmdm : decodeTableWord 32 0x7900F280 =
    some (.cmdm { sa := 15, sb := 10, ea := false, eb := false } .low48) := by decide
/-- 17: cfg s14, s13, graph. -/
theorem test_word_cfg : decodeTableWord 32 0x7C38D001 = some (.cfg { sd := 14, sa := 13, ea := false } true) := by decide
/-- 19: mts utvec, s56. -/
theorem test_word_mts : decodeTableWord 32 0x93038005 = some (.mts { sa := 56, ea := false } .utvec) := by decide
/-- 19: yield s59, s58, future. -/
theorem test_word_yield : decodeTableWord 32 0x7203BE81 =
    some (.yield { sa := 59, sb := 58, ea := false, eb := false } .future) := by decide
/-- 15 "Fabric port commands" example: FEEDT of tile 0x0082_2041 at port 3, 16 instants, token s9. -/
theorem test_packet_feedt : decodeTableWord 128 0x020C9200000000000010000000822041 =
    some (.feedt { tok := 9, port := 3, eof := true, handle := 0x00822041, count := 16, level := 0 }) := by decide
/-- 12 Table ENC-6, 15 Table CMD-3: JCLR with token s9. -/
theorem test_packet_jclr : decodeTableWord 128 0x26009000000000000000000000000000 = some (.jclr 9) := by decide
/-- 12 Table ENC-6, 15 R336: FILL without EXT, of 16 bytes with 0xAB at 0x3000. -/
theorem test_packet_fill : decodeTableWord 128 0x4400900000AB00000010000000003000 =
    some (.fill 9 (.direct 0x3000 16 0xAB)) := by decide
/-- 12 Table ENC-6, 15 Table CMD-3: RPUT needs EXT; its descriptor at 0x2000. -/
theorem test_packet_rput : decodeTableWord 128 0x60009100000000000000000000002000 = some (.rput 9 0x2000) := by decide
/-- 12 Table ENC-6, 15 R341: LAUNCH with C0 (early), its record at 0x3000. -/
theorem test_packet_launch : decodeTableWord 128 0x70009200000000000000000000003000 = some (.launch 9 true 0x3000) := by decide
/-- 12 Table ENC-6, 15 Table CMD-4: ARM of columns 0 and 11. -/
theorem test_packet_arm : decodeTableWord 128 0x08009000000000000000000000000801 = some (.arm 9 0x801) := by decide

/-! ## Ill-formed terms -/

/-- A bit field that passes bit 63 (12 R236). -/
theorem test_ill_bfx : ¬ WellFormed (.bfx { sd := 1, sa := 2, ea := false, pos := 60, len := 4 }) := by
  unfold WellFormed; decide
/-- LOOP with end 0 (12 R231). -/
theorem test_ill_loop : ¬ WellFormed (.loop { sa := 1, ea := false } 0) := by unfold WellFormed; decide
/-- LDS of a doubleword (12 Table ENC-5). -/
theorem test_ill_lds : ¬ WellFormed (.lds { sd := 1, sa := 2, ea := false, size := .d, off := 0 }) := by
  unfold WellFormed; decide
/-- LDQ into an odd register (12 Table ENC-5). -/
theorem test_ill_ldq : ¬ WellFormed (.ldq { sd := 3, sa := 2, ea := false, off := 0 }) := by
  unfold WellFormed; decide
/-- FEMPTY of s0 (14 R300). -/
theorem test_ill_fempty : ¬ WellFormed (.fempty 0) := by unfold WellFormed; decide
/-- YIELD none with a wait address (14 R310). -/
theorem test_ill_yield : ¬ WellFormed (.yield { sa := 1, sb := 2, ea := false, eb := false } .none) := by
  unfold WellFormed; decide
/-- CVT to the source format without saturate (12 R237). -/
theorem test_ill_cvt : ¬ WellFormed (.cvt { sd := 1, sa := 2, ea := false } .fp32 .fp32 .rne false) := by
  unfold WellFormed; decide
/-- FEED from an address that is no multiple of 128 (15 Table CMD-4). -/
theorem test_ill_feed : ¬ WellFormed
    (.feed { tok := 0, port := 0, eof := false, addr := 64, count := 1, level := 0 }) := by
  unfold WellFormed; decide
/-- PARM of element 120 (15 R322). -/
theorem test_ill_parm : ¬ WellFormed (.parm 0 120 0 0) := by unfold WellFormed; decide
/-- ARM of no column (15 Table CMD-4). -/
theorem test_ill_arm : ¬ WellFormed (.arm 0 0) := by unfold WellFormed; decide
/-- JFEED from a reference of the reserved kind (12 Table ENC-8). -/
theorem test_ill_jfeed : ¬ WellFormed (.jfeed 0 0xC000000000000000 1 0 .rne) := by unfold WellFormed; decide
/-- RAMO operation 10 (15 R339). -/
theorem test_ill_ramo : ¬ WellFormed (.ramo 0 0 10) := by unfold WellFormed; decide

/-! ## A small state -/

/-- The descriptor of the test Paddock: cluster 0, HBM below 2 GiB, its first-level table at 0x1000. -/
def desc0 : PdkDesc :=
  { PdkDesc.placed with ptroot := 0x1000, hbm := [⟨0, 2 ^ 31⟩], draw := [100, 100, 100, 100], maxReplay := 1, replayFab := true }
/-- Its one record, which runs on core 0. -/
def rec0 : Record := Record.placed 0
/-- The test Paddock. -/
def pdk0 : Paddock := { Paddock.fresh 0 desc0 with records := [rec0], groups := [Group.placed], order := 1 }
/-- The task of the record. -/
def task0 : Task := rec0.task 0 1 0 0
/-- The first GiB mapped plain and the second as a FUTURE page, both to themselves (03 Tables ADR-3, ADR-4). -/
def mem0 : List Host.Cell := [(0x1000, 0x3F), (0x1001, 0x01), (0x1008, 0x3F), (0x1009, 0x03), (0x100E, 0x04)]
/-- A task of the test Paddock that runs on core 0. -/
def s0 : State := { State.reset with paddocks := [pdk0], mem := mem0, me := { Core.reset with task := some task0 } }
/-- The same with some registers written. -/
def withRegs (l : List (Reg × Word)) : State := l.foldl (fun s x => s.put x.1 x.2) s0
/-- The same with STATUS changed. -/
def withStatus (f : Status → Status) : State := s0.mapSeq fun q => { q with status := f q.status }
/-- The same with the outstanding work changed. -/
def withPipe (f : Pipe → Pipe) : State := s0.mapPipe f
/-- The same as a tile task. -/
def tile0 : State := withStatus fun st => { st with tile := true }
/-- Whether an instruction answers a next state. -/
def goes (o : Out) : Bool := match o with | .next _ => true | _ => false
/-- Whether an instruction answers a next state that passes a test. -/
def goesTo (o : Out) (p : State → Bool) : Bool := match o with | .next t => p t | _ => false
/-- Whether an address check finds a place. -/
def finds (r : Except FaultInfo Target) (t : Target) : Bool := match r with | .ok u => u == t | .error _ => false
/-- Whether a value is there and passes a test. -/
def gets {ε α : Type} (r : Except ε α) (p : α → Bool) : Bool := match r with | .ok a => p a | .error _ => false
/-- Whether the answer is a fault with a code. -/
def faults (r : Except FaultInfo Target) (c : Code) : Bool := match r with | .ok _ => false | .error f => f.code == c
/-- Local memory at an address. -/
def at_ (pa : Nat) : Target := .mem pa none .wb false
/-- A result under way. -/
def pend0 : PendResult := { dst := 5, value := 7, owner := s0.here }

/-! ## Witnesses: registers and operands -/

/-- RegisterFile: a register that holds values, and another one. -/
theorem witness_RegisterFile : (63 : Reg) ≠ 0 ∧ (1 : Reg) ≠ 63 := by decide
/-- RegisterArithmetic and Immediates: operands ready, a source that is also the destination. -/
theorem witness_RegisterArithmetic : s0.settled [3, 4, 3] := by unfold State.settled; decide +kernel
/-- BitOperations: a field that ends at bit 63. -/
theorem witness_BitOperations : WellFormed (.bfx { sd := 3, sa := 4, ea := false, pos := 60, len := 3 }) ∧ s0.settled [4, 3] := by
  unfold WellFormed State.settled; decide +kernel
/-- Immediates. -/
theorem witness_Immediates : s0.settled [3] := by unfold State.settled; decide +kernel
/-- MultiplyDivide: a divider that is free, the divisor 0, the most negative dividend by −1, and a unit with a result. -/
theorem witness_MultiplyDivide :
    let s := withRegs [(4, 0x8000000000000000), (5, 0xFFFFFFFFFFFFFFFF)]
    s.settled [4, 5, 3] ∧ s.me.pipe.divUnit = none ∧ s.reg 4 = BitVec.intMin 64 ∧ s.reg 5 = BitVec.allOnes 64 ∧ s.reg 6 = 0
      ∧ pend0.owner = (withPipe fun p => { p with divUnit := some pend0, fpUnit := some pend0 }).here := by
  unfold State.settled; decide +kernel
/-- ComputeFrames: instructions of each form with their operands ready. -/
theorem witness_ComputeFrames :
    s0.settled [0, 4, 3] ∧ s0.settled [62] ∧ s0.me.seq.loops = [] ∧ (s0.reg 4).toNat % 4 = 0
      ∧ (([.add ⟨3, 4, 5, false, false⟩, .div ⟨3, 4, 5, false, false⟩, .clz ⟨3, 4, false⟩, .addi ⟨3, 4, false, 1⟩,
          .shli ⟨3, 4, false, 1⟩, .bfx ⟨3, 4, false, 0, 1⟩, .li ⟨3, 1⟩, .lis3 3 1, .beq ⟨4, 0, false, false, 1⟩, .jmp 1, .jal 1,
          .jr ⟨4, false⟩ 1, .jalr ⟨3, 4, false, 1⟩, .loop ⟨4, false⟩ 1] : List Instr).all fun i => goes (exec i s0)) = true := by
  unfold State.settled; decide +kernel
/-- EmptySources: an empty register, with and without the bit that asks for a trap. -/
theorem witness_EmptySources :
    let s := s0.setEmpty 4
    s.me.seq.isFull 4 = false ∧ s.settled [5] ∧ s.settled [5, 6]
      ∧ goesTo (exec (.add ⟨3, 4, 5, true, false⟩) s) (fun t => t.me.seq.trapcause == 0x203 && t.me.seq.trapval0 == 4) = true
      ∧ goesTo (exec (.add ⟨3, 4, 5, false, false⟩) s) (fun t => t.me.block.okind == 9) = true := by
  unfold State.settled; decide +kernel

/-! ## Witnesses: transfers, traps and system registers -/

/-- Transfers and LoopPops: targets that are and are not multiples of 4. -/
theorem witness_Transfers :
    let s := withRegs [(4, 0x100), (5, 0x102)]
    s.settled [4, 5] ∧ (s.reg 4 + (1 : BitVec 11).signExtend 64 * 4).toNat % 4 = 0
      ∧ (s.reg 5 + (1 : BitVec 11).signExtend 64 * 4).toNat % 4 ≠ 0 := by
  unfold State.settled; decide +kernel
/-- A loop body of the word at 0, which runs twice more. -/
def loop0 : LoopEntry := { start := 0, last := 0, count := 2 }
/-- Loops: the end of a body, and LOOP at a depth below 4, at depth 4 and with an outer body that it leaves. -/
theorem witness_Loops :
    let s := withRegs [(4, 1)]
    let one := s.mapSeq fun q => { q with loops := [loop0] }
    WellFormed (.loop ⟨4, false⟩ 1) ∧ s.settled [4] ∧ one.me.seq.loops = [loop0] ∧ loop0.last = s.pc
      ∧ (one.me.seq.advance.pc, one.me.seq.advance.loops) = (0, [{ loop0 with count := 1 }])
      ∧ goesTo (exec (.loop ⟨4, false⟩ 1) one) (fun t => t.me.seq.trapval1 == 0x11) = true
      ∧ goesTo (exec (.loop ⟨4, false⟩ 1) (s.mapSeq fun q => { q with loops := List.replicate 4 loop0 }))
          (fun t => t.me.seq.trapval1 == 0x10) = true
      ∧ goesTo (exec (.loop ⟨4, false⟩ 1) s) (fun t => t.me.seq.loops == [⟨4, 4, 1⟩] && t.me.seq.pc == 4) = true
      ∧ goesTo (exec (.loop ⟨6, false⟩ 1) s) (fun t => t.me.seq.loops == [] && t.me.seq.pc == 8) = true := by
  unfold WellFormed State.settled; decide +kernel
/-- LoopPops: a branch out of a body pops it (13 R273). -/
theorem witness_LoopPops :
    goesTo (exec (.jmp 2) (s0.mapSeq fun q => { q with loops := [loop0] })) (fun t => t.me.seq.loops == [] && t.me.seq.pc == 8)
      = true := by decide +kernel
/-- A handler of the supervisor. -/
def handler0 : State := withStatus fun st => { st with intrap := true, priv := .paddock }
/-- TrapEntry: a trap from USER, and one that finds the supervisor's handler busy. -/
theorem witness_TrapEntry :
    let f : FaultInfo := { code := .misalign, val0 := 1, val1 := 2 }
    ¬ ((!f.code.isUser || false) = true ∧ s0.me.seq.status.intrap = true ∧ s0.me.seq.status.priv = .paddock)
      ∧ handler0.me.seq.status.intrap = true ∧ handler0.me.seq.status.priv = .paddock ∧ handler0.me.task = some task0
      ∧ handler0.me.callers = [] ∧ (handler0.takeTrap f 0 false).me.task = none := by decide +kernel
/-- ServiceRequest and Breakpoint: a task at USER whose pc is a multiple of 4. -/
theorem witness_ServiceRequest :
    ¬ (s0.me.seq.status.intrap = true ∧ s0.me.seq.status.priv = .paddock) ∧ s0.me.detached = none
      ∧ (s0.me.seq.pc + 4).toNat % 4 = 0 ∧ s0.me.seq.pc.toNat % 4 = 0
      ∧ goesTo (exec (.trap 5) s0) (fun t => t.me.seq.trapcause == 0 && t.me.seq.trapval0 == 5 && t.me.seq.trappc == 4) = true := by
  decide +kernel
/-- Breakpoint: with UTE set the handler is the user's (13 R288). -/
theorem witness_Breakpoint :
    let s := withStatus fun st => { st with ute := true }
    s.me.seq.status.ute = true ∧ s.me.seq.status.intrap = false
      ∧ goesTo (exec .bkpt s) (fun t => t.me.seq.trapcause == 8 && t.me.seq.status.priv == .user) = true := by decide +kernel
/-- TrapReturn: with no trap, from a handler at USER that was entered from PADDOCK, from the supervisor's handler, and
from one with no task. -/
theorem witness_TrapReturn :
    let u := withStatus fun st => { st with intrap := true, ppriv := .paddock }
    let d : State := { handler0.mapSeq (fun q => { q with trapcause := 0x2000 }) with
      me := { (handler0.mapSeq fun q => { q with trapcause := 0x2000 }).me with task := none, detached := some 0 } }
    s0.me.seq.status.intrap = false ∧ u.me.seq.status.priv = .user ∧ u.me.seq.status.ppriv = .paddock
      ∧ handler0.me.seq.trapcause.getLsbD 13 = false ∧ handler0.me.seq.trappc.toNat % 4 = 0
      ∧ d.me.seq.trapcause.getLsbD 13 = true ∧ d.me.seq.status.intrap = true
      ∧ goesTo (exec .eret handler0) (fun t => t.me.task == some task0 && t.me.seq.status.priv == .user) = true
      ∧ goesTo (exec .eret d) (fun t => t.me.detached == none && !t.me.seq.status.intrap) = true := by decide +kernel
/-- StatusFields: a write at PADDOCK of the values 1 to PRIV and 2 to PPRIV (13 R280). -/
theorem witness_StatusFields :
    let s := (handler0.put 4 0x19)
    s.settled [4] ∧ goesTo (exec (.mts ⟨4, false⟩ .status) s)
      (fun t => t.me.seq.status.priv == .paddock && t.me.seq.status.ppriv == .user && t.me.seq.status.intrap) = true := by
  unfold State.settled; decide +kernel
/-- SystemRegisters: at USER and at PADDOCK, before an identifier is written. -/
theorem witness_SystemRegisters :
    s0.settled [3] ∧ handler0.settled [3] ∧ handler0.me.seq.status.priv = .paddock ∧ s0.hub.devid = none
      ∧ (SysReg.utvec ≠ .stvec ∧ SysReg.utvec ≠ .sscratch) := by unfold State.settled; decide +kernel
/-- RefusedInstructions: at USER, and a read-only register at the end of the list. -/
theorem witness_RefusedInstructions :
    s0.me.seq.status.priv = .user ∧ s0.settled [4] ∧ SysReg.lpbnd 3 ∈ ([.cycle, .lpbnd 3] : List SysReg) := by
  unfold State.settled; decide +kernel
/-- Events: the flag set and clear, a sleep and an FEMPTY that have lasted 65,536 clk. -/
theorem witness_Events :
    let e : PendEmpty := { reg := 4, since := 0, owner := s0.here }
    let late : State := { (withPipe fun p => { p with fempties := [e] }) with clk := 65536 }
    let asleep : State := s0.mapMe fun c => { c with sleeping := some 0 }
    (withStatus fun st => { st with event := true }).me.seq.status.event = true ∧ s0.me.seq.status.event = false
      ∧ s0.settled [4] ∧ s0.enabledCore s0.cur = true ∧ s0.me.pipe.fempties = [] ∧ s0.me.sleeping = none
      ∧ asleep.me.sleeping = some 0 ∧ late.me.pipe.fempties.find? (fun x => x.reg == e.reg) = some e ∧ e.owner = late.here
      ∧ e.since + 65536 ≤ late.clk := by
  unfold State.settled; decide +kernel
/-- InstructionFetches: a line to fetch that is mapped, one that is not, one with a bad word, and a pc that is no
multiple of 4. -/
theorem witness_InstructionFetches :
    let far : State := s0.mapSeq fun q => { q with pc := 0x80000000 }
    let bad : State := { s0 with badWords := [7] }
    s0.me.task.isSome = true ∧ s0.me.sleeping = none ∧ s0.me.lineOf s0.pc = none ∧ s0.pc.toNat % 4 = 0
      ∧ finds (s0.translate (some 0) s0.herePdk s0.pc (Acc.instr .user)).2 (at_ 0) = true
      ∧ s0.accessError (some 0) (at_ 0) 256 false = none ∧ bad.accessError (some 0) (at_ 0) 256 false = some (.eccUncorr, 224)
      ∧ (s0.mapSeq fun q => { q with pc := 2 }).pc.toNat % 4 ≠ 0
      ∧ goesTo (exec (.instructionFetch 0) s0) (fun t => t.me.ibuf.length == 1 && t.me.block.okind == 12) = true
      ∧ goesTo (exec (.instructionFetch 0) bad) (fun t => t.me.seq.trapcause.setWidth 8 == 0x70#8) = true
      ∧ far.me.lineOf far.pc = none
      ∧ faults (far.translate (some 0) far.herePdk far.pc (Acc.instr .user)).2 .xlate = true := by decide +kernel

/-! ## Witnesses: loads, stores, atomics and fences -/

/-- No core but the running one has left its reset state, and nothing waits for a barrier or a future. -/
def alone (s : State) : Bool :=
  s.others.isEmpty && s.me.pipe.bartoks.isEmpty && s.paddocks.all fun p => p.records.all fun r => r.state != .parked
/-- Then nothing waits. -/
theorem noneWait_of_alone {s : State} (h : alone s = true) : s.noneWait := by
  simp only [alone, Bool.and_eq_true, List.isEmpty_iff, List.all_eq_true, bne_iff_ne] at h
  obtain ⟨⟨h1, h2⟩, h3⟩ := h
  refine ⟨fun c => ?_, h3⟩
  simp only [State.coreAt, h1]
  split
  · exact h2
  · rfl
/-- An address check that finds a place passes. -/
theorem passes_of_finds {s : State} {va : Word} {k : Nat} {a : Acc} {u : Target} (h : finds (s.checked va k a).2 u = true) :
    ∃ t, s.passes va k a t u := by
  refine ⟨(s.checked va k a).1, Prod.ext rfl ?_⟩
  cases hr : (s.checked va k a).2 with
  | error f => simp [hr, finds] at h
  | ok v => simpa [hr, finds] using h

/-- A state with 0x2000 in s4, a multiple of 16 that is mapped. -/
def m0 : State := withRegs [(4, 0x2000), (5, 0x1122334455667788)]
/-- LoadStoreIssue, Atomics, Barriers and CommandIssue: an address that passes its checks for each access. -/
theorem witness_LoadStoreIssue :
    m0.mayIssue ∧ m0.settled [4, 6] ∧ m0.settled [4, 6, 7] ∧ m0.loadsOut < 15 ∧ m0.me.pipe.stores.length < 15
      ∧ finds (m0.checked 0x2000 8 { Acc.read m0.priv with plain8 := true }).2 (at_ 0x2000) = true
      ∧ finds (m0.checked 0x2000 4 (Acc.write m0.priv)).2 (at_ 0x2000) = true
      ∧ finds (m0.checked 0x2000 16 (Acc.read m0.priv)).2 (at_ 0x2000) = true
      ∧ finds (m0.checked 0x2000 16 (Acc.write m0.priv)).2 (at_ 0x2000) = true
      ∧ finds (m0.checked 0x2000 8 (Acc.both m0.priv)).2 (at_ 0x2000) = true
      ∧ finds (m0.checked 0x2000 16 (Acc.both m0.priv)).2 (at_ 0x2000) = true
      ∧ m0.clearOf (at_ 0x2000) 8 ∧ m0.clearOf ((at_ 0x2000).plus 8) 8 ∧ m0.clearOf (at_ 0x2000) 16 := by
  unfold State.mayIssue State.settled State.clearOf; decide +kernel
/-- AddressChecks: an address beyond 48 bits, one that is misaligned, and one that no page maps. -/
theorem witness_AddressChecks :
    let s := withRegs [(4, 0x1000000000000), (5, 0x2002), (6, 0x80000000)]
    s.settled [4, 5, 6] ∧ s.mayIssue ∧ 2 ^ 48 ≤ (s.reg 4).toNat ∧ (s.reg 5).toNat % 8 ≠ 0
      ∧ faults (s.translate (some 0) 0 0x80000000 (Acc.read .user)).2 .xlate = true
      ∧ goesTo (exec (.ld ⟨7, 5, false, .d, 0⟩) s) (fun t => t.me.seq.trapcause == 5 && t.me.seq.trapval1 == 8) = true := by
  unfold State.mayIssue State.settled; decide +kernel
/-- A load and a store of the running task, of local memory. -/
def ld0 : PendLoad := ⟨0, 0, 0x2000, at_ 0x2000, 8, 6, .plain true, false, s0.here⟩
/-- See `ld0`. -/
def st0 : PendStore := ⟨0, 0, 0x2000, at_ 0x2000, 8, 0x1122334455667788, .plain, false, s0.here⟩
/-- The state with a store of a kind in the queue. -/
def withStore (x : PendStore) : State := withPipe fun p => { p with stores := [x] }
/-- The state with an outstanding load. -/
def withLoad (x : PendLoad) : State := withPipe fun p => { p with loads := [x] }
/-- LoadReturns: the widest load and the narrowest. -/
theorem witness_LoadReturns :
    let one := { ld0 with bytes := 1 }
    (withLoad ld0).me.pipe.loads.find? (fun x => x.id == ld0.id) = some ld0 ∧ ld0.owner = (withLoad ld0).here
      ∧ (withLoad ld0).reaches 0 ld0.target 8 false ∧ (withLoad one).me.pipe.loads.find? (fun x => x.id == one.id) = some one
      ∧ (withLoad one).reaches 0 one.target 1 false ∧ (withLoad ld0).me.task = some task0 := by
  unfold State.reaches; decide +kernel
/-- StorePerforms: a store that may perform; its bytes lie in memory afterwards, the least significant lowest (00 R2). -/
theorem witness_StorePerforms :
    (withStore st0).me.pipe.stores.find? (fun x => x.id == st0.id) = some st0 ∧ st0.owner = (withStore st0).here
      ∧ (withStore st0).reaches 0 st0.target 8 true ∧ (withStore st0).noneWait ∧ (withStore st0).Inv
      ∧ goesTo (exec (.storeAcknowledge 0 0 false) (withStore st0))
          (fun t => t.readPhysBytes none 0x2000 8 == [0x88, 0x77, 0x66, 0x55, 0x44, 0x33, 0x22, 0x11]) = true := by
  refine ⟨by decide +kernel, by decide +kernel, ?_, noneWait_of_alone (by decide +kernel), ?_, by decide +kernel⟩
  · unfold State.reaches; decide +kernel
  · unfold State.Inv; decide +kernel
/-- StoreForwarding: a byte inside the queued store, and a doubleword that only overlaps it. -/
theorem witness_StoreForwarding :
    let s : State := m0.mapPipe fun p => { p with stores := [st0] }
    let half : State := m0.mapPipe fun p => { p with stores := [{ st0 with bytes := 4 }] }
    s.mayIssue ∧ s.settled [4, 6] ∧ s.loadsOut < 16 ∧ s.overlapStore (at_ 0x2007) 1 = some st0
      ∧ (at_ 0x2007).within 1 st0.target 8 = some 7 ∧ s.overlapAtomic (at_ 0x2007) 1 = false ∧ (at_ 0x2007).isUc = false
      ∧ half.overlapStore (at_ 0x2000) 8 = some { st0 with bytes := 4 } ∧ (at_ 0x2000).within 8 st0.target 4 = none := by
  unfold State.mayIssue State.settled; decide +kernel
/-- Atomics: an outstanding AMOADD that may perform, and what it leaves (14 Table SYN-1). -/
theorem witness_Atomics :
    let a : PendAtomic := ⟨0, 0, 0x2000, at_ 0x2000, 6, .add, 3, 0, false, false, s0.here⟩
    let s : State := { (withPipe fun p => { p with atomics := [a] }) with mem := Memory.writeBytes mem0 0x2000 [0xFF, 0xFF] }
    s.me.pipe.atomics.find? (fun y => y.id == a.id) = some a ∧ a.owner = s.here ∧ s.reaches 0 a.target 8 false ∧ s.noneWait
      ∧ s.Inv ∧ s.holds none 0x2000 8 0xFFFF
      ∧ goesTo (exec (.atomicAtHome 0 0) s)
          (fun t => t.readPhysBytes none 0x2000 4 == [2, 0, 1, 0] && t.reg 6 == 0xFFFF) = true := by
  refine ⟨by decide +kernel, by decide +kernel, ?_, noneWait_of_alone (by decide +kernel), ?_, ?_, by decide +kernel⟩
  · unfold State.reaches; decide +kernel
  · unfold State.Inv; decide +kernel
  · unfold State.holds; decide +kernel
/-- Fences: a fence with nothing before it, and one that a store holds. -/
theorem witness_Fences :
    let f : PendFence := ⟨1, 9, 2, [(0, 1)], false, s0.here⟩
    let s := withPipe fun p => { p with fences := [f] }
    let held := withPipe fun p => { p with fences := [f], stores := [st0] }
    s.me.pipe.fences.find? (fun x => x.id == f.id) = some f ∧ f.owner = s.here ∧ s.settled [8]
      ∧ s.fenceDone f.owner [(0, 1)] 2 false = true ∧ held.fenceDone f.owner [(0, 1)] 2 false = false ∧ f.mask.toNat < 8 := by
  unfold State.settled; decide +kernel
/-- FutureWords: a future that is empty, one that is full, and FPUT, FCLR and FTEST that may perform. -/
theorem witness_FutureWords :
    let pa := 0x40002000
    let place : Target := .mem pa none .wb true
    let s := withRegs [(4, 0x40002000), (5, 7)]
    let full : State := { s with fullBits := [pa] }
    let put : PendStore := { st0 with va := 0x40002000, target := place, kind := .fput, rel := true }
    let clr : PendStore := { put with kind := .fclr, rel := false }
    let test : PendLoad := { ld0 with target := place, kind := .fullBit }
    s.mayIssue ∧ s.settled [4, 5, 6] ∧ finds (s.checked 0x40002000 8 { Acc.read s.priv with future := true }).2 place = true
      ∧ finds (s.checked 0x40002000 8 { Acc.read s.priv with wr := true, future := true }).2 place = true
      ∧ s.clearOf place 8 ∧ s.mayRead place 8 ∧ s.fullBit pa = false ∧ full.fullBit pa = true ∧ full.holds none pa 8 0
      ∧ (withStore put).reaches 0 place 8 true ∧ (withStore put).me.pipe.allBefore put.owner 0 = true
      ∧ (withStore clr).reaches 0 place 8 true ∧ (withLoad test).reaches 0 place 8 false
      ∧ goesTo (exec (.storeAcknowledge 0 0 false) (withStore put)) (fun t => t.fullBits == [pa]) = true := by
  unfold State.mayIssue State.settled State.clearOf State.mayRead State.holds State.reaches; decide +kernel
/-- Barriers: an object with two arrivals to come and one with its last, whose RELOAD and CARRY make the next PENDING,
a BAREXP at the largest sum, and a token that waits for the phase (04 R78). -/
theorem witness_Barriers :
    let x : PendStore := { st0 with bytes := 16, kind := .bararr, rel := true }
    let object (n : Byte) : List Host.Cell :=
      Memory.writeBytes mem0 0x2000 [9, 0, 0, 0, n, 0, 0, 0, 4, 0, 0, 0, 1, 0, 0, 0]
    let bar : PendBar := ⟨6, 0x2000, at_ 0x2000, 9, s0.here⟩
    let s (n : Byte) : State := { withStore x with mem := object n }
    let waits : State := { (withPipe fun p => { p with stores := [x], bartoks := [bar] }) with mem := object 1 }
    (s 2).reaches 0 x.target 16 true ∧ (s 2).me.pipe.allBefore x.owner 0 = true ∧ (s 2).Inv
      ∧ (s 2).holds none 0x2000 4 9 ∧ (s 2).holds none 0x2004 4 2 ∧ (s 1).holds none 0x2008 4 4 ∧ (s 1).holds none 0x200C 4 1
      ∧ waits.me.pipe.bartoks = [bar] ∧ bar.owner = waits.here ∧ bar.phase = (9 : Word).setWidth 32 ∧ waits.reaches 0 x.target 16 true
      ∧ goesTo (exec (.storeAcknowledge 0 0 false) (s 2)) (fun t => t.readPhysBytes none 0x2000 8 == [9, 0, 0, 0, 1, 0, 0, 0]) = true
      ∧ goesTo (exec (.storeAcknowledge 0 0 false) waits)
          (fun t => t.readPhysBytes none 0x2000 16 == [10, 0, 0, 0, 5, 0, 0, 0, 4, 0, 0, 0, 0, 0, 0, 0] && t.reg 6 == 10) = true
      ∧ (at_ 0x2000).isWb = true ∧ m0.mayRead (at_ 0x2000) 16 := by
  unfold State.reaches State.mayRead State.holds State.Inv; decide +kernel

/-! ## Witnesses: control pages, tiles and power -/

/-- ControlPages: a store to each register of the page, a BUSY page, a load of the counters, and entries to drop. -/
theorem witness_ControlPages :
    let place (off : Nat) : Target := .ctrl 0 0 off
    let x (off : Nat) : PendStore := { st0 with target := place off, value := 0xFFFFFFFFFFFFFFFF }
    let l (off : Nat) : PendLoad := { ld0 with target := place off }
    let busy : CtrlPage := { CtrlPage.reset with busy := true }
    let b : State := { withStore (x 0) with paddocks := [{ pdk0 with ctrl := busy :: List.replicate 3 CtrlPage.reset }] }
    (withStore (x 0x010)).reaches 0 (place 0x010) 8 true ∧ (withStore (x 0x010)).paddock? 0 = some pdk0
      ∧ pdk0.ctrlOf 0 = some CtrlPage.reset ∧ CtrlPage.reset.busy = false ∧ CtrlPage.reset.holdBusy = false
      ∧ (x 8).value.getLsbD 0 = true ∧ busy.busy = true ∧ b.paddock? 0 = some { pdk0 with ctrl := busy :: List.replicate 3 CtrlPage.reset }
      ∧ ctrlReg 0 0x2000 = .inglim 0 ∧ s0.coreRegOk pdk0 0 = true ∧ s0.me.fabric.config = none
      ∧ (withLoad (l 0x038)).reaches 0 (place 0x038) 8 false ∧ ctrlReg 0 0x5838 = .partcnt 0 7 ∧ ctrlReg 0 0x8000 = .loftstat 0
      ∧ s0.me.loft.blockClk.length = 8
      ∧ goesTo (exec (.registerWrite (.store 0 0)) (withStore (x 0x010))) (fun t =>
          ((t.paddock? 0).bind fun p => p.ctrlOf 0) == some { CtrlPage.reset with
            agingA := 31, devD := 7, droopK := 15, pwait := 0xFFFF, preen := true }) = true := by
  unfold State.reaches; decide +kernel
/-- ControlPages: no access that would use a dropped entry is in flight. -/
theorem witness_ControlPages_idle : s0.usesDropped 0 0 0 (2 ^ 16) = false := by decide +kernel
/-- A Loft with one tile of one granule in slot 0. -/
def loft0 (st : TileState) : Loft :=
  { Loft.reset with tiles := [(0, { state := st, granules := [0], part := 0, pdk := 0, group := 0, allocBy := s0.here, byConfig := false })] }
/-- The running core with that Loft and its handle in s4, a stale handle in s5. -/
def withTile (st : TileState) : State := (withRegs [(4, 1), (5, 2)]).mapMe fun c => { c with loft := loft0 st }
/-- TileInstructions: TALLOC at the bounds of its operands, and a tile in each state with a current and a stale handle. -/
theorem witness_TileInstructions :
    let s := withRegs [(4, 2 ^ 21), (5, 2 ^ 16), (6, 0), (7, 2 ^ 21 + 1), (8, 0xFFFF)]
    let got : State := withTile .pinned |>.mapPipe fun p => { p with tallocWait := true }
    s.mayIssue ∧ s.settled [4, 5, 3] ∧ s.me.pipe.tallocWait = false ∧ s.partMax 7 = 512 ∧ s.partMax 0 = 512
      ∧ ((s.reg 4).toNat + 4095) / 4096 = 512 ∧ (s.reg 5).toNat = 2 ^ 16 ∧ (s.reg 6).toNat = 0 ∧ 2 ^ 21 < (s.reg 7).toNat
      ∧ goesTo (exec (.talloc ⟨3, 4, 8, false, false⟩ 7) s) (fun t => t.me.pipe.tallocWait) = true
      ∧ goesTo (exec (.talloc ⟨3, 4, 8, false, false⟩ 8) s) (fun t => t.me.seq.trapcause == 0x401 || t.me.seq.trapcause == 1) = true
      ∧ (got.mapMe fun c => { c with loft := { c.loft with granted := [(.sequencer, 1)] } }).me.loft.granted = [(.sequencer, 1)]
      ∧ pdk0.desc.ownsCore ((1 : BitVec 32).extractLsb' 22 10) = true ∧ (withTile .pinned).enabledCore 0 = true
      ∧ (withTile .pinned).tileMsgBehind 0 = false ∧ (withTile .pinned).settled [4, 5] ∧ (loft0 .pinned).gen 0 = (1 : BitVec 32).setWidth 13
      ∧ goesTo (exec (.tcons ⟨4, false⟩) (withTile (.counted 1 0))) (fun t => t.me.loft.tiles == [] && t.me.loft.gen 0 == 2) = true
      ∧ goesTo (exec (.tinfo ⟨6, 4, false⟩) (withTile (.counted 3 1))) (fun t => t.reg 6 == 0x100010003) = true := by
  unfold State.mayIssue State.settled; decide +kernel
/-- TileInstructions: a quota too small for the request. -/
theorem witness_TileInstructions_quota :
    let s : State := { s0 with paddocks := [{ pdk0 with desc := { desc0 with parts := List.replicate 8 (0, 1) } }] }
    s.partMax 0 = 1 ∧ 1 < (4097 + 4095) / 4096 := by decide +kernel
/-- LoftAndPower: a request that fits, an admission, a count that leaves one, the last count, a release and an answer. -/
theorem witness_LoftAndPower :
    let r : LoftReq := { who := .sequencer, granules := 512, count := 1, part := 7, pdk := 0, group := 0, task := s0.here }
    let asks : State := s0.mapMe fun c => { c with loft := { c.loft with incoming := [r] } }
    let m (k : TileMsgKind) : TileMsg := { id := 3, kind := k, reader := 0, home := 0, handle := 1, cmd := 9, operand := 0 }
    let s (k : TileMsgKind) (st : TileState) : State := { withTile st with tileMsgs := [m k] }
    let x : Consume := { handle := 1, cmd := 9, operand := 0, admitted := false, failed := none, passed := false, byConfig := false }
    asks.paddockOf 0 = some pdk0 ∧ asks.mcasts = [] ∧ (asks.loftAt 0).incoming = [r] ∧ (asks.loftAt 0).fifos = List.replicate 8 []
      ∧ (asks.loftAt 0).used 7 + 512 ≤ (pdk0.desc.parts.getD 7 (0, 0)).2
      ∧ 512 + (asks.loftAt 0).reserve pdk0.desc.parts 7 ≤ (asks.loftAt 0).free ∧ (asks.loftAt 0).tile? 0 = none
      ∧ (s .admission (.counted 2 1)).firstMsg 3 = some (m .admission) ∧ (s .count (.counted 1 1)).firstMsg 3 = some (m .count)
      ∧ ((s .release (.counted 1 1)).loftAt 0).gen 0 = (1 : BitVec 32).setWidth 13
      ∧ x.awaits (m (.answer true .none 0)) = true
      ∧ goesTo (exec (.loftGrantClk 0) asks) (fun t => t.me.loft.granted == [(.sequencer, 1)]) = true
      ∧ goesTo (exec (.tileCount 3) (s .count (.counted 1 1))) (fun t => t.me.loft.tiles == []) = true := by decide +kernel
/-- LoftAndPower: a core that alone waits for a token, one that has held it for 4,096 clk, and the largest JTOK. -/
theorem witness_LoftAndPower_tokens :
    let waits : State := s0.mapMe fun c => { c with join := { c.join with power := .waiting } }
    let holds : State := { (s0.mapMe fun c => { c with join := { c.join with power := .holding 0 } }) with clk := 4096 }
    (∀ x, (waits.coreAt x).join.power = .waiting ↔ x = 0) ∧ (waits.die 0).ring.length = 20 ∧ 0 < (waits.die 0).ring.getD 19 0
      ∧ 0 < (waits.die 0).jtok ∧ (∀ k ∈ (waits.die 0).released, k < 20)
      ∧ (holds.coreAt 0).join.power = .holding 0 ∧ 0 + 4096 ≤ holds.clk
      ∧ s0.shares 0 + 7 * 160 ≤ (s0.die 0).pool := by
  refine ⟨fun x => ?_, by decide +kernel⟩
  simp only [State.coreAt]
  split
  · next h => exact ⟨fun _ => h, fun _ => rfl⟩
  · next h => exact ⟨(fun e => nomatch e), fun e => absurd e h⟩

/-! ## Witnesses: tasks and the Ostler -/

/-- Two levels of PACKAGE domain. -/
def levels0 (bound : Nat) : List LevelDesc := List.replicate 2 { count := 1, domain := .package, scope := .core, qbound := bound }
/-- The test Paddock with a group of two levels. -/
def pdk1 (bound : Nat) : Paddock := { pdk0 with groups := [{ Group.placed with levels := levels0 bound, counts := [1, 1] }] }
/-- Spawns: a record at 0x2000 with JOIN 1 below its queue's bound, and one at the bound. -/
theorem witness_Spawns :
    let bs : List Byte := [0, 1, 0, 0, 0, 0, 0, 0, 0, 2, 0, 0, 0, 0, 0, 0, 0, 0, 0, 0, 0, 0, 1, 0]
    let s (p : Paddock) : State := { m0 with mem := Memory.writeBytes mem0 0x2000 bs, paddocks := [p] }
    let other : Record := { rec0 with name := .level0 0 1, state := .queued, run := 0 }
    let full : Paddock := { pdk1 1 with records := [rec0, other] }
    let l : LevelDesc := { count := 1, domain := .package, scope := .core, qbound := 0 }
    (s (pdk1 0)).mayIssue ∧ (s (pdk1 0)).settled [4] ∧ finds ((s (pdk1 0)).checked 0x2000 32 (Acc.both .user)).2 (at_ 0x2000) = true
      ∧ (s (pdk1 0)).accessError (some 0) (at_ 0x2000) 32 false = none
      ∧ (s (pdk1 0)).quiet = true ∧ (s (pdk1 0)).me.task = some task0 ∧ (pdk1 0).levelOf 0 1 = some l
      ∧ (pdk1 0).record? (.spawned 0x2000) = none ∧ (pdk1 0).bounded .package < (pdk1 0).boundAt l .package
      ∧ ((s (pdk1 0)).spawnQueue l) = .package ∧ full.boundAt { l with qbound := 1 } .package ≤ full.bounded .package
      ∧ goesTo (exec (.spawn ⟨4, false⟩ false false false false) (s (pdk1 0)))
          (fun t => ((t.paddock? 0).map fun p => p.records.map fun r => (r.code, r.join)) == some [(0, 0), (0x100, 1)]) = true
      ∧ goesTo (exec (.spawn ⟨4, false⟩ true false false false) (s full)) (fun t => t.me.seq.trapval1 == 1) = true := by
  unfold State.mayIssue State.settled; decide +kernel
/-- A record at 0x3000 that waits for two tiles, its frame at 0x2000. -/
def waits0 : Record := { rec0 with name := .spawned 0x3000, join := 2, frame := 0x2000, state := .joining }
/-- TileSends: the last port, and a handle with upper bits. -/
theorem witness_TileSends :
    let s : State := { withRegs [(4, 0x3000), (5, 0xFFFFFFFF), (6, 2 ^ 32)] with paddocks := [{ pdk0 with records := [rec0, waits0] }] }
    s.mayIssue ∧ s.settled [4, 5, 6] ∧ s.quiet = true ∧ s.noneWait ∧ s.Inv ∧ (s.reg 5).toNat < 2 ^ 32 ∧ 2 ^ 32 ≤ (s.reg 6).toNat
      ∧ s.record? (ownerOf 0 (.spawned 0x3000)) = some waits0
      ∧ finds (s.translate none 0 0x203C (Acc.write .paddock)).2 (at_ 0x203C) = true
      ∧ finds (s.translate none 0 0x203C (Acc.write .paddock).byEngine).2 (at_ 0x203C) = true ∧ s.accessError none (at_ 0x203C) 4 true = none
      ∧ goesTo (exec (.tsend ⟨4, 5, false, false⟩ 15) s) (fun t => t.readPhysBytes none 0x203C 4 == [255, 255, 255, 255]) = true := by
  refine ⟨?_, ?_, by decide +kernel, noneWait_of_alone (by decide +kernel), ?_, by decide +kernel⟩
  · unfold State.mayIssue; decide +kernel
  · unfold State.settled; decide +kernel
  · unfold State.Inv; decide +kernel
/-- Where no core, message, shadow write, remote command or group has work of the running task, nothing of it is out. -/
theorem nothingOut_of {s : State} (h : s.allIn = true)
    (hc : ∀ c ∈ s.cores, (∀ f ∈ c.pipe.fences, f.owner ≠ s.here) ∧ (∀ b ∈ c.pipe.bartoks, b.owner ≠ s.here)
      ∧ (∀ e ∈ c.pipe.fempties, e.owner ≠ s.here) ∧ (∀ k ∈ c.commands, k.owner ≠ s.here) ∧ ∀ k ∈ c.done, k.owner ≠ s.here)
    (hm : s.mcasts = []) (hx : s.shadows = []) (hr : s.hub.remoteWaits = [])
    (hg : ∀ p ∈ s.paddocks, ∀ g ∈ p.groups, g.sink = .none) (hl : s.me.fabric.loading = none)
    (hf : s.me.fabric.config = none) : s.nothingOut := by
  refine ⟨h, hc, by simp [hm], by simp [hx], by simp [hr], fun p hp g hg' c k hk => ?_, by simp [hl], by simp [hf]⟩
  simp [hg p hp g hg'] at hk
/-- TaskEnds: a task with nothing outstanding, without a parent and with one that waits for two, and a caller that waits. -/
theorem witness_TaskEnds :
    let child : Task := { task0 with parent := 0x3000 }
    let s : State := { s0 with paddocks := [{ pdk0 with records := [rec0, waits0] }], me := { s0.me with task := some child } }
    let sup : State := handler0
    s0.mayIssue ∧ s0.nothingOut ∧ s.nothingOut ∧ s0.noneWait ∧ s.noneWait ∧ s0.me.consumes = [] ∧ s.shadows = []
      ∧ child.parent ≠ 0 ∧ child.owner.name ≠ .spawned child.parent ∧ s.record? (ownerOf 0 (.spawned 0x3000)) = some waits0
      ∧ 1 < waits0.join ∧ sup.me.seq.status.priv = .paddock ∧ sup.me.task = some task0 ∧ sup.me.callers = []
      ∧ goesTo (exec .etrig s) (fun t => (t.me.task.map (·.triggered)) == some true) = true
      ∧ goesTo (exec .halt sup) (fun t => t.me.task == none) = true
      ∧ goesTo (exec .retire s0) (fun t => t.me.task == none && ((t.paddock? 0).map fun p => p.records) == some []) = true := by
  refine ⟨?_, nothingOut_of (by decide +kernel) (by decide +kernel) rfl rfl rfl (by decide +kernel) rfl rfl,
    nothingOut_of (by decide +kernel) (by decide +kernel) rfl rfl rfl (by decide +kernel) rfl rfl, noneWait_of_alone (by decide +kernel), noneWait_of_alone (by decide +kernel),
    by decide +kernel⟩
  unfold State.mayIssue; decide +kernel
/-- Yields: a task without tiles with nothing outstanding and the last save area of a 4 KiB stretch. -/
theorem witness_Yields :
    let s := withRegs [(4, 0x2D80), (63, 9)]
    s.mayIssue ∧ s.settled [4] ∧ s.me.task = some task0 ∧ s.me.callers = [] ∧ s.me.seq.status.tile = false
      ∧ finds (s.checked 0x2D80 64 (Acc.write s.priv)).2 (at_ 0x2D80) = true ∧ (0x2D80 : Word).toNat % 4096 ≤ 3456 ∧ s.allIn = true
      ∧ s.accessError (some 0) (at_ 0x2D80) 640 true = none
      ∧ s.noneWait ∧ s.Inv ∧ s.me.pipe.divUnit = none ∧ s.me.pipe.fempties = [] ∧ s.record? task0.owner = some rec0
      ∧ goesTo (exec (.yield ⟨4, 0, false, false⟩ .none) s)
          (fun t => t.readPhysBytes none 0x2F78 9 == [9, 0, 0, 0, 0, 0, 0, 0, 255] && t.readPhysBytes none 0x2F88 1 == [4]) = true := by
  refine ⟨?_, ?_, by decide +kernel, by decide +kernel, by decide +kernel, by decide +kernel, by decide +kernel, by decide +kernel,
    by decide +kernel, noneWait_of_alone (by decide +kernel), ?_, by decide +kernel⟩
  · unfold State.mayIssue; decide +kernel
  · unfold State.settled; decide +kernel
  · unfold State.Inv; decide +kernel
/-- Dispatches: one record ready in the deque of core 0, idle for DISPATCH_CLK and running for RUNQ. -/
theorem witness_Dispatches :
    let r : Record := { rec0 with name := .level0 0 7, state := .queued, queue := .deque 0, run := 0, code := 0x100, frame := 0x2000 }
    let idle : State := { State.reset with paddocks := [{ pdk0 with records := [r] }] }
    let runs : State := { s0 with paddocks := [{ pdk0 with records := [r, rec0] }] }
    idle.coreFree 0 = true ∧ desc0.ownsCore 0 = true ∧ idle.inClk.taken = [] ∧ r.base < 4 ∧ (∀ x ∈ [rec0], x.state ≠ .queued ∧ x.name ≠ r.name)
      ∧ runs.mayIssue ∧ runs.settled [5] ∧ runs.me.task = some task0 ∧ runs.me.callers.length < 4
      ∧ goesTo (exec (.dispatchClk 0) idle) (fun t => t.me.seq.pc == 0x100 && t.reg 1 == 0x2000 && t.reg 3 == 7) = true
      ∧ goesTo (exec (.runq 5) runs) (fun t => t.me.seq.pc == 0x100 && t.me.callers.length == 1) = true := by
  unfold State.mayIssue State.settled; decide +kernel
/-- Whether both control lanes take events. -/
def lanes (s : State) : Bool :=
  [Lane.lane0, .lane1].all fun l => (s.hub.lane l).up && !(s.hub.lane l).blocked && (s.hub.lane l).buffer == [] && (s.hub.lane l).lost == 0
/-- Then `State.lanesUp` holds. -/
theorem lanesUp_of {s : State} (h : lanes s = true) : s.lanesUp := by
  simp only [lanes, List.all_cons, List.all_nil, Bool.and_eq_true, beq_iff_eq, Bool.not_eq_true', Bool.and_true] at h
  obtain ⟨⟨⟨⟨h1, h2⟩, h3⟩, h4⟩, ⟨⟨h5, h6⟩, h7⟩, h8⟩ := h
  intro l
  cases l
  · exact ⟨h1, h2, h3, h4⟩
  · exact ⟨h5, h6, h7, h8⟩
/-- Groups: the generator below its bound, and a group that is finished. -/
theorem witness_Groups :
    let g : Group := { Group.placed with next := 0, entry := 0x100, fbase := 0x2000, sink := .message 5 }
    let p : Paddock := { pdk0 with records := [], groups := [g] }
    let ended : Group := { g with next := 1 }
    let s (g : Group) : State := { State.reset with paddocks := [{ p with groups := [g] }] }
    (s g).paddock? 0 = some p ∧ p.group? 0 = some g ∧ g.next < g.counts.headD 0
      ∧ (∀ l, g.levels = [l] → p.bounded .package < p.boundAt l .package) ∧ ended.counts.headD 0 ≤ ended.next
      ∧ (s ended).tilesOf 0 0 = [] ∧ ended.doneFut = 0 ∧ (s ended).hub.lane0.queue = [] ∧ lanes (s ended) = true ∧ (s ended).lingers { p with groups := [ended] } 0 = false
      ∧ goesTo (exec (.generatorEnqueue 0 0) (s g)) (fun t => ((t.paddock? 0).map fun p => p.records.map (·.frame)) == some [0x2000]) = true
      ∧ goesTo (exec (.groupRetire 0 0) (s ended)) (fun t => (t.hub.sent.map fun e => e.2.tag) == [5]) = true := by
  refine ⟨by decide +kernel, by decide +kernel, by decide +kernel, ?_, by decide +kernel⟩
  intro l h
  obtain ⟨rfl⟩ := (List.cons.inj h).1
  decide +kernel
/-- A ready record of the highest priority that has waited PWAIT clk, beside a task of the lowest. -/
def ready0 : Record := { rec0 with name := .level0 0 1, state := .queued, queue := .deque 0, run := 0 }
/-- Preemptions: a record that may pre-empt, a drain that is complete, and one whose window ends at its last instant. -/
theorem witness_Preemptions :
    let p : Paddock := { pdk0 with records := [rec0, ready0] }
    let s : State := { s0 with clk := 1024, paddocks := [p], me := { s0.me with task := some { task0 with effPrio := 3 } } }
    let d (n : Nat) : State := tile0.mapMe fun c => { c with stopping := some none, fabric := { c.fabric with drain := some { instants := n } } }
    let k : Cmd := ⟨0, 0, 0, s0.here, .user, 5, none, [], .no⟩
    let open_ : State := (d 65536).mapMe fun c => { c with join := { c.join with inbox := [k] } }
    s.mayPreempt p ready0 = true ∧ s.effOf p ready0 < 4 ∧ (s.victimFor p ready0).isSome = true
      ∧ (d 0).me.fabric.drain = some { instants := 0 } ∧ (d 0).me.stopping = some none ∧ (d 0).record? task0.owner = some rec0
      ∧ (d 0).drained = true ∧ open_.drained = false ∧ open_.drainWindow 0 ≤ 65536
      ∧ goesTo (exec (.preemption 0) s) (fun t => t.me.stopping == some (some (ownerOf 0 (.level0 0 1)))) = true
      ∧ goesTo (exec (.drainWindowEnd 0) open_) (fun t => t.me.task == none) = true := by decide +kernel
/-- HeldRecords: a task that may be replayed, one past its horizon, and an action on a held record and on no record. -/
theorem witness_HeldRecords :
    let may : State := withStatus fun st => { st with tile := true, rpl := true }
    let held : Record := { rec0 with name := .spawned 0x3000, state := .held, wkind := .held, hcode := 0x70, run := 0 }
    let page (a : BitVec 2) (done : Bool) : CtrlPage := { CtrlPage.reset with holdAction := a, holdAddr := 0x3000, holdBusy := true, holdDone := done }
    let p (a : BitVec 2) (done : Bool) (rs : List Record) : Paddock :=
      { pdk0 with records := rs, ctrl := page a done :: List.replicate 3 CtrlPage.reset }
    let s (a : BitVec 2) (done : Bool) (rs : List Record) : State := { s0 with paddocks := [p a done rs] }
    may.replayUnit pdk0 task0 .fabric = true ∧ rec0.replays < desc0.maxReplay.toNat ∧ may.record? task0.owner = some rec0
      ∧ (p 1 false []).record? (page 1 false).named = none ∧ (p 3 false [held]).record? (page 3 false).named = some held
      ∧ held.parent = 0 ∧ held.image = none ∧ (∀ x ∈ [held], x.group = held.group → x = held)
      ∧ (p 1 true [held]).ctrlOf 0 = some (page 1 true)
      ∧ goesTo (exec (.softError 0 .fabric) may) (fun t => t.hub.sent.any fun e => e.2.type == .replay) = true
      ∧ goesTo (exec (.requeue 0 0) (s 1 false [held])) (fun t => ((t.paddock? 0).map fun p => p.records.map (·.hcode)) == some [0]) = true
      ∧ goesTo (exec (.abortGroup 0 0) (s 3 false [held])) (fun t => ((t.paddock? 0).map fun p => p.records) == some []) = true := by
  decide +kernel
/-- DeadlockReports: the only task of a Paddock waits for a future that nobody else can fill, now and at the last sample. -/
theorem witness_DeadlockReports :
    let m : Member := { core := 0, akind := 0, okind := 3, unit := 0, object := 0x40002000, pdk := 0 }
    let s : State := s0.mapMe fun c => { c with block := { okind := 3, detail := 0, object := 0x40002000 } }
    let s : State := { s with clk := 32768, hub := { s.hub with sampledAt := some 0, lastSample := [[m]] } }
    s.waitSets = [[m]] ∧ s.clk % 2 ^ 15 = 0 ∧ s.hub.sampledAt = some (s.clk - 2 ^ 15) ∧ s.hub.reported = []
      ∧ s.supervisor pdk0 = some 0
      ∧ goesTo (exec .deadlockSample s) (fun t => (t.me.pipe.traps.map fun x => x.info.code) == [.deadlock]) = true := by
  decide +kernel

/-! ## Witnesses: commands, ports and configurations -/

/-- A packet's bytes written to memory. -/
def packetAt (a : Nat) (p : Packet) (m : List Host.Cell) : List Host.Cell := Memory.writeBytes m a ((List.range 16).map fun i => p.extractLsb' (8 * i) 8)
/-- FILL of sixteen bytes with 0xAB at 0x3000, its token s9. -/
def fill0 : Packet := encodePacket (.fill 9 (.direct 0x3000 16 0xAB))
/-- A shadow write of local memory by command 0, with the completion that follows it. -/
def shadow0 : Shadow :=
  { id := 3, core := 0, owner := s0.here, cmd := 0, isJoin := false, scope := .core, runs := [⟨at_ 0x2000, [1, 2]⟩], start := 0x2000,
    len := 2, completion := some ⟨0, 9, 0x20000, .none, 0x100, s0.here⟩, followOn := none, leaf := none }
/-- CommandIssue: a packet with an opcode of an engine, a full inbox, an opcode of none, a CMDM whose slot reaches bit 95, a
completion of this task and of s0, and a shadow write. -/
theorem witness_CommandIssue :
    let s (p : Packet) : State := { m0 with mem := packetAt 0x2000 p mem0 }
    let bad : Packet := fill0 ||| (0xFF#128 <<< 120)
    let k : Cmd := ⟨7, 0, fill0, s0.here, .user, 9, none, [], .no⟩
    let full : State := (s fill0).mapMe fun c => { c with bte := List.replicate 16 k }
    let x : Completion := ⟨7, 9, 5, .none, 0x100, s0.here⟩
    let y : Completion := { x with tok := 0, code := .xlate, word := 0x10 }
    let done (x : Completion) : State := s0.mapMe fun c => { c with done := [x] }
    let pub : State := { s0 with shadows := [shadow0] }
    (s fill0).mayIssue ∧ (s fill0).settled [4, 5] ∧ finds ((s fill0).checked 0x2000 16 (Acc.read .user)).2 (at_ 0x2000) = true
      ∧ (s fill0).storesDone = true ∧ (s fill0).overlapLoad (at_ 0x2000) 16 = false
      ∧ (s fill0).accessError (some 0) (at_ 0x2000) 16 false = none ∧ headerCheck fill0 = none
      ∧ headerCheck (fill0 ||| (1#128 <<< 107)) = some (.header 107) ∧ pub.splits shadow0.runs = false
      ∧ pub.accessError (some 0) (at_ 0x2000) 2 true = none ∧ (s fill0).holdsPacket none 0x2000 fill0 ∧ (s fill0).me.portsWhole
      ∧ (s fill0).settled [fill0.extractLsb' 108 6] ∧ packetBox fill0 = some .bte ∧ boxCapacity .bte = 16
      ∧ (full.me.inbox .bte).length = 16 ∧ packetBox bad = none ∧ (done x).me.done = [x] ∧ x.owner = (done x).here
      ∧ (done y).me.task = some task0 ∧ pub.shadows.find? (fun z => z.id == 3) = some shadow0 ∧ pub.noneWait ∧ pub.Inv
      ∧ goesTo (exec (.cmd ⟨4, false⟩) (s fill0)) (fun t => (t.me.bte.map (·.packet)) == [fill0] && !t.me.seq.isFull 9) = true
      ∧ goesTo (exec (.cmdm ⟨4, 5, false, false⟩ .high48) (s fill0))
          (fun t => t.me.bte.map (fun k => k.packet.extractLsb' 48 48) == [0x334455667788]) = true
      ∧ goesTo (exec (.cmd ⟨4, false⟩) full) (fun t => t.me.block.okind == 10) = true
      ∧ goesTo (exec (.cmd ⟨4, false⟩) (s bad)) (fun t => t.me.done.map (·.word) == [0x780361]) = true
      ∧ goesTo (exec (.cmd ⟨4, false⟩) (s (fill0 ||| (1#128 <<< 107)))) (fun t => t.me.done.map (·.word) == [0x6B0361]) = true
      ∧ goesTo (exec (.commandCompletion 0 7) (done y)) (fun t => t.me.pipe.traps.map (·.info.code) == [.xlate]) = true
      ∧ goesTo (exec (.shadowPublish 3) pub) (fun t => t.readPhysBytes none 0x2000 2 == [1, 2] && t.me.done.map (·.tok) == [9]) = true := by
  refine ⟨?_, ?_, by decide +kernel, by decide +kernel, by decide +kernel, by decide +kernel, by decide +kernel, by decide +kernel,
    by decide +kernel, by decide +kernel, ?_, ?_, ?_, by decide +kernel, by decide +kernel, by decide +kernel,
    by decide +kernel, by decide +kernel, by decide +kernel, by decide +kernel, by decide +kernel,
    noneWait_of_alone (by decide +kernel), ?_, by decide +kernel⟩
  · unfold State.mayIssue; decide +kernel
  · unfold State.settled; decide +kernel
  · unfold State.holdsPacket; decide +kernel
  · unfold Core.portsWhole; decide +kernel
  · unfold State.settled; decide +kernel
  · unfold State.Inv; decide +kernel
/-- A CNT element at position 0, with no input, predicate or enable (08 Table FAB-6). -/
def elem0 : ElemRec :=
  { index := 0, mode := .cnt, ins := List.replicate 4 ⟨.none, false, 0, 1⟩, pred := none, enab := .none, params := List.replicate 8 0 }
/-- An image of that element alone, with ingress port 3 and egress port 5 in use. -/
def image0 : Image :=
  { period2 := false, draw := 0, root := 0, elems := [{ elem0 with ins := ⟨.ingress 3, false, 0, 1⟩ :: List.replicate 3 ⟨.none, false, 0, 1⟩ }],
    egress := List.replicate 5 none ++ [some ⟨0, 0, false, 0, 8⟩] ++ List.replicate 10 none }
/-- A load of it. -/
def load0 : Loading :=
  { id := 2, addr := 0x100, tok := 9, owner := s0.here, priv := .user, image := image0, isGraph := false, hash := [], since := 0 }
/-- The test task as a tile task with the configuration running. -/
def runs0 : State := tile0.mapMe fun c => { c with fabric := { c.fabric with config := some (RunConfig.start load0) } }
/-- A read of a port register that is out. -/
def read0 : PendPort := ⟨2, 6, 9, s0.here⟩
/-- PortsAndConfigurations: the last port register of each range and the first of each gap, a read that returns, and a
parameter to write. -/
theorem witness_PortsAndConfigurations :
    let e := ElemState.start (image0.elems.headD elem0)
    let out : State := (s0.setEmpty 6).mapPipe fun p => { p with nextId := 3, prds := [read0] }
    runs0.settled [4, 5] ∧ runs0.isTileTask = true ∧ runs0.me.fabric.config = some (RunConfig.start load0)
      ∧ (RunConfig.start load0).elem? 0 = some e ∧ e.accepts 1 0 = true ∧ e.accepts 5 5 = false ∧ s0.me.fabric.config = none
      ∧ goesTo (exec (.prd ⟨6, 4, false⟩) (runs0.put 4 959)) (fun t => t.me.seq.pc == 4) = true
      ∧ goesTo (exec (.prd ⟨6, 4, false⟩) (runs0.put 4 960)) (fun t => t.me.seq.trapval1 == 0x25) = true
      ∧ goesTo (exec (.prd ⟨6, 4, false⟩) (s0.put 4 2048)) (fun t => t.me.seq.pc == 4) = true
      ∧ goesTo (exec (.prd ⟨6, 4, false⟩) (s0.put 4 4097)) (fun t => t.me.pipe.prds.map (·.value) == [0] && !t.me.seq.isFull 6) = true
      ∧ out.me.pipe.prds.find? (fun y => y.id == read0.id) = some read0 ∧ read0.owner = out.here ∧ out.me.pipe.loads = []
      ∧ goesTo (exec (.loadReturn 0 2 false) out) (fun t => t.reg 6 == 9 && t.me.seq.isFull 6 && t.me.pipe.prds == []) = true
      ∧ goesTo (exec (.instq 6) (s0.mapMe fun c => { c with fabric := { c.fabric with lastCount := 7 } })) (fun t => t.reg 6 == 7) = true
      ∧ goesTo (exec (.pwr ⟨4, 5, false, false⟩) ((runs0.put 4 2053).put 5 5)) (fun t => t.me.seq.trapval1 == 0x26) = true
      ∧ goesTo (exec (.instq 6) runs0) (fun t => t.reg 6 == 0x8000000000000000) = true := by
  unfold State.settled; decide +kernel
/-- The header of a compressed image (08 Table FAB-5): columns of 40 and 11 bytes, no port in use. -/
def header0 : List Byte :=
  [0xA7, 0xD5, 1, 2, 0, 0, 0, 0] ++ List.replicate 24 0 ++ [40, 0, 0, 0] ++ (List.replicate 11 [11, 0, 0, 0]).flatten
    ++ (List.replicate 16 [0x7F, 0]).flatten ++ List.replicate 16 0
/-- Its columns (08 R156, Table FAB-6): record 0 is a USED COUNT element in mode CNT, nothing connected; every other
word is 0. -/
def columns0 : List Byte :=
  [0xF0, 0x89, 0, 0, 0, 0, 0, 0, 0, 0xF0, 0xFF, 0, 0, 0, 0xFF, 0, 0, 0, 0xF1, 0, 0xF0, 0xFF, 0, 0xFF, 0, 0, 0, 0, 0,
   0xF0, 0, 0, 0, 0, 0, 0, 0, 0, 0xF1, 0x4A]
    ++ (List.replicate 11 [0xF0, 0, 0, 0, 0, 0, 0, 0, 0, 0xF1, 0x4E, 0, 0, 0, 0, 0]).flatten
/-- A tile task with the image at 0x4000 and its address in s4. -/
def image1 : State :=
  { tile0.put 4 0x4000 with mem := Memory.writeBytes (Memory.writeBytes mem0 0x4000 header0) 0x4080 columns0 }
/-- PortsAndConfigurations: CFG of an image that can be read, of a task that is no tile task, at a misaligned address,
with a draw above the task's; a load that starts and one that times out. -/
theorem witness_PortsAndConfigurations_cfg :
    let graph : State := { (s0.mapMe fun c => { c with fabric := { c.fabric with loading := some { load0 with isGraph := true } } }) with
      clk := 2 ^ 22 }
    image1.mayIssue ∧ image1.settled [4, 9] ∧ image1.storesDone = true ∧ (image1.reg 4).toNat % 8 = 0 ∧ image1.me.fabric.config = none
      ∧ gets (image1.loadBytes 0x4000 128).2 (fun h => h == header0) = true ∧ image1.isTileTask = true ∧ image1.me.fabric.loading = none
      ∧ finds (image1.translate (some 0) image1.herePdk 0x4000 (Acc.read .user)).2 (at_ 0x4000) = true
      ∧ image1.accessError (some 0) (at_ 0x4000) 128 false = none ∧ image1.holds none 0x4004 2 0
      ∧ (0 : Word).toNat % 2 ^ 16 ≤ image1.hereDraw
      ∧ goesTo (exec (.cfg ⟨9, 4, false⟩ false) image1) (fun t => (t.me.fabric.loading.map fun l => (l.tok, l.image)) == some (9,
          { image0 with elems := [elem0], egress := List.replicate 16 none })) = true
      ∧ goesTo (exec (.cfg ⟨9, 4, false⟩ false) s0) (fun t => t.me.seq.trapval1 == 0x24) = true
      ∧ goesTo (exec (.cfg ⟨9, 4, false⟩ false) (image1.put 4 0x4004)) (fun t => t.me.seq.trapcause == 5) = true
      ∧ goesTo (exec (.configurationStart 0) (s0.mapMe fun c => { c with fabric := { c.fabric with loading := some load0 } }))
          (fun t => t.me.fabric.config.isSome) = true
      ∧ load0.since + 2 ^ 22 ≤ graph.clk
      ∧ goesTo (exec (.mappingTimeout 0) graph) (fun t => t.me.fabric.ffval0 == 6) = true := by
  unfold State.mayIssue State.settled State.holds; decide +kernel
/-- PortsAndConfigurations: an image whose draw exceeds what the task declared. -/
theorem witness_PortsAndConfigurations_draw :
    let s : State := { image1 with mem := Memory.writeBytes image1.mem 0x4004 [0xFF, 0xFF] }
    gets (s.loadBytes 0x4000 128).2 (fun h => s.hereDraw < natAt h 4 2) = true
      ∧ goesTo (exec (.cfg ⟨9, 4, false⟩ false) s) (fun t => t.me.seq.trapval0 == 0xFFFF) = true := by decide +kernel

/-! ## Witnesses: floating point -/

/-- FloatingPoint: 1 and 2, a NaN, two infinities, a division by zero, the root of −1, and a unit with a result. -/
theorem witness_FloatingPoint :
    let o : FpOps := ⟨3, 4, 5, false, false, true, .rne⟩
    let s (a b : Word) : State := withRegs [(4, a), (5, b)]
    let x (a : Word) : Machine.Num := Fmt.fp64.decode a.toNat
    let busy : State := withPipe fun p => { p with fpUnit := some pend0 }
    (s 0x3FF0000000000000 0x4000000000000000).settled [4, 5, 3] ∧ (s 0 0).me.pipe.fpUnit = none ∧ x 0x7FF8000000000000 = .nan
      ∧ x 0x7FF0000000000000 = .inf false ∧ x 0x3FF0000000000000 = .fin false (2 ^ 52) (-52) ∧ (x 0).isZero = true
      ∧ x 0xBFF0000000000000 = .fin true (2 ^ 52) (-52) ∧ busy.me.pipe.fpUnit = some pend0
      ∧ goesTo (exec (.fadd o) (s 0x3FF0000000000000 0x4000000000000000)) (fun t => t.reg 3 == 0x4008000000000000) = true
      ∧ goesTo (exec (.fsub o) (s 0x7FF0000000000000 0x7FF0000000000000))
          (fun t => t.reg 3 == 0x7FF8000000000000 && t.me.seq.fflags == 16) = true
      ∧ goesTo (exec (.fdiv o) (s 0x3FF0000000000000 0x8000000000000000))
          (fun t => t.me.pipe.fpUnit.map (·.value) == some 0xFFF0000000000000) = true := by
  unfold State.settled; decide +kernel
/-- ComparisonsConversions: −0 below +0, a NaN and a number, conversions at the bounds of i8 and past them, and
between integers. -/
theorem witness_ComparisonsConversions :
    let o : ROps := ⟨3, 4, 5, false, false⟩
    let s (a b : Word) : State := withRegs [(4, a), (5, b)]
    let x (a : Word) : Machine.Num := Fmt.fp64.decode a.toNat
    let c (dst src : ScalarFmt) (sat : Bool) (a v : Word) (nv : Bool) : Bool :=
      goesTo (exec (.cvt ⟨3, 4, false⟩ dst src .rne sat) (s a 0)) fun t => t.reg 3 == v && t.me.seq.fflags == (if nv then 16 else 0)
    (s 0 0).settled [4, 5, 3] ∧ (x 0x8000000000000000).isZero = true ∧ (x 0x8000000000000000).isNeg = true
      ∧ (x 0x3FF0000000000000).lt (x 0x4000000000000000) = true ∧ x 0x7FF8000000000000 = .nan
      ∧ goesTo (exec (.fmin o true) (s 0 0x8000000000000000)) (fun t => t.reg 3 == 0x8000000000000000) = true
      ∧ goesTo (exec (.fmax o true) (s 0x7FF8000000000000 0x3FF0000000000000)) (fun t => t.reg 3 == 0x3FF0000000000000) = true
      ∧ goesTo (exec (.fcmp o true .le) (s 0 0x7FF8000000000000)) (fun t => t.reg 3 == 0 && t.me.seq.fflags == 16) = true
      ∧ goesTo (exec (.fclass ⟨3, 4, false⟩ true) (s 0x8000000000000001 0)) (fun t => t.reg 3 == 4) = true
      ∧ c .i8 .fp64 true 0x405FC00000000000 127 false = true ∧ c .i8 .fp64 true 0x4060000000000000 127 true = true
      ∧ c .u8 .fp64 true 0xFFF0000000000000 0 true = true ∧ c .i32 .fp64 false 0x7FF8000000000000 0 true = true
      ∧ c .i8 .i32 true 0x80 0x7F true = true ∧ c .i8 .i32 false 0x80 0xFFFFFFFFFFFFFF80 true = true
      ∧ c .i8 .i32 true 0x7F 0x7F false = true ∧ c .b8a .b8a false 0x123 0x23 false = true
      ∧ c .fp32 .fp64 false 0x3FF8000000000000 0x3FC00000 false = true := by
  unfold State.settled; decide +kernel

/-! ## Witnesses: the fabric -/

/-- A command of the test task. -/
def cmd0 : Cmd := ⟨7, 0x100, 0, s0.here, .user, 9, none, [], .no⟩
/-- A state with its fabric changed. -/
def fab (s : State) (f : Fabric → Fabric) : State := s.mapMe fun c => { c with fabric := f c.fabric }
/-- A command at the head of every port and of the control inbox. -/
def heads (s : State) (k : Cmd) : State :=
  fab s fun f => { f with ingress := List.replicate 16 { Port.reset with queue := [k] }
                          egress := List.replicate 16 { Port.reset with queue := [k] }, control := [k] }
/-- FabricCommands: each command at its port, at aligned and misaligned addresses, with a tile that admits, with
counts 0 and 1, and with nothing loaded. -/
theorem witness_FabricCommands :
    let s := heads runs0 cmd0
    let idle := heads tile0 cmd0
    let t := s.mapMe fun c => { c with loft := loft0 (.counted 2 1) }
    let g := RunConfig.start load0
    let e := ElemState.start (image0.elems.headD elem0)
    let started (i : Instr) (s : State) (ingress : Bool) : Bool := goesTo (exec i s) fun u =>
      ((if ingress then portAt u.me.fabric.ingress 3 else portAt u.me.fabric.egress 5).run.map (·.cmd)) == some cmd0
    let fails (i : Instr) (s : State) (off : Nat) : Bool := goesTo (exec i s) fun u =>
      u.me.done.map (·.word) == [BitVec.ofNat 64 (0x361 + off * 65536)]
    s.me.portsWhole ∧ s.noneHolds cmd0 ∧ t.noneHolds cmd0 ∧ s.me.fabric.config = some g ∧ (image0.ingressDesc 3).isSome = true ∧ image0.egress.getD 5 none ≠ none
      ∧ g.controlTaken = false ∧ g.elem? 0 = some e ∧ e.accepts 1 0 = true ∧ t.paddock? 0 = some pdk0
      ∧ pdk0.desc.ownsCore 0 = true ∧ t.consumeOf 7 0 1 = none ∧ t.consumeOf 7 2 1 = none ∧ (loft0 (.counted 2 1)).gen 0 = 1
      ∧ idle.me.fabric.config = none ∧ idle.me.fabric.loading = none
      ∧ started (.feed ⟨9, 3, true, 0x2000, 1, 0⟩) s true = true ∧ fails (.feed ⟨9, 3, true, 0x2001, 1, 0⟩) s 0 = true
      ∧ started (.feedt ⟨9, 3, true, 1, 1, 7⟩) t true = true ∧ started (.feedc ⟨9, 3, false, 0, 1, 1, 0⟩) s true = true
      ∧ started (.eofi 9 3 7) s true = true ∧ started (.drain ⟨9, 5, false, 0x2000, 1⟩) s false = true
      ∧ fails (.drain ⟨9, 5, false, 0x2040, 1⟩) s 0 = true ∧ started (.draint ⟨9, 5, true, 1, 0⟩) t false = true
      ∧ goesTo (exec (.drain ⟨9, 5, false, 0x2000, 0⟩) s) (fun u => u.me.done.map (·.word) == [0]) = true
      ∧ goesTo (exec (.parm 9 0 1 0) s) (fun u => (u.me.fabric.config.map fun h => h.paramWrites.map (·.at_)) == some [4]) = true
      ∧ goesTo (exec (.arm 9 3) s) (fun u => (u.me.fabric.config.map fun h => h.arms.map (·.cols)) == some [3]) = true
      ∧ goesTo (exec (.haltf 9) s) (fun u => (u.me.fabric.config.map (·.halted)) == some (some cmd0)) = true
      ∧ fails (.feed ⟨9, 3, true, 0x2000, 1, 0⟩) idle 120 = true ∧ fails (.haltf 9) idle 120 = true := by
  unfold Core.portsWhole State.noneHolds; decide +kernel
/-- A THR at position 17 and a CTLM at 0, silent for 10 instants with a timeout of 10, each with an egress port. -/
def silent0 : State :=
  let thr : ElemRec := { elem0 with index := 17, mode := .thr, params := [0, 5, 10, 0, 0, 0, 0, 0] }
  let ctlm : ElemRec := { elem0 with mode := .ctlm, params := [0, 0, 10, 0, 5, 0, 0, 0] }
  let ports := [some ⟨17, 0, false, 0, 8⟩, some ⟨0, 0, false, 0, 8⟩] ++ List.replicate 14 none
  let image : Image := { image0 with elems := [ctlm, thr], egress := ports }
  let g := RunConfig.start { load0 with image := image }
  fab tile0 fun f => { f with config := some { g with elems := g.elems.map fun e => { e with nums := 10 :: List.replicate 15 0 } } }
/-- Instants: an instant that goes on, one that ends a configuration whose task halts it, and both timeouts. -/
theorem witness_Instants :
    let ends := fab runs0 fun f => { f with config := f.config.map fun g => { g with halted := some cmd0 } }
    let marked (i : Instr) (k : Nat) : Bool := goesTo (exec i silent0) fun t =>
      (t.me.fabric.config.map fun g => g.elems.map fun e => e.groups.length) == some ((List.replicate 2 0).set k 1)
    runs0.me.fabric.config = some (RunConfig.start load0) ∧ runs0.splits ((RunConfig.start load0).held.map (·.run)) = false
      ∧ goesTo (exec (.instant 0) runs0) (fun t => (t.me.fabric.config.map (·.instant)) == some 1) = true
      ∧ goesTo (exec (.instant 0) ends) (fun t => t.me.fabric.config == none) = true
      ∧ marked (.thrTimeout 0 17) 1 = true ∧ marked (.ctlmTimeout 0 0) 0 = true := by decide +kernel

/-! ## Witnesses: the join engine and block transfers -/

/-- A descriptor from its first bytes. -/
def desc64 (bs : List Byte) : Option (List Byte) := some (bs ++ List.replicate (64 - bs.length) 0)
/-- A command with a descriptor. -/
def cmdWith (d : Option (List Byte)) : Cmd := { cmd0 with desc := d }
/-- The references to the tiles of slots 0 and 1. -/
def refs0 : List Byte := [1, 0, 0, 0, 0, 0, 0, 0x40, 1, 0x20, 0, 0, 0, 0, 0, 0x40]
/-- Two tiles with bytes, both admitted to the command at the head of the join inbox, which holds a power token. -/
def joins (d : Option (List Byte)) (a b : List Byte) : State :=
  let k := cmdWith d
  let x (h : BitVec 32) (n : Nat) : Consume := ⟨h, 7, n, true, none, false, false⟩
  let t (g : Nat) : Tile :=
    { state := .counted 2 1, granules := [g], part := 0, pdk := 0, group := 0, allocBy := s0.here, byConfig := false }
  let cells := Memory.writeBytes (Memory.writeBytes [] 0 a) 4096 b
  tile0.mapMe fun c =>
    { c with loft := { c.loft with tiles := [(0, t 0), (1, t 1)], bytes := cells, written := [0, 16] }
             join := { c.join with inbox := [k], power := .holding 0 }, consumes := [x 1 0, x 0x2001 1] }
/-- FP32 operands. -/
def fp32 : JoinFmt := ⟨0, 0, 0, .rne⟩
/-- JoinEngine: 1 × 2 by a JDENSE of one row, a JSPARSE of two tuples that meet and of two that do not, a JGATH inside
and past its rows, a JFEED of one. -/
theorem witness_JoinEngine :
    let dense := joins (desc64 (refs0 ++ [1, 0, 0, 0])) [0, 0, 0x80, 0x3F] [0, 0, 0, 0x40]
    let tuple (c : Byte) (v : List Byte) : List Byte := [1, 0, 0, 0, 0, 0, 0, 0, c, 0, 0, 0, 6, 0, 0, 0] ++ v
    let sparse (c : Byte) := joins (desc64 refs0) (tuple 3 [0, 0, 0x80, 0x3F]) (tuple c [0, 0, 0, 0x40])
    let gather (c : Byte) := joins (desc64 (refs0 ++ [2, 0, 0, 0, 4, 0, 0, 0])) (tuple c [0, 0, 0x80, 0x3F]) [0, 0, 0, 0, 0, 0, 0, 0x40]
    let feed := joins none [5, 0, 0, 0, 0, 0, 0, 0, 0, 0, 0, 0x40] []
    let gives (i : Instr) (s : State) (w : Word) (es : List (Nat × Nat)) : Bool := goesTo (exec i s) fun t =>
      t.me.done.map (·.word) == [w] && t.me.join.entries.map (fun e => (e.2.key.toNat, e.2.value.toNat)) == es
    dense.me.join.inbox = [cmdWith (desc64 (refs0 ++ [1, 0, 0, 0]))] ∧ dense.me.join.power = .holding 0 ∧ dense.me.ranges = []
      ∧ dense.me.bte = [] ∧ dense.me.suspended = [] ∧ fmtPairs fp32 = true ∧ refOf (descWord refs0 0) = .tile 1
      ∧ refOf (descWord refs0 8) = .tile 0x2001 ∧ (dense.consumeOf 7 1 0x2001).isSome = true
      ∧ gives (.jdense 9 fp32 0 0 32767 0) dense 0x10000 [(0, 0x40000000)] = true
      ∧ gives (.jsparse 9 fp32 0) (sparse 3) 0x10000 [(0x6000006, 0x40000000)] = true
      ∧ gives (.jsparse 9 fp32 0) (sparse 4) 0 [] = true
      ∧ gives (.jgath 9 fp32 0 0) (gather 1) 0x10000 [(0, 0x40000000)] = true
      ∧ gives (.jgath 9 fp32 0 0) (gather 2) (BitVec.ofNat 64 (Code.indexRange.toByte.toNat + 8 * 2 ^ 16)) [] = true
      ∧ gives (.jfeed 9 0x4000000000000001 1 0 .rne) feed 0x10000 [(5, 0x40000000)] = true
      ∧ (dense.me.join.probe 5).isSome = true := by decide +kernel
/-- Two entries of the Corral, out of key order. -/
def corral0 : List (Nat × CorralEntry) := [(1, ⟨5, 0x3F800000, false, false, false⟩), (9, ⟨2, 0x40000000, true, false, false⟩)]
/-- JoinEngine: a peek, both drains of records and one of a block, a clear and a spill area. -/
theorem witness_JoinEngine_drains :
    let s (d : Option (List Byte)) (es : List (Nat × CorralEntry)) : State := tile0.mapMe fun c =>
      { c with join := { c.join with inbox := [cmdWith d], mode := .hash, entries := es } }
    let block := desc64 [0, 0x20, 0, 0, 0, 0, 0, 0, 1, 0, 0, 0, 8, 0, 0, 0, 8, 0, 0, 0]
    let keys (i : Instr) (v : State) (n : Nat) : List Nat :=
      match exec i v with
      | .next t => (t.shadows.map fun x => x.runs.flatMap (·.bytes)).flatten.zipIdx.filterMap fun b =>
          if b.2 % n = 0 then some b.1.toNat else none
      | _ => []
    (s none corral0).me.join.inbox = [cmdWith none] ∧ 0x2000 % 4096 + 16 * 2 ≤ 4096
      ∧ finds (tile0.engTarget (tile0.agentOf cmd0) 0x2000 32 true).2 (at_ 0x2000) = true
      ∧ keys (.jpeek 9 0x2000) (s none corral0) 16 = [5, 2] ∧ keys (.jdrain 9 true (.records 0x2000)) (s none corral0) 16 = [2, 5]
      ∧ keys (.jdrain 9 false (.records 0x2000)) (s none corral0) 16 = [5, 2]
      ∧ (block.map fun d => firstBad (blockChecks d)) = some none
      ∧ keys (.jdrain 9 true (.dense 0)) (s block (corral0.take 1)) 1 = [0, 0, 0x80, 0x3F]
      ∧ goesTo (exec (.jclr 9) (s none corral0)) (fun t => t.me.join.entries == [] && t.me.done.map (·.word) == [0]) = true
      ∧ goesTo (exec (.jspill 9 0x2000 2) (s none corral0)) (fun t => t.me.join.spillBase == 0x2000) = true := by decide +kernel
/-- A command at the head of the BTE. -/
def bte0 (d : Option (List Byte)) : State := tile0.mapMe fun c => { c with bte := [cmdWith d] }
/-- BlockTransfers: FILL in both forms up to the end of a page, a COPY, an MCAST to every core of the cluster, and
PUBLISH of a range that it meets and of one that it does not. -/
theorem witness_BlockTransfers :
    let filled := desc64 [0xFE, 0x2F, 0, 0, 0, 0, 0, 0, 2, 0, 0, 0, 0, 0, 0, 0, 0xAB, 0xCD, 0, 0, 0, 0, 0, 0]
    let copied := desc64 [0, 0x10, 0, 0, 0, 0, 0, 0, 0, 0x20, 0, 0, 0, 0, 0, 0, 2, 0, 0, 0]
    let cast := desc64 [0, 0x20, 0, 0, 0, 0, 0, 0, 0, 0x10, 0, 0, 1, 0, 0, 0xFF, 0, 0x30, 0, 0, 0, 0, 0, 0]
    let writes (i : Instr) (s : State) (bs : List Byte) : Bool := goesTo (exec i s) fun t =>
      t.me.bte == [] && (t.shadows.map fun x => x.runs.flatMap (·.bytes)) == [bs]
    let pend : State := { (bte0 none).mapMe fun c => { c with ranges := [⟨0, 0x2000, 2⟩] } with shadows := [shadow0] }
    (bte0 none).me.bte = [cmdWith none] ∧ pend.noneWait ∧ pend.Inv ∧ (cmdWith none).trail = [] ∧ pend.mcasts = []
      ∧ pend.splits shadow0.runs = false ∧ pend.accessError (some 0) (at_ 0x2000) 2 true = none
      ∧ finds (tile0.engTarget (tile0.agentOf cmd0) 0x1000 2 false).2 (at_ 0x1000) = true
      ∧ finds (tile0.engTarget (tile0.agentOf cmd0) 0x2000 2 true).2 (at_ 0x2000) = true
      ∧ writes (.fill 9 (.direct 0x2FFE 2 0xAB)) (bte0 none) [0xAB, 0xAB] = true ∧ writes (.fill 9 (.desc 0)) (bte0 filled) [0xAB, 0xCD] = true
      ∧ writes (.copy 9 0 0 0) (bte0 copied) [0x3F, 0x01] = true
      ∧ goesTo (exec (.mcast 9 0) (bte0 cast)) (fun t => t.mcasts.map (·.mask) == [0xFF] && t.me.bte == []) = true
      ∧ goesTo (exec (.publish 9 0x2001 1 .core) pend) (fun t => t.shadows == [] && t.readPhysBytes none 0x2000 2 == [1, 2]) = true
      ∧ goesTo (exec (.publish 9 0x2002 1 .core) pend) (fun t => t.shadows == [shadow0] && t.me.done.map (·.word) == [0]) = true := by
  refine ⟨by decide +kernel, noneWait_of_alone (by decide +kernel), ?_, by decide +kernel⟩
  unfold State.Inv; decide +kernel
/-- The leaf entry of a tier page (03 Table ADR-4). -/
def leaf1 : Word := 0x100000000000007F
/-- BlockTransfers: a PAGEIN of a 64 KiB tier page and of a resident one, and its publish with and without the entry
in place. -/
theorem witness_BlockTransfers_pages :
    let tables (leaf : Word) : List Host.Cell := Memory.writeBytes (Memory.writeBytes (Memory.writeBytes mem0 0x1010 [1, 0, 1]) 0x10000
      [1, 0x10, 1]) 0x11000 ((List.range 8).map fun i => leaf.extractLsb' (8 * i) 8)
    let d : List Byte := [0, 0, 0, 0x80, 0, 0, 0, 0, 0, 0, 2, 0, 0, 0, 0, 0, 0, 0x10, 1, 0, 0, 0, 0, 0] ++ List.replicate 40 0
    let s (leaf : Word) : State := { bte0 (some d) with mem := tables leaf }
    let x : Shadow := { shadow0 with runs := [⟨at_ 0x20000, [1, 2]⟩], leaf := some ⟨0x11000, leaf1, residentLeaf leaf1 0x20000⟩ }
    let pub (leaf : Word) : State := { s0 with mem := tables leaf, shadows := [x] }
    firstBad (pageinChecks d) = none ∧ (s leaf1).paddock? 0 = some pdk0 ∧ pdk0.desc.frameFault 0x20000 (pageinSize 0) = none
      ∧ gets ((s leaf1).pageinLeaf pdk0 d) (· == leaf1) = true ∧ leafTier leaf1 = 1 ∧ (s leaf1).hub.cxlDown = 0
      ∧ (s leaf1).accessError (some 0) (.mem (leafPage leaf1) none .wb false) (pageinSize 0) false = none
      ∧ gets ((s 0x13F).pageinLeaf pdk0 d) (· == 0x13F) = true ∧ leafTier 0x13F = 0 ∧ (pub leaf1).noneWait ∧ (pub leaf1).Inv
      ∧ goesTo (exec (.pagein 9 0) (s 0x13F)) (fun t => t.me.done.map (·.word) == [0x100]) = true
      ∧ goesTo (exec (.shadowPublish 3) (pub leaf1)) (fun t => t.readPhysBytes none 0x11000 8 == [0x3F, 1, 0, 0, 0x20, 0, 0, 0]) = true
      ∧ goesTo (exec (.shadowPublish 3) (pub 0x13F)) (fun t => t.me.done.map (·.word) == [0x100]) = true := by
  refine ⟨by decide +kernel, by decide +kernel, by decide +kernel, by decide +kernel, by decide +kernel, by decide +kernel,
    by decide +kernel, by decide +kernel, by decide +kernel, noneWait_of_alone (by decide +kernel), ?_, by decide +kernel⟩
  unfold State.Inv; decide +kernel

/-! ## Witnesses: remote commands and the module -/

/-- A launch record (04 Table SCH-2) of one level of one record, at 0x100, with frames of 128 bytes from 0x2000 on. -/
def launch0 : List Byte :=
  [0, 0, 1, 0, 0, 0, 0, 0, 0, 1, 0, 0, 0, 0, 0, 0, 0, 0x20, 0, 0, 0, 0, 0, 0, 0x80, 0, 0, 0] ++ List.replicate 36 0
    ++ [1, 0, 0, 0, 0, 0, 0, 0] ++ List.replicate 184 0
/-- A LAUNCH packet of the record at 0x3000. -/
def launch1 : Packet := encodePacket (.launch 9 false 0x3000)
/-- Memory with the packet and the record. -/
def memLaunch : List Host.Cell := Memory.writeBytes (packetAt 0x2000 launch1 mem0) 0x3000 launch0
/-- The state once the device has its identifier. -/
def linked0 (s : State) : State := { s with hub := { s.hub with devid := some 5 } }
/-- A command at the head of the remote inbox. -/
def remote0 (d : Option (List Byte)) : State := { (tile0.mapMe fun c => { c with remote := [cmdWith d] }) with mem := memLaunch }
/-- Descriptors of a transfer of two bytes, of an atomic and of a send (15 Tables CMD-8, CMD-9). -/
def moves0 : Option (List Byte) := desc64 [0, 0x10, 0, 0, 0, 0, 0, 0, 0, 0x30, 0, 0, 0, 0, 0, 0, 6, 0, 0, 0, 2, 0, 0, 0]
/-- See `moves0`. -/
def adds0 : Option (List Byte) :=
  desc64 ([0, 0x30, 0, 0, 0, 0, 0, 0] ++ List.replicate 8 0 ++ [6, 0, 0, 0, 0, 0, 0, 0, 1] ++ List.replicate 15 0 ++ [0, 0x20])
/-- See `moves0`. -/
def sends0 : Option (List Byte) := desc64 ([0, 0x20, 0, 0, 0, 0, 0, 0] ++ List.replicate 8 0 ++ [6])
/-- Whether an instruction sends one message that passes a test. -/
def sendsOut (i : Instr) (s : State) (p : RemoteCmd → Bool) : Bool :=
  goesTo (exec i s) fun t => match t.hub.remoteOut with | [x] => p x.cmd | _ => false
/-- RemoteCommands: a transfer, an atomic and a send that can travel, and one that cannot. -/
theorem witness_RemoteCommands :
    (linked0 (remote0 moves0)).hub.devid.isSome = true ∧ (linked0 (remote0 moves0)).hub.portsDown ≠ BitVec.allOnes 16
      ∧ (linked0 (remote0 moves0)).linkCut (some 0) (.remote 0 0 .wb) = false ∧ (cmdWith moves0).trail = []
      ∧ finds ((remote0 moves0).engTarget ((remote0 moves0).agentOf cmd0) 0x1000 2 false).2 (at_ 0x1000) = true
      ∧ (remote0 moves0).hub.devid = none ∧ (moves0.map fun d => firstBad (transferChecks d)) = some none
      ∧ (adds0.map fun d => firstBad (ramoChecks d)) = some none ∧ (sends0.map fun d => firstBad (rsendChecks d)) = some none
      ∧ sendsOut (.rput 9 0) (linked0 (remote0 moves0)) (fun c => c == .put 0x3000 [0x3F, 1]) = true
      ∧ sendsOut (.rget 9 0) (linked0 (remote0 moves0)) (fun c => c == .get 0x3000 2) = true
      ∧ sendsOut (.ramo 9 0 0) (linked0 (remote0 adds0)) (fun c => c == .amo 0x3000 0 1 0) = true
      ∧ sendsOut (.rsend 9 0) (linked0 (remote0 sends0)) (fun c => c == .send launch1 launch0) = true
      ∧ goesTo (exec (.rput 9 0) (remote0 moves0)) (fun t => t.me.done.map (·.code) == [.linkDown]) = true := by decide +kernel
/-- RemoteCommands: each message, with an answer that is awaited, and a LAUNCH. -/
theorem witness_RemoteCommands_messages :
    let m (c : RemoteCmd) : RemoteMsg := ⟨5, 0, 0, 0, c⟩
    let wait : RemoteWait := ⟨0, 6, 0, 0, ⟨7, 9, 0x20000, .none, 0x100, s0.here⟩, [⟨at_ 0x2000, [0, 0]⟩]⟩
    let waits : State := { linked0 s0 with hub := { (linked0 s0).hub with remoteWaits := [wait] } }
    let o : State := { (tile0.mapMe fun c => { c with ostler := [cmd0] }) with mem := memLaunch }
    let old : List Byte := [0x3F, 1, 0, 0, 0, 0, 0, 0]
    waits.noneWait ∧ waits.Inv ∧ firstBad (launchChecks launch0) = none ∧ (linked0 s0).splits [⟨at_ 0x2000, [7]⟩] = false
      ∧ waits.splits [⟨at_ 0x2000, [8, 9]⟩] = false ∧ waits.accessError (some 0) (at_ 0x2000) 2 true = none
      ∧ (linked0 s0).accessError none (at_ 0x1000) 8 false = none
      ∧ finds ((linked0 s0).engTarget (homeAgent (m (.get 0x1000 2))) 0x1000 2 false).2 (at_ 0x1000) = true
      ∧ finds (o.engTarget (o.agentOf cmd0) 0x3000 256 false).2 (at_ 0x3000) = true
      ∧ sendsOut (.remoteDelivery (m (.put 0x2000 [7]))) (linked0 s0) (fun c => c == .reply 0 0 0 []) = true
      ∧ sendsOut (.remoteDelivery (m (.get 0x1000 2))) (linked0 s0) (fun c => c == .reply 0 0 0 [0x3F, 1]) = true
      ∧ sendsOut (.remoteDelivery (m (.amo 0x1000 9 5 0x13F))) (linked0 s0) (fun c => c == .reply 0 0 0 old) = true
      ∧ goesTo (exec (.remoteDelivery (m (.send launch1 launch0))) (linked0 s0))
          (fun t => ((t.paddock? 0).map fun p => p.groups.map (·.entry)) == some [0, 0x100]) = true
      ∧ goesTo (exec (.remoteDelivery (m (.reply 0 0 0 [8, 9]))) waits)
          (fun t => t.readPhysBytes none 0x2000 2 == [8, 9] && t.hub.remoteWaits == []) = true
      ∧ goesTo (exec (.launch 9 true 0x3000) o)
          (fun t => ((t.paddock? 0).map fun p => p.groups.map (·.fstride)) == some [0, 0x80] && t.me.done.map (·.word) == [0]) = true := by
  refine ⟨noneWait_of_alone (by decide +kernel), ?_, by decide +kernel⟩
  unfold State.Inv; decide +kernel
/-- A die whose hottest sensor, that of its first core, reads a temperature. -/
def warm (t : BitVec 16) : State := State.reset.mapMe fun c => { c with sensor := ⟨t, 0, 1⟩ }
/-- It is the hottest: every other core reads 0. -/
theorem warm_hottest (t : BitVec 16) (h : 0 ≤ t.toInt) :
    (∃ c, dieOf c = 0 ∧ (warm t).enabledCore c = true ∧ ((warm t).coreAt c).sensor.temp = t)
      ∧ ∀ c, dieOf c = 0 → (warm t).enabledCore c = true → ((warm t).coreAt c).sensor.temp.toInt ≤ t.toInt := by
  have e (c : CoreNum) : ((warm t).coreAt c).sensor.temp = if c = 0 then t else 0 := by
    by_cases hc : c = 0
    · subst hc; rfl
    · have : (warm t).coreAt c = Core.reset := by
        simp only [State.coreAt]
        exact if_neg hc
      rw [this, if_neg hc]; rfl
  have u : (warm t).enabledCore 0 = State.reset.enabledCore 0 := rfl
  refine ⟨⟨0, by decide, by rw [u]; decide +kernel, by simp [e]⟩, fun c _ _ => ?_⟩
  rw [e]
  split
  · exact Int.le_refl _
  · simpa using h
/-- ModuleEvents: temperatures at the warning threshold, below it and at the trip threshold, and the first and last
link of each sort. -/
theorem witness_ModuleEvents :
    let s := State.reset
    let does (s : State) (i : Instr) (n : Nat) : Bool := goesTo (exec i s) fun t => t.hub.sent.length == n && t.mgmt.log.length == n
    let told := does s
    let wait : RemoteWait := ⟨0, 6, 0, 0, ⟨7, 9, 0x20000, .none, 0x100, s0.here⟩, []⟩
    let cut : State := { s with hub := { s.hub with linksDown := [(0, 1), (0, 2)], remoteWaits := [wait] } }
    s.hub.ready = true ∧ lanes s = true ∧ s.mgmt.main = true ∧ 8 ≤ s.mgmt.step.toNat ∧ (3 : DieNum).toNat < s.dies.length
      ∧ (s.die 0).hot = false ∧ (s.die 0).tripped = false ∧ (380 : BitVec 16).toInt = 380 ∧ (440 : BitVec 16).toInt = 440
      ∧ s.mgmt.log.length < 256 ∧ s.enabledCore 639 = true ∧ (s.die 3).warnAt = 95 ∧ linked2 0 1 = true
      ∧ s.hub.linkFailed 0 1 = false ∧ s.hub.cxlDown.getLsbD 3 = false ∧ s.hub.portsDown.getLsbD 15 = false ∧ s.hub.scrubPeriod = 0
      ∧ goesTo (exec (.sensorSample [⟨639, 200, 7⟩]) s) (fun t => (t.coreAt 639).sensor == ⟨200, 7, 1⟩) = true
      ∧ does (warm 380) (.thermalWarning 0 380) 1 = true ∧ does (warm 379) (.thermalWarning 0 379) 0 = true
      ∧ does (warm 440) (.thermalTrip 0) 1 = true ∧ does (warm 439) (.thermalTrip 0) 0 = true ∧ (s.hub.lane .lane0).unacked.length ≤ 4096
      ∧ goesTo (exec (.linkRetryTimeout 0 4) cut) (fun t => t.hub.remoteWaits == [] && t.me.done.map (·.code) == [.eccUncorr]) = true
      ∧ goesTo (exec (.cxlLinkDown 3) s) (fun t => t.hub.frames.map (fun f => (f.2.length, f.2.take 4)) == [(64, [0x82, 0, 1, 0])]) = true
      ∧ told (.linkRetryTimeout 0 1) 1 = true ∧ told (.cxlLinkDown 3) 1 = true ∧ told (.portDown 15) 1 = true
      ∧ told (.laneFailure .lane0) 1 = true ∧ told (.scrub 0) 0 = true
      ∧ goesTo (exec (.scrub 0x8FFFFFFFFFF) { s with hub := { s.hub with scrubPeriod := 1 } }) (fun t => t.hub.sent.length == 0) = true
      ∧ goesTo (exec (.scrub 0x8FFFFFFFFF) { s with hub := { s.hub with scrubPeriod := 1 } }) (fun t => t.hub.sent.length == 1) = true := by
  decide +kernel
/-- ManagementPort: each supply on and off, HOLD, a record in the log, a staged word. -/
theorem witness_ManagementPort :
    let s (f : Mgmt → Mgmt) : State := { State.reset with mgmt := f Mgmt.reset }
    let r : FaultRecord := { code := 0x7F, status := 0, paddock := 0xFF, lost := false, mirror := false, machine := true, source := 0x3FF,
                             pc := 0, val0 := 1, val1 := 2, time := 5, tag := 0, lostcnt := 0 }
    let mg (i : Instr) (f : Mgmt → Mgmt) (p : Mgmt → Bool) : Bool := goesTo (exec i (s f)) fun t => p t.mgmt
    Mgmt.reset.standby = true ∧ Mgmt.reset.main = true ∧ Mgmt.reset.hold = false ∧ Mgmt.reset.fwswap = false ∧ State.reset.Inv
      ∧ mg (.moduleReset ⟨none, 0, 0, 0⟩) (fun m => { m with hold := true }) (fun m => m.step == 1) = true
      ∧ mg (.moduleReset ⟨some 1, 0, 0, 0⟩) id (fun m => m.failstep == 1 && m.log.length == 1) = true
      ∧ mg (.moduleReset ⟨some 2, 0, 0, 0⟩) id (fun m => m.failstep == 2 && m.step == 2) = true
      ∧ mg .standbyPowerGood (fun m => { m with standby := false }) (fun m => m.standby && !m.main && m.step == 1) = true
      ∧ mg .mainPowerGood (fun m => { m with main := false }) (fun m => m.main && m.step == 2) = true
      ∧ mg .mainPowerLoss id (fun m => !m.main) = true ∧ mg .standbyPowerLoss id (fun m => !m.standby) = true
      ∧ mg .logdata (fun m => { m with log := [r] }) (fun m => m.log == [] && m.logRest.length == 5) = true
      ∧ mg .logdata (fun m => { m with logRest := [7] }) (fun m => m.readData == 7 && m.logRest == []) = true
      ∧ mg (.fwdata 7) (fun m => { m with fwstage := true, fwaddr := 0xFFFFFFFFFFFFFFF8 }) (fun m => m.fwaddr == 0) = true
      ∧ mg (.hold true) id (fun m => m.hold && m.step == 1) = true ∧ mg (.hold false) (fun m => { m with hold := true }) (fun m => m.step == 2) = true
      ∧ mg (.warn 1) (fun m => { m with warn := 3 }) (fun m => m.warn == 2) = true := by
  unfold State.Inv; decide +kernel

/-! ## Witnesses: host messages -/

/-- A frame of a TYPE with a payload, as no rule discards it: CHECK, LEN and SEQ 0 (02 R22). -/
def frame0 (type : Byte) (n : PdkNum) (flags : BitVec 8) (b : List Byte) : Frame :=
  let f : Frame := ⟨.lane0, 0, 5, BitVec.ofNat 13 b.length, n, 0, flags, 0, b⟩
  { f with check := frameCheck type f }
/-- Whether the hub performs a frame as soon as it arrives. -/
def takes (s : State) (type : Byte) (f : Frame) : Bool :=
  s.hub.ready && lanes s && ([Lane.lane0, .lane1].all fun l => (s.hub.lane l).queue == [])
    && f.check == frameCheck type f && f.seq == (s.hub.lane f.lane).expect && f.len.toNat == f.payload.length
    && decide (f.len.toNat ≤ 4112) && (match lenOf type f.payload with | some n => f.len.toNat == n | none => true)
    && decide (f.flags.toNat < 2) && f.reserved == 0
/-- Then `State.takes` holds of it. -/
theorem takes_of {s : State} {type : Byte} {f : Frame} (h : takes s type f = true) : s.takes type f := by
  simp only [takes, List.all_cons, List.all_nil, Bool.and_eq_true, beq_iff_eq, decide_eq_true_eq, Bool.and_true] at h
  obtain ⟨⟨⟨⟨⟨⟨⟨⟨⟨hr, h1⟩, h2, h3⟩, hc⟩, hs⟩, hl⟩, hm⟩, hn⟩, hf⟩, hz⟩ := h
  refine ⟨hr, lanesUp_of h1, ?_, hc, hs, hl, hm, ?_, hf, hz⟩
  · intro l; cases l <;> assumption
  · intro n h
    simpa [h] using hn
/-- The answer's STATUS, code and data. -/
def answers (o : Out) (bs : List Byte) : Bool := goesTo o fun t => t.hub.sent.map (·.2.payload) == [bs]
/-- A refusal with a STATUS. -/
def refused (o : Out) (status code : Byte) : Bool := answers o [status, code, 0, 0, 0, 0, 0, 0]
/-- A performed message without data. -/
def performed (o : Out) : Bool := refused o 0 0
/-- The descriptor of a second Paddock: cluster 1, HBM from 2 GiB on, key slot 63, QBOUND at both ends of its range. -/
def desc1 : PdkDesc :=
  { PdkDesc.placed with clusters := 2, ptroot := 0x80000000, stvec := 0x100, keymask := 0x8000000000000000
                        hbm := ⟨2 ^ 31, 2 ^ 32⟩ :: List.replicate 7 ⟨0, 0⟩, qbound := [1, 65536, 2, 3] }
/-- A PDCFG frame of an action for Paddock 1. -/
def pdcfg0 (action : Byte) (d : PdkDesc) : Frame := frame0 0x04 1 0 ({ d with action := action }.bytes 1)
/-- A MODIFY of its STVEC. -/
def modify0 : Frame := pdcfg0 2 { desc1 with stvec := 0x200 }
/-- Both Paddocks. -/
def two0 : State := { s0 with paddocks := [pdk0, { Paddock.fresh 1 desc1 with groups := [{ Group.placed with sink := .message 9 }] }] }
/-- PaddockMessages: CREATE beside another Paddock, with another's clusters, and with a field out of range. -/
theorem witness_PaddockMessages :
    s0.takes 0x04 (pdcfg0 1 desc1) ∧ s0.descriptorFits (pdcfg0 1 desc1).payload ∧ s0.descriptorApart 1 (pdcfg0 1 desc1).payload
      ∧ s0.sharesFit 1 [] (pdcfg0 1 desc1).payload ∧ s0.paddock? 1 = none
      ∧ ¬ s0.descriptorFits (pdcfg0 1 { desc1 with qbound := [0, 1, 1, 1] }).payload
      ∧ ¬ s0.descriptorApart 1 (pdcfg0 1 { desc1 with clusters := 1 }).payload
      ∧ ¬ s0.sharesFit 1 [] (pdcfg0 1 { desc1 with draw := [65535, 0, 0, 0] }).payload
      ∧ performed (exec (.create (pdcfg0 1 desc1)) s0) = true
      ∧ s0.hub.queueMemory = true ∧ (∀ p ∈ s0.paddocks, p.stopping = none)
      ∧ refused (exec (.create (pdcfg0 1 desc1)) { s0 with hub := { s0.hub with queueMemory := false } }) 4 0 = true
      ∧ refused (exec (.create (pdcfg0 1 { desc1 with clusters := 1 })) s0) 4 0 = true := by
  refine ⟨takes_of (by decide +kernel), ?_, ?_, ?_, by decide +kernel, ?_, ?_, ?_, by decide +kernel⟩
  · unfold State.descriptorFits; decide +kernel
  · unfold State.descriptorApart; decide +kernel
  · unfold State.sharesFit; decide +kernel
  · unfold State.descriptorFits; decide +kernel
  · unfold State.descriptorApart; decide +kernel
  · unfold State.sharesFit; decide +kernel
/-- The same where stops take time. -/
def slow0 : State := { two0 with hub := { two0.hub with slowStops := true } }
/-- PaddockMessages: MODIFY of a field, DESTROY, KEYLOAD of the last slot and of one that is not the Paddock's. -/
theorem witness_PaddockMessages_change :
    let key (slot : Byte) : Frame := frame0 0x04 1 0 ([4, 1, slot] ++ List.replicate 509 0)
    two0.takes 0x04 modify0 ∧ two0.takes 0x04 (key 63) ∧ two0.descriptorFits modify0.payload
      ∧ two0.descriptorApart 1 modify0.payload ∧ two0.sharesFit 1 desc1.draw modify0.payload
      ∧ (two0.paddock? 1).map (·.desc) = some desc1 ∧ natAt modify0.payload 8 10 = desc1.clusters.toNat
      ∧ desc1.hbm = (List.range 8).map (fun k => ⟨natAt modify0.payload (128 + 16 * k) 8, natAt modify0.payload (136 + 16 * k) 8⟩)
      ∧ natAt (key 63).payload 2 1 ≤ 63 ∧ desc1.keymask.getLsbD 63 = true ∧ natAt (key 63).payload 3 61 = 0
      ∧ performed (exec (.modify modify0) two0) = true
      ∧ goesTo (exec (.destroy (pdcfg0 3 desc1)) two0) (fun t => t.paddocks == [pdk0]
          && t.hub.sent.map (fun e => (e.2.tag, e.2.payload.head?)) == [(9, some 0x09), (5, some 0)]) = true
      ∧ (∀ p ∈ two0.paddocks, p.stopping = none) ∧ two0.hub.slowStops = false ∧ slow0.hub.slowStops = true
      ∧ goesTo (exec (.destroy (pdcfg0 3 desc1)) slow0) (fun t => t.paddocks.map (·.stopping) == [none, some .destroy]
          && t.hub.sent.map (fun e => e.2.tag) == [9]) = true
      ∧ refused (exec (.keyload (key 62)) two0) 4 0 = true := by
  refine ⟨takes_of (by decide +kernel), takes_of (by decide +kernel), ?_, ?_, ?_, by decide +kernel⟩
  · unfold State.descriptorFits; decide +kernel
  · unfold State.descriptorApart; decide +kernel
  · unfold State.sharesFit; decide +kernel
/-- PaddockMessages: RESET of a Paddock and of the module, and LAUNCH into a Paddock, with another number and into none. -/
theorem witness_PaddockMessages_reset :
    let f (scope : Byte) (n : PdkNum) : Frame := frame0 0x05 n 0 (scope :: List.replicate 15 0)
    let l (n : PdkNum) : Frame := frame0 0x01 n 0 launch0
    let stopping (k : StopKind) : State := { two0 with paddocks := two0.paddocks.map fun p => { p with stopping := some k } }
    two0.takes 0x05 (f 1 1) ∧ two0.takes 0x05 (f 0 0) ∧ s0.takes 0x01 (l 0) ∧ (stopping .reset).takes 0x01 (l 1)
      ∧ s0.paddock? 0 = some pdk0
      ∧ firstBad (launchChecks (l 0).payload) = none
      ∧ goesTo (exec (.paddockReset (f 1 1)) two0) (fun t => t.paddocks.map (·.groups.length) == [1, 0]) = true
      ∧ refused (exec (.paddockReset (f 1 1)) s0) 5 0 = true ∧ performed (exec (.launchMessage (l 0)) s0) = true
      ∧ refused (exec (.launchMessage (l 1)) (stopping .reset)) 9 0 = true
      ∧ refused (exec (.launchMessage (l 1)) (stopping .destroy)) 5 0 = true
      ∧ refused (exec (.memrd (frame0 0x02 1 0 (bytesOf 0 8 ++ bytesOf 1 4 ++ [0, 0, 0, 0]))) (stopping .reset)) 9 0 = true
      ∧ refused (exec (.launchMessage (l 1)) two0) 3 0 = true := by
  refine ⟨takes_of (by decide +kernel), takes_of (by decide +kernel), takes_of (by decide +kernel), takes_of (by decide +kernel), ?_⟩
  decide +kernel
/-- An access descriptor (02 Table HST-5) with data. -/
def access0 (type : Byte) (flags : BitVec 8) (a : Nat) (len : Nat) (data : List Byte) : Frame :=
  frame0 type 0 flags (bytesOf a 8 ++ bytesOf len 4 ++ [0, 0, 0, 0] ++ data)
/-- HostMessages: reads and writes by virtual and physical address, at the end of HBM, in the hole, of no bytes, of
too many. -/
theorem witness_HostMessages :
    let w : Frame := access0 0x03 0 0x2000 2 ([7, 8] ++ List.replicate 14 0)
    let wp : Frame := access0 0x03 1 0x2000 2 ([7, 8] ++ List.replicate 14 0)
    s0.takes 0x02 (access0 0x02 0 0x1000 2 []) ∧ s0.takes 0x03 w ∧ s0.noneWait ∧ s0.Inv ∧ s0.hub.devid = none
      ∧ s0.accessError none (at_ 0x1000) 2 false = none ∧ s0.accessError none (at_ 0x2000) 2 true = none
      ∧ finds (s0.translate none 0 0x1000 (Acc.read .paddock)).2 (at_ 0x1000) = true
      ∧ finds (s0.translate none 0 0x2000 (Acc.write .paddock)).2 (at_ 0x2000) = true
      ∧ faults (s0.translate none 0 0x80000000 (Acc.read .paddock)).2 .xlate = true
      ∧ answers (exec (.memrd (access0 0x02 0 0x1000 2 [])) s0) [0, 0, 0, 0, 0, 0, 0, 0, 0x3F, 1] = true
      ∧ answers (exec (.memrd (access0 0x02 1 0x1000 2 [])) s0) [0, 0, 0, 0, 0, 0, 0, 0, 0x3F, 1] = true
      ∧ answers (exec (.memrd (access0 0x02 1 0x8FFFFFFFFF 1 [])) s0) [0, 0, 0, 0, 0, 0, 0, 0, 0] = true
      ∧ refused (exec (.memrd (access0 0x02 1 0x9000000000 1 [])) s0) 6 0x10 = true
      ∧ refused (exec (.memrd (access0 0x02 0 0x80000000 1 [])) s0) 6 0x10 = true
      ∧ refused (exec (.memrd (access0 0x02 1 (2 ^ 44) 1 [])) s0) 3 0 = true
      ∧ refused (exec (.memrd (access0 0x02 0 0x1000 1 [])) State.reset) 5 0 = true
      ∧ refused (exec (.memrd (access0 0x02 1 0 0 [])) s0) 3 0 = true ∧ refused (exec (.memrd (access0 0x02 1 0 4097 [])) s0) 3 0 = true
      ∧ goesTo (exec (.memwr w) s0) (fun t => t.readPhysBytes none 0x2000 2 == [7, 8]) = true
      ∧ goesTo (exec (.memwr wp) s0) (fun t => t.readPhysBytes none 0x2000 2 == [7, 8]) = true := by
  refine ⟨takes_of (by decide +kernel), takes_of (by decide +kernel), noneWait_of_alone (by decide +kernel), ?_, by decide +kernel⟩
  unfold State.Inv; decide +kernel
/-- A QUERY or SYSCFG frame. -/
def sixteen0 (type : Byte) (b : List Byte) : Frame := frame0 type 0 0 (b ++ List.replicate (16 - b.length) 0)
/-- HostMessages: each QUERY, each SYSCFG at the bounds of its value, and a type that is not assigned. -/
theorem witness_HostMessages_queries :
    let q (n : Byte) (rest : List Byte) : Frame := sixteen0 0x06 ([n] ++ rest)
    let c (n : Byte) (v : Nat) : Frame := sixteen0 0x07 ([n, 0, 0, 0, 0, 0, 0, 0] ++ bytesOf v 8)
    let size (o : Out) (n : Nat) : Bool := goesTo o fun t => t.hub.sent.map (·.2.payload.length) == [8 + n]
    let wide : State := { s0 with paddocks := [{ pdk0 with desc := { desc0 with hbm := desc1.hbm } }] }
    s0.takes 0x06 (q 0 []) ∧ s0.takes 0x07 (c 1 786431) ∧ s0.takes 0x09 (frame0 0x09 0 0 []) ∧ s0.dies.length = 4
      ∧ desc0.draw.length = 4 ∧ desc0.parts.length = 8 ∧ desc1.hbm.length = 8
      ∧ size (exec (.queryDeviceInfo (q 0 [])) s0) 32 = true ∧ size (exec (.querySensor (q 1 [])) s0) 8 = true
      ∧ refused (exec (.querySensor (q 1 [0, 0, 0, 0, 0, 0, 0, 0, 4])) s0) 3 0 = true
      ∧ size (exec (.queryPaddock (q 2 [])) wide) 512 = true ∧ refused (exec (.queryPaddock (q 2 [])) State.reset) 5 0 = true
      ∧ size (exec (.queryFaultLog (q 3 [])) s0) 0 = true ∧ size (exec (.queryDraw (q 4 [])) s0) 24 = true
      ∧ refused (exec (.queryFaultLog (q 3 [0, 0, 0, 0, 0, 0, 0, 1])) s0) 3 0 = true
      ∧ performed (exec (.syscfgDevid (c 1 786431)) s0) = true ∧ refused (exec (.syscfgDevid (c 1 786432)) s0) 3 0 = true
      ∧ refused (exec (.syscfgDevid (c 1 0)) (linked0 s0)) 8 0 = true ∧ performed (exec (.syscfgPools (c 2 0x023A023A023A05B4)) s0) = false
      ∧ performed (exec (.syscfgPools (c 2 0x08E808E808E808E8)) s0) = true ∧ refused (exec (.syscfgPools (c 2 0x08E808E808E808E9)) s0) 3 0 = true
      ∧ refused (exec (.syscfgPools (c 2 0)) s0) 4 0 = true ∧ performed (exec (.syscfgWarn (c 3 0x6403)) s0) = true
      ∧ performed (exec (.syscfgWarn (c 3 0x4600)) s0) = true ∧ refused (exec (.syscfgWarn (c 3 0x4500)) s0) 3 0 = true
      ∧ performed (exec (.syscfgScrub (c 4 5)) s0) = true ∧ refused (exec (.unassignedType 0x09 (frame0 0x09 0 0 [])) s0) 3 0 = true := by
  refine ⟨takes_of (by decide +kernel), takes_of (by decide +kernel), takes_of (by decide +kernel), ?_⟩
  decide +kernel
/-- HostMessages: ATTEST is taken; a bad frame, one before READY and one behind 64. -/
theorem witness_HostMessages_frames :
    let f := frame0 0x08 0 0 (List.replicate 32 1)
    let bad : Frame := { f with seq := 1 }
    let q : QueuedMsg := ⟨0x08, f⟩
    let dark : State := { s0 with hub := { s0.hub with ready := false } }
    let full : State := { s0 with hub := { s0.hub with lane0 := { s0.hub.lane0 with queue := List.replicate 64 q } } }
    let fault (o : Out) (status : Byte) : Bool := goesTo o fun t => t.hub.sent.map (fun e => e.2.record.map (·.status)) == [some status]
    s0.takes 0x08 f ∧ bad.seq ≠ 0 ∧ dark.hub.ready = false ∧ (full.hub.lane .lane0).queue.length = 64
      ∧ fault (exec (.unassignedType 0x08 bad) s0) 2 = true ∧ fault (exec (.unassignedType 0x08 f) dark) 1 = true
      ∧ fault (exec (.unassignedType 0x08 f) full) 7 = true := by
  refine ⟨takes_of (by decide +kernel), ?_⟩
  decide +kernel
/-- The check value of CRC-32C: that of the ASCII digits 1 to 9 (notes/assumptions/36.md). -/
theorem test_crc32c : crc32c [0x31, 0x32, 0x33, 0x34, 0x35, 0x36, 0x37, 0x38, 0x39] = 0xE3069283 := by decide +kernel
/-- The first word of the digest of "abc" in the standard's own example (notes/assumptions/25.md). -/
theorem test_sha256 : (sha256 [0x61, 0x62, 0x63]).take 4 = [0xBA, 0x78, 0x16, 0xBF] := by decide +kernel

/-! ## Witnesses: encodings and steps -/

/-- ScalarRoundTrip and EncodingsUnique: FCMP of doubles. -/
theorem witness_ScalarRoundTrip : WellFormed (.fcmp ⟨3, 4, 5, true, false⟩ true .le)
    ∧ isEvent (.fcmp ⟨3, 4, 5, true, false⟩ true .le) = false ∧ (Instr.fcmp ⟨3, 4, 5, true, false⟩ true .le).isCommand = false
    ∧ (decode 0x010C4160).toOption = some (.add ⟨3, 4, 5, true, false⟩) := by unfold WellFormed; decide +kernel
/-- PacketRoundTrip and EncodingsUnique: a JDRAIN of a block. -/
theorem witness_PacketRoundTrip : WellFormed (.jdrain 9 true (.dense 0x2000)) ∧ (Instr.jdrain 9 true (.dense 0x2000)).isCommand = true
    ∧ (decodePacket fill0).toOption = some (.fill 9 (.direct 0x3000 16 0xAB)) := by unfold WellFormed; decide +kernel
/-- StepRuns: a NOP placed after reset, a word that does not decode, a misaligned pc, a command in an engine's turn,
an event. -/
theorem witness_StepRuns :
    let p := State.reset.withFetchWord 32 0x10000000
    let q := State.reset.withFetchWord 32 0
    let odd := p.mapSeq fun z => { z with pc := 2 }
    let e : State := { (bte0 none).mapMe fun c => { c with bte := [{ cmd0 with packet := fill0 }] } with sched := [⟨1, .engine 0 .bte⟩] }
    let v : State := { s0 with sched := [⟨32768, .event .deadlockSample⟩] }
    let w (s : State) : Bool := s.sched == [⟨1, .core 0⟩] || s.sched == []
    w p = true ∧ goesTo (step p) (fun t => t.me.seq.pc == 4) = true ∧ goesTo (step q) (fun t => t.me.seq.trapcause == 1) = true
      ∧ goesTo (step odd) (fun t => t.me.seq.trapcause == 5) = true ∧ goesTo (step e) (fun t => t.shadows.length == 1) = true
      ∧ goesTo (step v) (fun t => t.hub.sampledAt == some 32768) = true := by decide +kernel
/-- StepKeepsInv: the state after reset, and a step of it. -/
theorem witness_StepKeepsInv : State.reset.Inv ∧ goes (step State.reset) = true := by unfold State.Inv; decide +kernel

end Sys2Proof.Tests
end

section
/-!
PROOF. Control pages (O29): what a store to a register of a Paddock's control page does, what a load of a counter does, and
what the end of an invalidation leaves in the TLBs.
-/
namespace Sys2Proof.ControlPages
open Sys2Proof Sys2Proof.Machine

/-! ## Lists -/

/-- The element at the index changed. -/
theorem getElem?_updAt {α : Type} (l : List α) (n : Nat) (f : α → α) : (updAt l n f)[n]? = l[n]?.map f := by
  induction l generalizing n with
  | nil => rfl
  | cons a rest ih =>
    cases n with
    | zero => rfl
    | succ n => simpa [updAt] using ih n

/-- A value found under the key at which it was put. -/
theorem assocGet_assocSet_same {κ ν : Type} [DecidableEq κ] (l : List (κ × ν)) (x : κ) (w : ν) :
    assocGet (assocSet l x w) x = some w := by
  induction l with
  | nil => simp [assocSet, assocGet]
  | cons e rest ih =>
    obtain ⟨k, v⟩ := e
    by_cases hk : k = x <;> simp [assocSet, assocGet, hk, ih]

/-- Another key keeps its value. -/
theorem assocGet_assocSet_other {κ ν : Type} [DecidableEq κ] (l : List (κ × ν)) {x y : κ} (w : ν) (hy : y ≠ x) :
    assocGet (assocSet l x w) y = assocGet l y := by
  have hx : x ≠ y := hy.symm
  induction l with
  | nil => simp [assocSet, assocGet, hx]
  | cons e rest ih =>
    obtain ⟨k, v⟩ := e
    by_cases hk : k = x
    · simp [assocSet, assocGet, hk, hx]
    · simp [assocSet, assocGet, hk, ih]

/-- A key with a value stands in the list. -/
theorem mem_of_assocGet {κ ν : Type} [DecidableEq κ] {l : List (κ × ν)} {x : κ} {w : ν} (h : assocGet l x = some w) :
    (x, w) ∈ l := by
  induction l with
  | nil => simp [assocGet] at h
  | cons e rest ih =>
    obtain ⟨k, v⟩ := e
    by_cases hk : k = x
    · simp_all [assocGet]
    · rw [assocGet, if_neg hk] at h
      exact List.mem_cons_of_mem _ (ih h)

/-! ## Cores -/

/-- A core that has been replaced, and the others, which stay. -/
theorem coreAt_setCore (s : State) (c x : CoreNum) (k : Core) :
    (s.setCore c k).coreAt x = if x = c then k else s.coreAt x := by
  by_cases hc : c = s.cur
  · subst hc; by_cases hx : x = s.cur <;> simp [State.setCore, State.coreAt, hx]
  · by_cases hx : x = c
    · subst hx; simp [State.setCore, State.coreAt, hc, assocGet_assocSet_same]
    · simp [State.setCore, State.coreAt, hc, hx, assocGet_assocSet_other _ _ hx]

/-- A core that has been changed, and the others, which stay. -/
theorem coreAt_modCore (s : State) (c x : CoreNum) (f : Core → Core) :
    (s.modCore c f).coreAt x = if x = c then f (s.coreAt c) else s.coreAt x := coreAt_setCore ..

@[simp] theorem modCore_paddocks (s : State) (c : CoreNum) (f : Core → Core) :
    (s.modCore c f).paddocks = s.paddocks := by
  unfold State.modCore State.setCore; split <;> rfl
@[simp] theorem modCore_dies (s : State) (c : CoreNum) (f : Core → Core) : (s.modCore c f).dies = s.dies := by
  unfold State.modCore State.setCore; split <;> rfl

/-- Whose results a core produces does not change with its Loft. -/
theorem here_modLoft (s : State) (c : CoreNum) (f : Loft → Loft) : (s.modLoft c f).here = s.here := by
  by_cases hc : c = s.cur
  · subst hc; simp [State.modLoft, State.mapMe, State.here]
  · simp [State.modLoft, State.modCore, State.setCore, hc, State.here]

/-- A key put into a list of cores by number is listed, and so is every other that was. -/
theorem mem_insertAt (l : List (Nat × CoreNum)) (a b : CoreNum) (h : a = b ∨ (a.toNat, a) ∈ l) :
    (a.toNat, a) ∈ insertAt l b.toNat b := by
  induction l with
  | nil => simpa [insertAt] using h.imp_left fun e => e ▸ ⟨rfl, rfl⟩
  | cons e rest ih =>
    obtain ⟨n, w⟩ := e
    unfold insertAt
    split
    · rcases h with rfl | h <;> simp_all
    · split
      · next he =>
        subst he
        rcases h with rfl | h
        · exact List.mem_cons_self
        · rcases List.mem_cons.1 h with h | h
          · obtain rfl : a = b := BitVec.eq_of_toNat_eq (Prod.mk.inj h).1
            exact List.mem_cons_self
          · exact List.mem_cons_of_mem _ h
      · rcases h with rfl | h
        · exact List.mem_cons_of_mem _ (ih (.inl rfl))
        · rcases List.mem_cons.1 h with h | h
          · exact h ▸ List.mem_cons_self
          · exact List.mem_cons_of_mem _ (ih (.inr h))

/-- Cores put one after another into a list by number are listed. -/
theorem mem_foldl_insertAt (es : List (Nat × CoreNum)) (hes : ∀ e ∈ es, e.1 = e.2.toNat) (l : List (Nat × CoreNum))
    (c : CoreNum) (h : (c.toNat, c) ∈ l ∨ (c.toNat, c) ∈ es) :
    (c.toNat, c) ∈ es.foldl (fun acc e => insertAt acc e.1 e.2) l := by
  induction es generalizing l with
  | nil => simpa using h
  | cons e rest ih =>
    obtain ⟨n, b⟩ := e
    obtain rfl : n = b.toNat := hes (n, b) List.mem_cons_self
    refine ih (fun e he => hes e (List.mem_cons_of_mem _ he)) _ ?_
    rcases h with h | h
    · exact .inl (mem_insertAt l c b (.inr h))
    · rcases List.mem_cons.1 h with h | h
      · exact .inl (mem_insertAt l c b (.inl (Prod.mk.inj h).2))
      · exact .inr h

/-- A core that is not in its reset state is live. -/
theorem mem_liveCores (s : State) (c : CoreNum) (h : s.coreAt c ≠ Core.reset) : (c.toNat, c) ∈ s.liveCores := by
  refine mem_foldl_insertAt _ (fun e he => ?_) _ c ?_
  · obtain ⟨x, -, rfl⟩ := List.mem_map.1 he
    rfl
  by_cases hc : c = s.cur
  · exact .inl (by simp [hc])
  · cases hg : assocGet s.others c with
    | none => exact absurd (by simp [State.coreAt, hc, hg]) h
    | some k => exact .inr (List.mem_map.2 ⟨(c, k), mem_of_assocGet hg, rfl⟩)

/-! ## Paddocks and their control pages -/

/-- The Paddock that has been changed. -/
theorem paddock?_modPaddock (s : State) (n : PdkNum) (f : Paddock → Paddock) (hf : ∀ q, (f q).num = q.num) :
    (s.modPaddock n f).paddock? n = (s.paddock? n).map f := by
  simp only [State.paddock?, State.modPaddock_paddocks, List.find?_map]
  have hnum : ((fun p : Paddock => p.num == n) ∘ fun p => if p.num = n then f p else p) = fun p => p.num == n := by
    funext p
    by_cases hp : p.num = n <;> simp [hp, hf]
  rw [hnum]
  cases hq : s.paddocks.find? fun p => p.num == n with
  | none => rfl
  | some q =>
    have hn : q.num = n := by simpa using List.find?_some hq
    simp [hn]

/-- The number of a Paddock found by number. -/
theorem num_of_paddock? {s : State} {n : PdkNum} {q : Paddock} (h : s.paddock? n = some q) : q.num = n := by
  simpa using List.find?_some h

/-- The control page of a Paddock on a die. -/
def page (s : State) (p : PdkNum) (d : DieNum) : Option CtrlPage := (s.paddock? p).bind fun y => y.ctrlOf d

/-- The control page of a Paddock that was found. -/
theorem page_of {s : State} {p : PdkNum} {d : DieNum} {q : Paddock} {k : CtrlPage} (hq : s.paddock? p = some q)
    (hk : q.ctrlOf d = some k) : page s p d = some k := by simp [page, hq, hk]

/-- The control page that has been changed. -/
theorem page_modCtrl (s : State) (p : PdkNum) (d : DieNum) (f : CtrlPage → CtrlPage) :
    page (s.modCtrl p d f) p d = (page s p d).map f := by
  unfold page State.modCtrl
  rw [paddock?_modPaddock _ _ _ (by simp)]
  cases s.paddock? p with
  | none => rfl
  | some q => simp [Paddock.ctrlOf, getElem?_updAt]

/-! ## What an access of a control page leaves in memory -/

/-- Memory, full bits and Lofts depend on these parts of the state alone. -/
theorem sameStorage_of {s t : State} (hmem : t.mem = s.mem) (henc : t.encBy = s.encBy) (hbits : t.fullBits = s.fullBits)
    (hcur : t.cur = s.cur) (hothers : t.others = s.others) (hloft : t.me.loft = s.me.loft) : s.sameStorage t := by
  refine ⟨fun key a => ?_, fun a => ?_, fun c slot off => ?_⟩
  · simp [State.readPhys, hmem, henc]
  · simp [State.fullBit, hbits]
  · have hc : t.loftAt c = s.loftAt c := by
      simp only [State.loftAt, State.coreAt, hcur, hothers]
      split
      · exact hloft
      · rfl
    rw [hc]

/-! ## Fields of a stored word -/

/-- A field as a number. -/
theorem field_eq_ofNat (v : Word) (lo w : Nat) : field v lo w = BitVec.ofNat w (v.toNat / 2 ^ lo) := by
  rw [field, BitVec.extractLsb', Nat.shiftRight_eq_div_pow]

/-- The lowest bits as a field. -/
theorem field_zero (v : Word) (w : Nat) : field v 0 w = v.setWidth w := by simp [field_eq_ofNat]

/-- A field in which 0 stores 1 (05 Table COR-5, 04 Table SCH-5). -/
theorem atLeastOne_field (v : Word) (lo w : Nat) :
    (if field v lo w = 0 then 1 else field v lo w)
      = BitVec.ofNat w (if v.toNat / 2 ^ lo % 2 ^ w = 0 then 1 else v.toNat / 2 ^ lo) := by
  have h0 : field v lo w = 0 ↔ v.toNat / 2 ^ lo % 2 ^ w = 0 := by
    rw [field_eq_ofNat, BitVec.toNat_eq]; simp
  by_cases h : field v lo w = 0
  · rw [if_pos h, if_pos (h0.1 h)]; rfl
  · rw [if_neg h, if_neg (fun e => h (h0.2 e)), field_eq_ofNat]

/-- AGING_A is at least 8 (04 Table SCH-5). -/
theorem atLeastEight_field (v : Word) :
    (if (field v 0 5).toNat < 8 then (8 : BitVec 5) else field v 0 5) = BitVec.ofNat 5 (max 8 (v.toNat % 32)) := by
  have hf : (field v 0 5).toNat = v.toNat % 32 := by simp [field_eq_ofNat]
  by_cases h : v.toNat % 32 < 8
  · rw [if_pos (hf ▸ h), Nat.max_eq_left (Nat.le_of_lt h)]; rfl
  · rw [if_neg (hf ▸ h), Nat.max_eq_right (Nat.le_of_not_lt h), ← hf, BitVec.ofNat_toNat, BitVec.setWidth_eq]

/-! ## The registers of the page -/

section
variable (k : CtrlPage) (v : Word)

/-- A store to OSTCFG. -/
theorem store_ostcfg : k.store .ostcfg v = { k with
    agingA := BitVec.ofNat 5 (max 8 (v.toNat % 32)), devD := v.extractLsb' 5 3, droopK := v.extractLsb' 8 4
    pwait := BitVec.ofNat 16 (if v.toNat / 2 ^ 12 % 2 ^ 16 = 0 then 1 else v.toNat / 2 ^ 12), preen := v.getLsbD 28 } := by
  simp only [CtrlPage.store, atLeastEight_field, atLeastOne_field, bit]
  rfl

/-- A store to WRRW. -/
theorem store_wrrw : k.store .wrrw v = { k with
    pkgw := BitVec.ofNat 8 (if v.toNat % 2 ^ 8 = 0 then 1 else v.toNat)
    diew := BitVec.ofNat 8 (if v.toNat / 2 ^ 8 % 2 ^ 8 = 0 then 1 else v.toNat / 2 ^ 8)
    clw := BitVec.ofNat 8 (if v.toNat / 2 ^ 16 % 2 ^ 8 = 0 then 1 else v.toNat / 2 ^ 16) } := by
  simp only [CtrlPage.store, atLeastOne_field, Nat.pow_zero, Nat.div_one]

/-- A store to DRAINWIN: a value outside 8 to 32 is ignored. -/
theorem store_drainwin : k.store .drainwin v =
    if 8 ≤ v.toNat % 64 ∧ v.toNat % 64 ≤ 32 then { k with drainwin := v.setWidth 6 } else k := by
  simp [CtrlPage.store, field_zero]

/-- A store to TLBINVA while no invalidation runs. -/
theorem store_tlbinva (hb : k.busy = false) : k.store .tlbinva v =
    { k with tlbinva := BitVec.ofNat 64 (v.toNat % 4 + v.toNat / 2 ^ 16 % 2 ^ 32 * 2 ^ 16) } := by
  have hv : (field v 0 2).setWidth 64 ||| ((field v 16 32).setWidth 64 <<< 16)
      = BitVec.ofNat 64 (v.toNat % 4 + v.toNat / 2 ^ 16 % 2 ^ 32 * 2 ^ 16) := by
    have hor := Nat.shiftLeft_add_eq_or_of_lt (b := v.toNat % 4) (i := 16) (by omega) (v.toNat / 2 ^ 16 % 2 ^ 32)
    have hlow : (field v 0 2).setWidth 64 = BitVec.ofNat 64 (v.toNat % 4) := by
      apply BitVec.eq_of_toNat_eq
      simp [field_eq_ofNat]
    have hhigh : (field v 16 32).setWidth 64 <<< 16 = BitVec.ofNat 64 ((v.toNat / 2 ^ 16 % 2 ^ 32) <<< 16) := by
      apply BitVec.eq_of_toNat_eq
      simp [field_eq_ofNat, Nat.shiftLeft_eq]
    rw [hlow, hhigh, ← BitVec.ofNat_or, Nat.or_comm, ← hor, Nat.shiftLeft_eq, Nat.add_comm]
  simp [CtrlPage.store, hb, hv]

/-- A store to TLBINVA while an invalidation runs is ignored (03 R56). -/
theorem store_tlbinva_busy (hb : k.busy = true) : k.store .tlbinva v = k := by simp [CtrlPage.store, hb]

/-- A store to TLBINVC with GO set starts an invalidation (03 R56). -/
theorem store_tlbinvc (hv : v.getLsbD 0 = true) : k.store .tlbinvc v = { k with busy := true } := by
  simp only [CtrlPage.store, bit, hv, if_true]

/-- A store to HOLDCTL while no action runs (04 R84). -/
theorem store_holdctl (hb : k.holdBusy = false) : k.store .holdctl v = { k with
    holdAction := v.setWidth 2, holdL0 := v.getLsbD 2, holdAddr := BitVec.ofNat 48 (v.toNat % 2 ^ 48 / 32 * 32)
    holdBusy := decide (v.toNat % 4 ≠ 0), holdDone := false } := by
  have haddr : ((field v 5 43).setWidth 48) <<< 5 = BitVec.ofNat 48 (v.toNat % 2 ^ 48 / 32 * 32) := by
    apply BitVec.eq_of_toNat_eq
    simp [field_eq_ofNat, Nat.shiftLeft_eq]
    omega
  have hbusy : (v.setWidth 2 != (0 : BitVec 2)) = decide (v.toNat % 4 ≠ 0) := by
    rw [bne, Bool.eq_iff_iff]
    simp [BitVec.toNat_eq]
  simp only [CtrlPage.store, hb, Bool.false_eq_true, if_false, field_zero, haddr, hbusy, bit]

/-- A store to HOLDNAME. -/
theorem store_holdname : k.store .holdname v = { k with holdName := v.setWidth 48 } := by
  simp only [CtrlPage.store, field_zero]

end

/-- INGLIM of a core with no configuration acts at once (05 R97; notes/assumptions/75.md). -/
theorem storeInglim_unloaded (f : Fabric) (v : Word) (hf : f.config = none) : f.storeInglim v = { f with
    limT := v.setWidth 16
    limW := BitVec.ofNat 16 (if v.toNat / 2 ^ 16 % 2 ^ 16 = 0 then 1 else v.toNat / 2 ^ 16), limNext := none } := by
  simp only [Fabric.storeInglim, hf, Option.isSome_none, Bool.false_eq_true, if_false, field_zero, atLeastOne_field]

/-! ## Stores -/

/-- A store to a register that is not INGLIM changes the page alone. -/
theorem ctrlWrite_page {s : State} {p : PdkNum} {d : DieNum} {off : Nat} {q : Paddock} (v : Word)
    (hq : s.paddock? p = some q) (hreg : ∀ c, ctrlReg d off ≠ .inglim c) :
    s.ctrlWrite p d off v = s.modCtrl p d (·.store (ctrlReg d off) v) := by
  unfold State.ctrlWrite
  rw [hq]
  cases hr : ctrlReg d off with
  | inglim c => exact absurd hr (hreg c)
  | _ => rfl

/-- A store to INGLIM of the focused core, where it is the Paddock's. -/
theorem ctrlWrite_inglim {s : State} {p : PdkNum} {d : DieNum} {off : Nat} {q : Paddock} (v : Word)
    (hq : s.paddock? p = some q) (hreg : ctrlReg d off = .inglim s.cur) (hok : s.coreRegOk q s.cur = true) :
    s.ctrlWrite p d off v = s.mapMe fun c => { c with fabric := c.fabric.storeInglim v } := by
  simp [State.ctrlWrite, hq, hreg, hok]

/-- The registers to which REGISTER_WRITE stores whatever the value. -/
def plainRegisters : List CtrlReg := [.ostcfg, .wrrw, .drainwin, .tlbinva, .holdctl, .holdname]

section
variable {s : State} {x : PendStore} {p : PdkNum} {d : DieNum} {off : Nat} {q : Paddock} {k : CtrlPage}
  (hfind : s.me.pipe.stores.find? (fun y => y.id == x.id) = some x) (hown : x.owner = s.here)
  (hkind : x.kind = .plain) (hrel : x.rel = false) (htgt : x.target = .ctrl p d off)
  (hr : s.reaches x.id x.target x.bytes true) (hq : s.paddock? p = some q) (hk : q.ctrlOf d = some k)

include hfind hown hkind hrel htgt hr in
/-- A store that may perform and that meets no error performs at its register, where the register meets the event's
test. -/
theorem ackRegister_ctrl {test : CtrlReg → PendStore → Bool} (ht : test (ctrlReg d off) x = true) :
    s.ackRegister s.cur x.id test = .next ((s.dropStore x.id).ctrlWrite p d off x.value) := by
  obtain ⟨hperf, herr⟩ := hr
  have hready : s.storeReady x = true := by simp [State.storeReady, hown, hperf, hrel]
  have hreg : x.target.register = ctrlReg d off := by rw [htgt]; rfl
  have hack : s.ackStore x.id false = (s.dropStore x.id).ctrlWrite p d off x.value := by
    rw [htgt] at herr
    simp [State.ackStore, hfind, hready, State.endError, herr, State.performStore, hkind, htgt]
  simp [State.ackRegister, hfind, hreg, ht, hack]

include hq hk in
/-- Where a store to a register of the page performs, the page takes its fields; no byte of memory, no register and no
other core changes. -/
theorem ctrlWrite_page_frame (hreg : ∀ c, ctrlReg d off ≠ .inglim c) :
    let t := (s.dropStore x.id).ctrlWrite p d off x.value
    page t p d = some (k.store (ctrlReg d off) x.value) ∧ s.sameStorage t ∧ t.me.seq = s.me.seq ∧ t.others = s.others := by
  intro t
  have ht : t = (s.dropStore x.id).modCtrl p d (·.store (ctrlReg d off) x.value) :=
    ctrlWrite_page (s := s.dropStore x.id) _ hq hreg
  have hpage : page (s.dropStore x.id) p d = some k := page_of hq hk
  rw [ht, page_modCtrl, hpage]
  exact ⟨rfl, sameStorage_of rfl rfl rfl rfl rfl rfl, rfl, rfl⟩

include hfind hown hkind hrel htgt hr hq hk

/-- REGISTER_WRITE of a store to one of the plain registers. -/
theorem registerWrite_spec {r : CtrlReg} {k' : CtrlPage} (hreg : ctrlReg d off = r) (hmem : r ∈ plainRegisters)
    (hk' : k.store r x.value = k') : Answers (exec (.registerWrite (.store s.cur x.id)) s) fun t =>
      page t p d = some k' ∧ s.sameStorage t ∧ t.me.seq = s.me.seq ∧ t.others = s.others := by
  have hne : ∀ c, ctrlReg d off ≠ .inglim c := by
    rintro c h
    simp [← hreg, h, plainRegisters] at hmem
  subst hk' hreg
  rw [exec_registerWrite, execRegisterWrite, State.storeRegister]
  refine ⟨_, ackRegister_ctrl hfind hown hkind hrel htgt hr ?_, ctrlWrite_page_frame hq hk hne⟩
  simp only [plainRegisters, List.mem_cons, List.not_mem_nil, or_false] at hmem
  rcases hmem with h | h | h | h | h | h <;> rw [h]

/-- GO: a store to TLBINVC with bit 0 set (03 R56). -/
theorem go_spec (hreg : ctrlReg d off = .tlbinvc) (hv : x.value.getLsbD 0 = true) :
    Answers (exec (.go s.cur x.id) s) fun t =>
      page t p d = some { k with busy := true } ∧ s.sameStorage t ∧ t.me.seq = s.me.seq ∧ t.others = s.others := by
  have hstore : k.store (ctrlReg d off) x.value = { k with busy := true } := hreg ▸ store_tlbinvc k _ hv
  rw [← hstore, exec_go, execGo]
  refine ⟨_, ackRegister_ctrl hfind hown hkind hrel htgt hr ?_, ctrlWrite_page_frame hq hk (by simp [hreg])⟩
  simpa [hreg, bit] using hv

omit hk in
/-- INGLIM of the focused core without a configuration: the limit takes effect at once (05 R97). -/
theorem ingLim_spec (hreg : ctrlReg d off = .inglim s.cur) (hok : s.coreRegOk q s.cur = true)
    (hcfg : s.me.fabric.config = none) : Answers (exec (.ingLim s.cur x.id) s) fun t =>
      t.me.fabric.limT = x.value.setWidth 16
        ∧ t.me.fabric.limW = BitVec.ofNat 16 (if x.value.toNat / 2 ^ 16 % 2 ^ 16 = 0 then 1 else x.value.toNat / 2 ^ 16)
        ∧ t.me.fabric.limNext = none ∧ t.me.seq = s.me.seq ∧ s.sameStorage t := by
  have hwrite : (s.dropStore x.id).ctrlWrite p d off x.value
      = (s.dropStore x.id).mapMe fun c => { c with fabric := c.fabric.storeInglim x.value } :=
    ctrlWrite_inglim (s := s.dropStore x.id) _ hq hreg hok
  have hfab := storeInglim_unloaded s.me.fabric x.value hcfg
  rw [exec_ingLim, execIngLim]
  refine ⟨_, ackRegister_ctrl hfind hown hkind hrel htgt hr (by simp [hreg]), ?_⟩
  rw [hwrite]
  exact ⟨congrArg Fabric.limT hfab, congrArg Fabric.limW hfab, congrArg Fabric.limNext hfab, rfl,
    sameStorage_of rfl rfl rfl rfl rfl rfl⟩

end

/-! ## Loads -/

/-- The clearing of counters does not change whose results the core produces. -/
theorem clearByRead_here (s : State) (q : Paddock) (d : DieNum) (off : Nat) :
    (s.clearByRead q d off).here = s.here := by
  unfold State.clearByRead
  split
  · rfl
  · split
    · exact here_modLoft ..
    · rfl
  · split
    · exact here_modLoft ..
    · rfl
  · rfl

/-- The state after a load of a register has read it: the load is no longer out, and its return is noted. -/
def afterLoad (s : State) (l : PendLoad) : State :=
  (s.dropLoad l.id).mapPipe fun y => y.noteRead l.owner l.id l.target l.bytes

section
variable {s : State} {l : PendLoad} {sg : Bool} {p : PdkNum} {d : DieNum} {off : Nat} {q : Paddock} {k : CtrlPage}
  (hq : s.paddock? p = some q) (hk : q.ctrlOf d = some k)
  (hfind : s.me.pipe.loads.find? (fun y => y.id == l.id) = some l) (hown : l.owner = s.here)
  (hkind : l.kind = .plain sg) (htgt : l.target = .ctrl p d off) (hr : s.reaches l.id l.target l.bytes false)

include hq hfind hown hkind htgt hr in
/-- A load of a register that may return and meets no error brings back its value and clears what a read clears. -/
theorem returnRegister_ctrl {test : CtrlReg → Bool} (ht : test (ctrlReg d off) = true) :
    s.returnRegister s.cur l.id test
      = .next ((afterLoad (s.clearByRead q d off) l).put l.dst (s.ctrlValue q d off)) := by
  have hhere := clearByRead_here s q d off
  obtain ⟨hperf, herr⟩ := hr
  have hready : s.loadReady l = true := by simp [State.loadReady, hkind, hown, hperf]
  have hend : l.endError s false = none := by simp [PendLoad.endError, hkind, State.endError, herr]
  have hvalue : s.loadValue l = (s.ctrlValue q d off, s.clearByRead q d off) := by
    simp [State.loadValue, hkind, htgt, State.ctrlRead, hq]
  have hfill : (afterLoad (s.clearByRead q d off) l).fillTask (s.clearByRead q d off).cur l.owner l.dst (s.ctrlValue q d off)
      = (afterLoad (s.clearByRead q d off) l).put l.dst (s.ctrlValue q d off) := by
    have hc : (afterLoad (s.clearByRead q d off) l).cur = (s.clearByRead q d off).cur := rfl
    have ho : (afterLoad (s.clearByRead q d off) l).here = l.owner := hhere.trans hown.symm
    rw [State.fillTask, ← hc, State.onCore_cur, ← ho, State.fillFor_here]
  have hreg : l.target.register = ctrlReg d off := by rw [htgt]; rfl
  rw [← hfill]
  simp [State.returnRegister, hfind, hreg, ht, State.returnLoad, hready, hend, hvalue, afterLoad]

include hq hk hfind hown hkind htgt hr in
/-- THRCNT_READ returns the counter and clears it (05 R96). -/
theorem thrcntRead_spec (hreg : ctrlReg d off = .thrcnt) : Answers (exec (.thrcntRead s.cur l.id) s) fun t =>
    t.me.seq = s.me.seq.put l.dst (k.throttle.setWidth 64) ∧ page t p d = some { k with throttle := 0 } := by
  have hvalue : s.ctrlValue q d off = k.throttle.setWidth 64 := by simp [State.ctrlValue, hk, hreg]
  have hclear : s.clearByRead q d off = s.modCtrl p d fun k => { k with throttle := 0 } := by
    simp [State.clearByRead, hreg, num_of_paddock? hq]
  refine ⟨_, returnRegister_ctrl hq hfind hown hkind htgt hr (test := (· == .thrcnt)) (by simp [hreg]), ?_, ?_⟩
  · rw [hvalue, hclear]; rfl
  · have hpage := page_modCtrl s p d fun k => { k with throttle := 0 }
    rw [page_of hq hk] at hpage
    rw [hclear]
    exact hpage

include hq hk hfind hown hkind htgt hr in
/-- PARTCNT_READ returns BLOCKCLK and GRANTS of the partition and clears BLOCKCLK (06 R113). -/
theorem partcntRead_spec {n : Nat} (hn : n < 8) (hreg : ctrlReg d off = .partcnt s.cur n) (hok : s.coreRegOk q s.cur = true)
    (hlen : s.me.loft.blockClk.length = 8) : Answers (exec (.partcntRead s.cur l.id) s) fun t =>
    t.me.seq = s.me.seq.put l.dst (BitVec.ofNat 64
        ((s.me.loft.blockClk.getD n 0).toNat + (s.me.loft.grants.getD n 0).toNat * 2 ^ 32))
      ∧ t.me.loft.blockClk.getD n 1 = 0 ∧ t.me.loft.grants = s.me.loft.grants := by
  have hvalue : s.ctrlValue q d off = BitVec.ofNat 64
      ((s.me.loft.blockClk.getD n 0).toNat + (s.me.loft.grants.getD n 0).toNat * 2 ^ 32) := by
    simp [State.ctrlValue, hk, hreg, hok, Loft.partcnt, getAt]
  have hclear : s.clearByRead q d off
      = s.mapMe fun c => { c with loft := { c.loft with blockClk := updAt c.loft.blockClk n fun _ => 0 } } := by
    simp [State.clearByRead, hreg, hok, State.modLoft]
  rw [exec_partcntRead, execPartcntRead]
  refine ⟨_, returnRegister_ctrl hq hfind hown hkind htgt hr (by simp [hreg]), ?_, ?_, ?_⟩
  · rw [hvalue, hclear]; rfl
  · have hcell : (updAt s.me.loft.blockClk n fun _ => 0)[n]? = some 0 := by simp [getElem?_updAt, hlen, hn]
    rw [hclear]
    show (updAt s.me.loft.blockClk n fun _ => 0).getD n 1 = 0
    rw [List.getD_eq_getElem?_getD, hcell]
    rfl
  · rw [hclear]; rfl

include hq hk hfind hown hkind htgt hr in
/-- LOFTSTAT_READ returns the counters of the Loft and clears ABANDON (06 R113). -/
theorem loftstatRead_spec (hreg : ctrlReg d off = .loftstat s.cur) (hok : s.coreRegOk q s.cur = true) :
    Answers (exec (.loftstatRead s.cur l.id) s) fun t =>
      t.me.seq = s.me.seq.put l.dst s.me.loft.loftstat ∧ t.me.loft = { s.me.loft with abandon := 0 } := by
  have hvalue : s.ctrlValue q d off = s.me.loft.loftstat := by simp [State.ctrlValue, hk, hreg, hok]
  have hclear : s.clearByRead q d off = s.mapMe fun c => { c with loft := { c.loft with abandon := 0 } } := by
    simp [State.clearByRead, hreg, hok, State.modLoft]
  rw [exec_loftstatRead, execLoftstatRead]
  refine ⟨_, returnRegister_ctrl hq hfind hown hkind htgt hr (by simp [hreg]), ?_, ?_⟩
  · rw [hvalue, hclear]; rfl
  · rw [hclear]; rfl

end

/-! ## The end of an invalidation -/

/-- No entry of a Paddock in a TLB overlaps a range. -/
def Gone (p : PdkNum) (lo size : Nat) (l : List TlbEntry) : Prop :=
  ∀ e ∈ l, e.pdk = p → e.base.toNat + pageSize e.level ≤ lo ∨ lo + size ≤ e.base.toNat

/-- Whether an invalidation of a range keeps an entry. -/
def keeps (p : PdkNum) (lo size : Nat) (e : TlbEntry) : Bool :=
  e.pdk != p || decide (e.base.toNat + pageSize e.level ≤ lo ∨ lo + size ≤ e.base.toNat)

/-- What an invalidation keeps does not overlap its range. -/
theorem gone_filter (p : PdkNum) (lo size : Nat) (l : List TlbEntry) : Gone p lo size (l.filter (keeps p lo size)) := by
  intro e he hp
  simpa [keeps, hp] using (List.mem_filter.1 he).2

/-- The TLB of a core of a die without the entries of a range; a core of another die keeps its own. -/
def dropCore (p : PdkNum) (d : DieNum) (lo size : Nat) (s : State) (c : CoreNum) : State :=
  if dieOf c = d then s.modCore c fun k => { k with tlb := k.tlb.filter (keeps p lo size) } else s

/-- `dropTlb` filters the die's TLB and then that of each live core. -/
theorem dropTlb_eq (s : State) (p : PdkNum) (d : DieNum) (lo size : Nat) :
    s.dropTlb p d lo size = s.liveCores.foldl (fun s e => dropCore p d lo size s e.2)
      (s.modDie d fun x => { x with tlb := x.tlb.filter (keeps p lo size) }) := rfl

@[simp] theorem dropCore_paddocks (p : PdkNum) (d : DieNum) (lo size : Nat) (s : State) (c : CoreNum) :
    (dropCore p d lo size s c).paddocks = s.paddocks := by unfold dropCore; split <;> simp
@[simp] theorem dropCore_dies (p : PdkNum) (d : DieNum) (lo size : Nat) (s : State) (c : CoreNum) :
    (dropCore p d lo size s c).dies = s.dies := by unfold dropCore; split <;> simp

/-- A core whose TLB has been filtered, or was clear of the range before, is clear of it. -/
theorem gone_dropCore {p : PdkNum} {d : DieNum} {lo size : Nat} {s : State} {c x : CoreNum} (hd : dieOf x = d)
    (h : x = c ∨ Gone p lo size (s.coreAt x).tlb) : Gone p lo size ((dropCore p d lo size s c).coreAt x).tlb := by
  by_cases hx : x = c
  · subst hx
    simpa [dropCore, hd, coreAt_modCore] using gone_filter p lo size _
  · have hkeep : (dropCore p d lo size s c).coreAt x = s.coreAt x := by
      unfold dropCore; split <;> simp [coreAt_modCore, hx]
    simpa [hkeep] using h.resolve_left hx

/-- The TLBs of cores filtered one after another: Paddocks and dies stay, and every core that was clear of the range or was
filtered is clear of it. -/
theorem foldl_dropCore (p : PdkNum) (d : DieNum) (lo size : Nat) (es : List (Nat × CoreNum)) (s : State) :
    let t := es.foldl (fun s e => dropCore p d lo size s e.2) s
    t.paddocks = s.paddocks ∧ t.dies = s.dies
      ∧ ∀ x, dieOf x = d → ((∃ e ∈ es, e.2 = x) ∨ Gone p lo size (s.coreAt x).tlb) → Gone p lo size (t.coreAt x).tlb := by
  induction es generalizing s with
  | nil => exact ⟨rfl, rfl, fun x _ h => by simpa using h⟩
  | cons e rest ih =>
    obtain ⟨hp, hdies, hgone⟩ := ih (dropCore p d lo size s e.2)
    refine ⟨hp.trans (dropCore_paddocks ..), hdies.trans (dropCore_dies ..), fun x hx h => hgone x hx ?_⟩
    rcases h with ⟨y, hy, rfl⟩ | h
    · rcases List.mem_cons.1 hy with rfl | hy
      · exact .inr (gone_dropCore hx (.inl rfl))
      · exact .inl ⟨y, hy, rfl⟩
    · exact .inr (gone_dropCore hx (.inr h))

/-- An invalidation leaves the control pages and clears the die's TLB and that of every core on it. -/
theorem dropTlb_spec (s : State) (p : PdkNum) (d : DieNum) (lo size : Nat) :
    let t := s.dropTlb p d lo size
    t.paddocks = s.paddocks ∧ Gone p lo size (t.die d).tlb ∧ ∀ c, dieOf c = d → Gone p lo size (t.coreAt c).tlb := by
  intro t
  obtain ⟨hp, hdies, hgone⟩ := foldl_dropCore p d lo size s.liveCores
    (s.modDie d fun x => { x with tlb := x.tlb.filter (keeps p lo size) })
  rw [← dropTlb_eq] at hp hdies hgone
  refine ⟨hp, ?_, fun c hc => hgone c hc ?_⟩
  · have hdie : t.die d
        = ((s.dies[d.toNat]?).map fun x => { x with tlb := x.tlb.filter (keeps p lo size) }).getD Die.reset := by
      simp only [State.die, getAt, t, hdies, State.modDie_dies, getElem?_updAt]
    rw [hdie]
    cases s.dies[d.toNat]? with
    | none => simp [Gone, Die.reset]
    | some x => exact gone_filter p lo size x.tlb
  · by_cases hreset : s.coreAt c = Core.reset
    · refine .inr fun e he => ?_
      have hnil : (s.coreAt c).tlb = [] := by rw [hreset]; rfl
      exact absurd (hnil ▸ he : e ∈ ([] : List TlbEntry)) (List.not_mem_nil)
    · exact .inl ⟨_, mem_liveCores s c hreset, rfl⟩

/-- INVALIDATION_DONE of a page whose invalidation runs, with no access in flight that used an entry to be dropped. -/
theorem invalidationDone_spec {s : State} {p : PdkNum} {d : DieNum} {k : CtrlPage} {lo size : Nat}
    (hk : page s p d = some k) (hbusy : k.busy = true) (hrange : invRange k.tlbinva = (lo, size))
    (hidle : s.usesDropped p d lo size = false) : Answers (exec (.invalidationDone p d) s) fun t =>
      page t p d = some { k with busy := false, doneCount := k.doneCount + 1 } ∧ Gone p lo size (t.die d).tlb
        ∧ ∀ c, dieOf c = d → Gone p lo size (t.coreAt c).tlb := by
  obtain ⟨hp, hdie, hcores⟩ := dropTlb_spec s p d lo size
  have hk' : (s.paddock? p).bind (·.ctrlOf d) = some k := hk
  have hpage : page (s.dropTlb p d lo size) p d = some k := by
    rw [← hk]
    simp only [page, State.paddock?, hp]
  refine ⟨(s.dropTlb p d lo size).modCtrl p d fun k => { k with busy := false, doneCount := k.doneCount + 1 },
    ?_, ?_, hdie, hcores⟩
  · simp [execInvalidationDone, hk', hrange, hbusy, hidle]
  · rw [page_modCtrl, hpage]
    rfl

/-! ## The obligation -/

/-- Settles O29: a store performs at its register (`ackRegister_ctrl`) and the page takes its fields (`store_ostcfg` and its
like), a load of a counter returns and clears it (`returnRegister_ctrl`), and an invalidation ends
(`invalidationDone_spec`). -/
theorem controlPages : Obligations.ControlPages := by
  unfold Obligations.ControlPages
  refine ⟨?stores, ?rest⟩
  case stores =>
    intro s x p d off q k hfind hown hkind hrel htgt hr hq hk v gives byStore atLeast1
    have write {r : CtrlReg} {k' : CtrlPage} := registerWrite_spec hfind hown hkind hrel htgt hr hq hk (r := r) (k' := k')
    refine ⟨?ostcfg, ?wrrw, ?drainwin, ?tlbinva, ?tlbinvaBusy, ?holdctl, ?holdname, ?go, ?inglim⟩
    case ostcfg => exact fun h => write (r := .ostcfg) (h ▸ rfl) (by decide) (store_ostcfg k v)
    case wrrw => exact fun h => write (r := .wrrw) (h ▸ rfl) (by decide) (store_wrrw k v)
    case drainwin => exact fun h => write (r := .drainwin) (h ▸ rfl) (by decide) (store_drainwin k v)
    case tlbinva => exact fun h hb => write (r := .tlbinva) (h ▸ rfl) (by decide) (store_tlbinva k v hb)
    case tlbinvaBusy => exact fun h hb => write (r := .tlbinva) (h ▸ rfl) (by decide) (store_tlbinva_busy k v hb)
    case holdctl => exact fun h hb => write (r := .holdctl) (h ▸ rfl) (by decide) (store_holdctl k v hb)
    case holdname => exact fun h => write (r := .holdname) (h ▸ rfl) (by decide) (store_holdname k v)
    case go => exact fun h hv => go_spec hfind hown hkind hrel htgt hr hq hk (h ▸ rfl) hv
    case inglim =>
      rintro c rfl hreg hok hcfg
      exact ingLim_spec hfind hown hkind hrel htgt hr hq hreg hok hcfg
  case rest =>
    intro s p d q k hq hk
    refine ⟨?loads, ?invalidation⟩
    case loads =>
      intro l off sg hfind hown hkind htgt hr core loft
      refine ⟨?thrcnt, ?partcnt, ?loftstat⟩
      case thrcnt =>
        rintro rfl
        exact thrcntRead_spec hq hk hfind hown hkind htgt hr rfl
      case partcnt => exact fun n hn hreg hok hlen => partcntRead_spec hq hk hfind hown hkind htgt hr hn hreg hok hlen
      case loftstat => exact fun hreg hok => loftstatRead_spec hq hk hfind hown hkind htgt hr hreg hok
    case invalidation =>
      intro hbusy lo size gone hidle
      exact invalidationDone_spec (page_of hq hk) hbusy rfl hidle

end Sys2Proof.ControlPages
end

section
/-!
PROOF. Instants (O46): what the elements and ports of a running configuration do in an instant leaves memory, full bits,
registers and the configuration's own count and image as they are, until the instant ends.
-/
namespace Sys2Proof.Instants
open Sys2Proof Sys2Proof.Machine Sys2Proof.ControlPages

/-! ## What an instant keeps -/

/-- What stays of a configuration in an instant: its count, its serial number and its image. -/
def stamp (g : RunConfig) : Nat × Nat × Image := (g.instant, g.id, g.image)

/-- What a fabric says of its configuration, and the last count. -/
def mark (f : Fabric) : Option (Nat × Nat × Image) × Nat := (f.config.map stamp, f.lastCount)

/-- What stays of a core in an instant: its sequencer and what its fabric says of its configuration. -/
def brief (k : Core) : Seq × Option (Nat × Nat × Image) × Nat := (k.seq, mark k.fabric)

/-- The configurations of all cores, and which core is focused. -/
def running (s : State) : CoreNum × (CoreNum → Option (Nat × Nat × Image) × Nat) :=
  (s.cur, fun c => mark (s.coreAt c).fabric)

/-- What is visible of a state while an instant is under way. -/
structure Seen where
  running : CoreNum × (CoreNum → Option (Nat × Nat × Image) × Nat)
  mem : List Host.Cell
  encBy : List (Nat × BitVec 512)
  fullBits : List Nat
  seq : Seq

/-- What is visible of a state while an instant is under way. -/
def seen (s : State) : Seen := ⟨running s, s.mem, s.encBy, s.fullBits, s.me.seq⟩

/-- A fold whose every step keeps something keeps it. -/
theorem foldl_keeps {σ α γ : Type} (p : σ → γ) {f : σ → α → σ} (h : ∀ s a, p (f s a) = p s) (l : List α) (s : σ) :
    p (l.foldl f s) = p s := by
  induction l generalizing s with
  | nil => rfl
  | cons a rest ih => exact (ih (f s a)).trans (h s a)

/-! ## Operations on cores -/

theorem running_of_seen {s t : State} (h : seen t = seen s) : running t = running s := congrArg Seen.running h

/-- The configuration of the focused core among those of all cores. -/
theorem mark_me (s : State) : mark s.me.fabric = (running s).2 (running s).1 := by simp [running]

theorem mark_me_of_running {s t : State} (h : running t = running s) : mark t.me.fabric = mark s.me.fabric := by
  rw [mark_me, mark_me, h]

theorem running_modCore {s : State} {c : CoreNum} {f : Core → Core}
    (h : ∀ k, mark (f k).fabric = mark k.fabric := by intro; rfl) : running (s.modCore c f) = running s := by
  have hcur : (s.modCore c f).cur = s.cur := by unfold State.modCore State.setCore; split <;> rfl
  refine Prod.ext hcur (funext fun x => ?_)
  simp only [running, coreAt_modCore]
  split
  · next hx => rw [hx, h]
  · rfl

/-- A change of a core that keeps its sequencer and its configuration's stamp is not seen. -/
theorem seen_modCore {s : State} {c : CoreNum} {f : Core → Core} (h : ∀ k, brief (f k) = brief k := by intro; rfl) :
    seen (s.modCore c f) = seen s := by
  have hq (k : Core) : (f k).seq = k.seq := congrArg Prod.fst (h k)
  have hr : running (s.modCore c f) = running s := running_modCore fun k => congrArg Prod.snd (h k)
  unfold seen
  rw [hr]
  by_cases hc : c = s.cur
  · subst hc; simp [hq]
  · simp [State.modCore, State.setCore, hc]

/-- A change of the focused core that keeps its sequencer and its configuration's stamp is not seen. -/
theorem seen_mapMe {s : State} {f : Core → Core} (h : ∀ k, brief (f k) = brief k := by intro; rfl) :
    seen (s.mapMe f) = seen s := by
  rw [← State.modCore_cur]
  exact seen_modCore h

@[simp] theorem seen_mapPipe (s : State) (f : Pipe → Pipe) : seen (s.mapPipe f) = seen s :=
  seen_mapMe (f := fun c => { c with pipe := f c.pipe })
@[simp] theorem seen_modLoft (s : State) (c : CoreNum) (f : Loft → Loft) : seen (s.modLoft c f) = seen s :=
  seen_modCore
@[simp] theorem seen_drew (s : State) : seen s.drew = seen s := rfl
@[simp] theorem seen_anyWord (s : State) : seen s.anyWord.2 = seen s := rfl
@[simp] theorem seen_modDie (s : State) (d : DieNum) (f : Die → Die) : seen (s.modDie d f) = seen s := rfl
@[simp] theorem seen_modPaddock (s : State) (n : PdkNum) (f : Paddock → Paddock) : seen (s.modPaddock n f) = seen s := rfl
@[simp] theorem seen_sendTile (s : State) (k : TileMsgKind) (r h : CoreNum) (w : BitVec 32) (c o : Nat) :
    seen (s.sendTile k r h w c o) = seen s := rfl
@[simp] theorem seen_pend (s : State) (c : CoreNum) (t : PendTrap) : seen (s.pend c t) = seen s :=
  seen_modCore

@[simp] theorem seen_report (s : State) (t : EventType) (p : Option PdkNum) (log : Bool) (r : FaultRecord) :
    seen (s.report t p log r) = seen s := by
  unfold State.report; split <;> rfl

@[simp] theorem seen_tierEvent (s : State) (p : PdkNum) (va pc : Word) : seen (s.tierEvent p va pc) = seen s :=
  seen_report ..

@[simp] theorem seen_raiseDetached (s : State) (p : PdkNum) (f : FaultInfo) : seen (s.raiseDetached p f) = seen s := by
  unfold State.raiseDetached
  split
  · exact seen_pend ..
  · rfl

@[simp] theorem seen_raiseFor (s : State) (c : CoreNum) (o : Owner) (f : FaultInfo) (tpc : Option Word) :
    seen (s.raiseFor c o f tpc) = seen s := by
  unfold State.raiseFor
  split
  · exact seen_pend ..
  · exact seen_raiseDetached ..

/-! ## Consuming reads and tiles -/

@[simp] theorem seen_sendCount (s : State) (c : CoreNum) (h : BitVec 32) : seen (s.sendCount c h) = seen s := by
  unfold State.sendCount; split <;> simp

@[simp] theorem seen_sendUnhold (s : State) (c : CoreNum) (h : BitVec 32) : seen (s.sendUnhold c h) = seen s := by
  unfold State.sendUnhold; split <;> simp

@[simp] theorem seen_dropConsumes (s : State) (c : CoreNum) (p : Consume → Bool) : seen (s.dropConsumes c p) = seen s := by
  refine (seen_modCore).trans (foldl_keeps seen (fun s k => ?_) _ s)
  split <;> simp

@[simp] theorem seen_commitConsumes (s : State) (c : CoreNum) (p : Consume → Bool) :
    seen (s.commitConsumes c p) = seen s :=
  (seen_modCore).trans (foldl_keeps seen (fun _ _ => seen_sendCount ..) _ s)

@[simp] theorem seen_releaseTiles (s : State) (p : Tile → Bool) : seen (s.releaseTiles p) = seen s :=
  foldl_keeps seen (fun s _ => seen_modLoft s _ _) _ s

@[simp] theorem seen_passReads (s : State) (k : Nat) : seen (s.passReads k) = seen s := seen_mapMe

@[simp] theorem seen_addConsume (s : State) (x : Consume) : seen (s.addConsume x) = seen s := seen_mapMe

/-- The state that an admission answers. -/
def admittedState : Admitted → State
  | .ok s | .waits s | .fault s _ _ => s

/-- An admission changes consumes, tiles and messages alone. -/
theorem seen_admitRead (s : State) (pdk : PdkNum) (cmd operand : Nat) (h : BitVec 32) (b : Bool) :
    seen (admittedState (s.admitRead pdk cmd operand h b)) = seen s := by
  unfold State.admitRead
  split
  · split
    · rfl
    · split <;> rfl
  · split
    · rfl
    · split
      · split
        · exact (seen_addConsume ..).trans seen_mapMe
        · rfl
      · exact (seen_addConsume ..).trans (seen_sendTile ..)

/-! ## Completions -/

@[simp] theorem seen_finish (s : State) (c : CoreNum) (x : Completion) : seen (s.finish c x) = seen s := by
  unfold State.finish
  split
  · rfl
  · exact seen_modCore

@[simp] theorem seen_succeed (s : State) (k : Cmd) (det count : Nat) : seen (s.succeed k det count) = seen s :=
  seen_finish ..

@[simp] theorem seen_failWith (s : State) (k : Cmd) (code : Code) (w : Word) : seen (s.failWith k code w) = seen s := by
  unfold State.failWith
  split <;> simp

@[simp] theorem seen_refuse (s : State) (k : Cmd) (code : Code) (operand : Nat) (off : Option Nat) :
    seen (s.refuse k code operand off) = seen s := by
  unfold State.refuse
  split
  · exact seen_failWith ..
  · exact (seen_failWith ..).trans (seen_anyWord s)

@[simp] theorem seen_dropWork (s : State) (id : Nat) : seen (s.dropWork id) = seen s :=
  (seen_mapMe).trans (seen_dropConsumes ..)

/-! ## Translation and engine accesses -/

@[simp] theorem seen_fillL1 (s : State) (c : CoreNum) (e : TlbEntry) : seen (s.fillL1 c e) = seen s :=
  seen_modCore

/-- A translation changes TLBs alone. -/
@[simp] theorem seen_translate (s : State) (c : Option CoreNum) (pdk : PdkNum) (va : Word) (a : Acc) :
    seen (s.translate c pdk va a).1 = seen s := by
  unfold State.translate
  split
  · rfl
  split
  · rfl
  split
  · rfl
  extract_lets finish miss hit
  have hfinish (s : State) (e : Word) (l : Nat) : seen (finish s e l).1 = seen s := by
    simp only [finish]; split <;> rfl
  have hmiss (s : State) : seen (miss s).1 = seen s := by
    simp only [miss]
    split
    · split <;> rfl
    · split
      · rfl
      · split
        · exact hfinish ..
        · exact (hfinish ..).trans (by simp)
  have hhit (s : State) (e : TlbEntry) : seen (hit s e).1 = seen s := by
    simp only [hit]
    split
    · rfl
    · exact hfinish ..
  split
  · exact hmiss s
  · split
    · exact (hhit ..).trans seen_modCore
    · split
      · exact (hhit ..).trans (by simp)
      · exact hmiss s

@[simp] theorem seen_afterRead (s : State) (t : Target) : seen (s.afterRead t) = seen s := by
  unfold State.afterRead; split <;> rfl

@[simp] theorem seen_engTarget (s : State) (a : Agent) (va n : Nat) (wr : Bool) :
    seen (s.engTarget a va n wr).1 = seen s := by
  unfold State.engTarget
  generalize ha : (if wr then Acc.write a.priv else Acc.read a.priv).byEngine = acc
  have h := seen_translate s a.core a.pdk (BitVec.ofNat 64 va) acc
  split
  · next heq =>
    rw [heq] at h
    split
    · exact h
    · split
      · exact (seen_afterRead ..).trans h
      · exact h
  · exact h

@[simp] theorem seen_piece (s : State) (a : Agent) (va n : Nat) (wr : Bool) : seen (s.piece a va n wr).1 = seen s := by
  unfold State.piece
  split
  · rfl
  · have h := seen_engTarget s a va n wr
    split
    · next heq => rw [heq] at h; exact h
    · next s' t heq =>
      rw [heq] at h
      have hread : seen (if wr then s' else s'.afterRead t) = seen s' := by split <;> simp
      refine Eq.trans ?_ (hread.trans h)
      dsimp only
      split <;> rfl

/-- A stop leaves a state in which the same is visible. -/
def StopSees (x : Seen) : Stop → Prop
  | .wait => True
  | .pause t => seen t = x
  | .tier t _ => seen t = x
  | .fault t _ _ _ => seen t = x

/-- An answer leaves a state in which the same is visible, whether it goes on or stops. -/
def Leaves {α : Type} (x : Seen) (p : α → State) : Except Stop α → Prop
  | .ok a => seen (p a) = x
  | .error e => StopSees x e

/-- A fault as the stop of its command stops in the state in which it was met. -/
theorem stopOf_sees {s : State} {x : Seen} (h : seen s = x) (f : FaultInfo) (operand off va : Nat) :
    StopSees x (stopOf s f operand off va) := by
  unfold stopOf; split <;> exact h

theorem readPieces_sees (s : State) (a : Agent) (operand off va n fuel : Nat) :
    Leaves (seen s) Prod.fst (s.readPieces a operand off va n fuel) := by
  induction fuel generalizing s off va n with
  | zero => exact rfl
  | succ c ih =>
    unfold State.readPieces
    split
    · exact rfl
    dsimp only
    have h := seen_piece s a va (min n (4096 - va % 4096)) false
    split
    · next heq => rw [heq] at h; exact stopOf_sees h ..
    · next s' p heq =>
      rw [heq] at h
      have hrest := ih s' (off + min n (4096 - va % 4096)) (va + min n (4096 - va % 4096)) (n - min n (4096 - va % 4096))
      rw [h] at hrest
      split
      · next he => rw [he] at hrest; exact hrest
      · next he => rw [he] at hrest; exact hrest

theorem spanPieces_sees (s : State) (a : Agent) (operand off va : Nat) (bs : List Byte) (fuel : Nat) :
    Leaves (seen s) Prod.fst (s.spanPieces a operand off va bs fuel) := by
  induction fuel generalizing s off va bs with
  | zero => exact rfl
  | succ c ih =>
    unfold State.spanPieces
    split
    · exact rfl
    dsimp only
    have h := seen_piece s a va (min bs.length (4096 - va % 4096)) true
    split
    · next heq => rw [heq] at h; exact stopOf_sees h ..
    · next s' p heq =>
      rw [heq] at h
      have hrest := ih s' (off + min bs.length (4096 - va % 4096)) (va + min bs.length (4096 - va % 4096))
        (bs.drop (min bs.length (4096 - va % 4096)))
      rw [h] at hrest
      split
      · next he => rw [he] at hrest; exact hrest
      · next he => rw [he] at hrest; exact hrest

/-! ## The configuration and the ports -/

/-- A change of the running configuration that keeps its stamp is not seen. -/
theorem seen_modCfg {s : State} {f : RunConfig → RunConfig} (h : ∀ g, stamp (f g) = stamp g := by intro; rfl) :
    seen (s.modCfg f) = seen s := by
  have hf : stamp ∘ f = stamp := funext h
  exact seen_mapMe fun k => by simp [brief, mark, hf]

@[simp] theorem seen_modIngress (s : State) (p : Nat) (f : Port → Port) : seen (s.modIngress p f) = seen s :=
  seen_mapMe
@[simp] theorem seen_modEgress (s : State) (p : Nat) (f : Port → Port) : seen (s.modEgress p f) = seen s :=
  seen_mapMe

/-- A port command that stops shows nothing of what it had begun. -/
theorem stopPort_sees {s : State} {x : Seen} {mod : (Port → Port) → State → State} {k : Cmd} {e : Stop}
    (hmod : ∀ f s, seen (mod f s) = seen s) (hs : seen s = x) (he : StopSees x e) : seen (s.stopPort mod k e) = x := by
  cases e with
  | wait => exact hs
  | pause t => exact he
  | tier t f => exact (by simp [State.stopPort, hmod] : _ = seen t).trans he
  | fault t code operand off => exact (by simp [State.stopPort, hmod] : _ = seen t).trans he

theorem portRead_sees (s : State) (r : PortRun) (off n : Nat) : Leaves (seen s) Prod.fst (s.portRead r off n) := by
  unfold State.portRead
  split
  · exact readPieces_sees ..
  · split <;> exact rfl
  · exact rfl
  · exact rfl
  · exact rfl

@[simp] theorem seen_endFeed (s : State) (p : Nat) (r : PortRun) : seen (s.endFeed p r) = seen s := by
  exact (seen_succeed ..).trans ((seen_passReads ..).trans (seen_modIngress ..))

@[simp] theorem seen_goFeed (s : State) (p : Nat) (r : PortRun) : seen (s.goFeed p r) = seen s := by
  unfold State.goFeed; split <;> simp

@[simp] theorem seen_feedW (s : State) (p : Nat) (r : PortRun) : seen (s.feedW p r).1 = seen s := by
  unfold State.feedW
  have h := portRead_sees s r r.moved 128
  split
  · next he => rw [he] at h; exact stopPort_sees (fun _ _ => seen_modIngress ..) rfl h
  · next he => rw [he] at h; exact (seen_goFeed ..).trans h

@[simp] theorem seen_feedD (s : State) (p n : Nat) (x : Port) (r : PortRun) : seen (s.feedD p n x r).1 = seen s := by
  unfold State.feedD
  extract_lets size base stop
  have hstop {e : Stop} (he : StopSees (seen s) e) : seen (stop e).1 = seen s :=
    stopPort_sees (fun _ _ => seen_modIngress ..) rfl he
  split
  · split
    · rfl
    · have h := portRead_sees s r (base + 128 * r.hdr) 128
      split
      · next he => rw [he] at h; exact hstop h
      · next he => rw [he] at h; exact (seen_modIngress ..).trans h
  next rides _ =>
  clear_value rides
  have h := portRead_sees s r (base + 1024 + 128 * r.pos) 128
  split
  · next he => rw [he] at h; exact hstop h
  next s' bs he =>
  rw [he] at h
  extract_lets next
  have hnext : Leaves (seen s) Prod.fst next := by
    cases rides with
    | none => exact h
    | some _ =>
      have h' := portRead_sees s' r (base + size + 128 * r.ahead) 128
      rw [show seen s' = seen s from h] at h'
      simp only [next]
      revert h'
      cases s'.portRead r (base + size + 128 * r.ahead) 128 <;> exact id
  clear_value next
  split
  · exact hstop hnext
  refine Eq.trans ?_ hnext
  dsimp only
  split <;> simp

theorem seen_ingressTurn (s : State) (v : Env) (p : Nat) : seen (s.ingressTurn v p).1 = seen s := by
  unfold State.ingressTurn
  dsimp only
  split
  · next r d _ _ =>
    split
    · rfl
    · split
      · split <;> simp
      · split
        · rfl
        · have h : seen (if d.isD then s.feedD p d.digits (getAt s.me.fabric.ingress p Port.reset) r else s.feedW p r).1
              = seen s := by split <;> simp
          generalize (if d.isD then s.feedD p d.digits (getAt s.me.fabric.ingress p Port.reset) r else s.feedW p r) = y at h
          obtain ⟨s', item⟩ := y
          dsimp only
          split
          · exact (seen_modCfg).trans h
          · exact h
  · rfl

/-! ## Egress -/

theorem drainRuns_sees (s : State) (r : PortRun) (bs : List Byte) : Leaves (seen s) Prod.fst (s.drainRuns r bs) := by
  unfold State.drainRuns
  split
  · exact spanPieces_sees ..
  · dsimp only
    split <;> exact rfl
  · exact rfl

@[simp] theorem seen_endDrain (s : State) (p : Nat) (r : PortRun) (d : Nat) : seen (s.endDrain p r d) = seen s :=
  (seen_passReads ..).trans (seen_modEgress ..)

@[simp] theorem seen_goDrain (s : State) (p : Nat) (r : PortRun) : seen (s.goDrain p r) = seen s := by
  unfold State.goDrain; split <;> simp

@[simp] theorem seen_takeEgress (s : State) (p : Nat) : seen (s.takeEgress p) = seen s := seen_modEgress ..

theorem drainBytes_sees (s : State) (t p : Nat) (r : PortRun) (bs : List Byte) :
    Leaves (seen s) id (s.drainBytes t p r bs) := by
  unfold State.drainBytes
  have h := drainRuns_sees s r bs
  split
  · next he => rw [he] at h; exact h
  · next he =>
    rw [he] at h
    exact (seen_goDrain ..).trans ((seen_takeEgress ..).trans (Eq.trans seen_modCfg h))

@[simp] theorem seen_drainItem (s : State) (t p n : Nat) (isD : Bool) (r : PortRun) (x : Port) (i : Item) :
    seen (s.drainItem t p n isD r x i) = seen s := by
  unfold State.drainItem
  extract_lets stop
  have hstop {e : Stop} (he : StopSees (seen s) e) : seen (stop e) = seen s :=
    stopPort_sees (fun _ _ => seen_modEgress ..) rfl he
  split
  · dsimp only
    split
    · have h := drainBytes_sees s t p r ((x.assemble n i).1.record n)
      split
      · next he => rw [he] at h; exact hstop h
      · next he => rw [he] at h; exact (seen_modEgress ..).trans h
    · simp
  · have h := drainBytes_sees s t p r (bytesOf i.data.toNat 128)
    split
    · next he => rw [he] at h; exact hstop h
    · next he => rw [he] at h; exact h

@[simp] theorem seen_joinItem (s : State) (p : Nat) (i : Item) : seen (s.joinItem p i) = seen s := by
  have h {f : Core → Core} (hf : ∀ k, brief (f k) = brief k := by intro; rfl) : seen ((s.takeEgress p).mapMe f) = seen s :=
    (seen_mapMe hf).trans (seen_takeEgress ..)
  unfold State.joinItem
  dsimp only
  split
  · exact (seen_modEgress ..).trans h
  · exact h

theorem seen_egressTurn (s : State) (v : Env) (p : Nat) : seen (s.egressTurn v p) = seen s := by
  unfold State.egressTurn
  split
  · rfl
  have h : seen (s.openJoinPort p) = seen s := seen_modEgress ..
  dsimp only
  split
  · refine Eq.trans ?_ h
    split
    · rfl
    split
    · exact seen_joinItem ..
    split
    · split <;> simp
    split <;> simp
  · exact h

/-! ## Memory elements -/

@[simp] theorem seen_spans (s : State) (a : Agent) (wr : Bool) (va n fuel : Nat) :
    seen (s.spans a wr va n fuel).1 = seen s := by
  induction fuel generalizing s va n with
  | zero => rfl
  | succ c ih =>
    unfold State.spans
    split
    · rfl
    dsimp only
    have h := seen_engTarget s a va (min n (4096 - va % 4096)) wr
    split
    · next heq => rw [heq] at h; exact h
    · next s' t heq =>
      rw [heq] at h
      have hrest := (ih s' (va + min n (4096 - va % 4096)) (n - min n (4096 - va % 4096))).trans h
      split
      · next he => rw [he] at hrest; exact hrest
      · next he => rw [he] at hrest; exact hrest

@[simp] theorem seen_readSpans (s : State) (held : List HeldWrite) (p : HeldWrite → Bool) (ts : List (Target × Nat)) :
    seen (s.readSpans held p ts).1 = seen s := by
  induction ts generalizing s with
  | nil => rfl
  | cons x rest ih => exact (ih _).trans (seen_afterRead ..)

/-- Held writes added to the configuration. -/
theorem seen_hold (s : State) (hs : List HeldWrite) : seen (s.modCfg fun g => { g with held := g.held ++ hs }) = seen s :=
  seen_modCfg

@[simp] theorem seen_elemLoad (s : State) (v : Env) (e : ElemState) (j va n : Nat) :
    seen (s.elemLoad v e j va n).1 = seen s := by
  unfold State.elemLoad
  have h := seen_spans s (v.cfg.agent v.core) false va n (pieces va n)
  split
  · next heq => rw [heq] at h; exact h
  · next heq => rw [heq] at h; exact (seen_readSpans ..).trans h

@[simp] theorem seen_elemStore (s : State) (v : Env) (e : ElemState) (j va : Nat) (bs : List Byte) :
    seen (s.elemStore v e j va bs).1 = seen s := by
  unfold State.elemStore
  have h := seen_spans s (v.cfg.agent v.core) true va bs.length (pieces va bs.length)
  split
  · next heq => rw [heq] at h; exact h
  · next heq => rw [heq] at h; exact (seen_hold ..).trans h

@[simp] theorem seen_firstTouch (s : State) (v : Env) (e : ElemState) (ts : List (Target × Nat)) :
    seen (s.firstTouch v e ts).1 = seen s := by
  unfold State.firstTouch
  split
  · rfl
  dsimp only
  split
  · rfl
  · exact (seen_modCfg).trans (seen_readSpans ..)

@[simp] theorem seen_elemAdd (s : State) (v : Env) (e : ElemState) (j va : Nat) (w : BitVec 32) :
    seen (s.elemAdd v e j va w).1 = seen s := by
  unfold State.elemAdd
  have h := seen_spans s (v.cfg.agent v.core) true va e.size (pieces va e.size)
  dsimp only
  split
  · next heq => rw [heq] at h; exact h
  · next heq =>
    rw [heq] at h
    refine (seen_hold ..).trans (Eq.trans ?_ h)
    split
    · rfl
    · exact seen_firstTouch ..

/-- What a lane does changes nothing visible. -/
def LaneKeeps (op : LaneOp) : Prop := ∀ s e j, seen (op s e j).1 = seen s

theorem loadLane_keeps (v : Env) (m : BitVec 512) (ws : List (BitVec 32)) : LaneKeeps (v.loadLane m ws) := by
  intro s e j
  unfold Env.loadLane
  split
  · rfl
  next i _ =>
  split
  · rfl
  have h := seen_elemLoad s v e j (e.addr i.toNat e.size) e.size
  split
  · next heq => rw [heq] at h; exact h
  · next heq => rw [heq] at h; exact h

theorem gatherLane_keeps (v : Env) (m : BitVec 512) (ws : List (BitVec 32)) : LaneKeeps (v.gatherLane m ws) := by
  intro s e j
  unfold Env.gatherLane
  split
  · rfl
  next i _ =>
  split
  · rfl
  have h := seen_elemLoad s v e j (e.addr i.toNat (e.p 5).toNat) ((e.p 4).toNat * e.size)
  rcases hl : s.elemLoad v e j (e.addr i.toNat (e.p 5).toNat) ((e.p 4).toNat * e.size) with ⟨s', x | bs⟩ <;>
  · rw [hl] at h
    simp only [hl]
    exact h

theorem storeLane_keeps (v : Env) (m : BitVec 512) (ws vs : List (BitVec 32)) : LaneKeeps (v.storeLane m ws vs) := by
  intro s e j
  unfold Env.storeLane
  split
  · rfl
  next i _ =>
  split
  · rfl
  extract_lets w va
  by_cases hadd : (e.desc.mode = .mscat && e.p 4 == 1) = true
  · rw [if_pos hadd]
    have h := seen_elemAdd s v e j va w
    generalize s.elemAdd v e j va w = y at h
    obtain ⟨s', r⟩ := y
    cases r <;> exact h
  · rw [if_neg hadd]
    have h := seen_elemStore s v e j va (bytesOf (w.toNat % 2 ^ (8 * e.size)) e.size)
    generalize s.elemStore v e j va (bytesOf (w.toNat % 2 ^ (8 * e.size)) e.size) = y at h
    obtain ⟨s', r⟩ := y
    cases r <;> exact h

theorem runLanes_keeps {op : LaneOp} (hop : LaneKeeps op) (js : List Nat) (s : State) (e : ElemState) :
    seen (runLanes op js s e).1 = seen s := by
  induction js generalizing s e with
  | nil => rfl
  | cons j rest ih =>
    unfold runLanes
    have h := hop s e j
    split
    · next heq => rw [heq] at h; exact h
    · next heq => rw [heq] at h; exact (ih ..).trans h

@[simp] theorem seen_waitTier (s : State) (v : Env) (e : ElemState) (m : BitVec 512) (f : FaultInfo) :
    seen (s.waitTier v e m f).1 = seen s :=
  (seen_raiseFor ..).trans (seen_tierEvent ..)

theorem memLanes_keeps {op : LaneOp} (hop : LaneKeeps op) (s : State) (v : Env) (e : ElemState) (m : BitVec 512)
    (done : ElemState → Reaction) : seen (s.memLanes v e m op done).1 = seen s := by
  unfold State.memLanes
  have h := runLanes_keeps hop (e.indexLanes.drop e.buf.length) s e
  split
  · next heq => rw [heq] at h; exact h
  · next heq => rw [heq] at h; exact (seen_waitTier ..).trans h
  · next heq => rw [heq] at h; exact h

theorem seen_reactMscat (s : State) (v : Env) (e : ElemState) (m : BitVec 512) (ws vs : List (BitVec 32)) :
    seen (s.reactMscat v e m ws vs).1 = seen s := by
  unfold State.reactMscat
  dsimp only
  split
  · rfl
  · exact memLanes_keeps (storeLane_keeps _ _ _ _) ..

theorem seen_reactMgath (s : State) (v : Env) (e : ElemState) (data : Option (BitVec 512 × List (BitVec 32))) :
    seen (s.reactMgath v e data).1 = seen s := by
  unfold State.reactMgath
  dsimp only
  split
  · split
    · rfl
    · exact memLanes_keeps (gatherLane_keeps _ _ _) ..
  · rfl

theorem seen_reactMtalloc (s : State) (v : Env) (e : ElemState) (m : Option (BitVec 512)) :
    seen (s.reactMtalloc v e m).1 = seen s := by
  unfold State.reactMtalloc
  split
  · split
    · exact seen_mapMe
    · rfl
  · split
    · dsimp only
      split
      · rfl
      split
      · rfl
      split
      · rfl
      · exact seen_mapMe
    · rfl

@[simp] theorem seen_streamTile (s : State) (v : Env) (e : ElemState) : seen (s.streamTile v e).1 = seen s := by
  unfold State.streamTile
  dsimp only
  split
  · rfl
  split
  · rfl
  · dsimp only
    split
    · exact seen_mapMe
    · rfl

@[simp] theorem seen_openTile (s : State) (v : Env) (e : ElemState) (took : Bool) :
    seen (s.openTile v e took).1 = seen s := by
  unfold State.openTile
  have h := seen_admitRead s v.cfg.owner.pdk e.readerNum (e.num 2) (getAt e.buf 0 0) true
  dsimp only
  split
  · next heq =>
    rw [heq] at h
    split
    · exact h
    · exact (seen_streamTile ..).trans h
  · next heq => rw [heq] at h; exact h
  · next heq => rw [heq] at h; exact h

theorem seen_reactMtread (s : State) (v : Env) (e : ElemState) (m : Option (BitVec 512)) :
    seen (s.reactMtread v e m).1 = seen s := by
  unfold State.reactMtread
  split
  · simp
  · simp
  · rfl
  · split
    · dsimp only
      split
      · rfl
      · simp
    · rfl

theorem seen_memReact (s : State) (v : Env) (e : ElemState) (sees : Sees) :
    seen (s.memReact v e sees).1 = seen s := by
  unfold State.memReact
  dsimp only
  split
  · rfl
  split
  · rfl
  split
  · rfl
  split
  · rfl
  split
  · rfl
  split
  · exact memLanes_keeps (loadLane_keeps _ _ _) ..
  · exact memLanes_keeps (storeLane_keeps _ _ _ _) ..
  · exact seen_reactMscat ..
  · rfl
  · exact seen_reactMgath ..
  · exact seen_reactMgath ..
  · exact seen_reactMtalloc ..
  · exact seen_reactMtread ..
  · rfl

/-! ## Before and after the reactions -/

@[simp] theorem seen_drainInstant (s : State) : seen s.drainInstant = seen s := by
  unfold State.drainInstant
  split
  · rfl
  dsimp only
  refine (seen_mapMe).trans ((seen_modCfg).trans ?_)
  split
  · exact seen_modCfg
  · rfl

theorem stamp_setParams (ws : List ParamWrite) (g : RunConfig) : stamp (ws.foldl RunConfig.setParam g) = stamp g :=
  foldl_keeps stamp (fun _ _ => by rfl) ws g

@[simp] theorem seen_writeParams (s : State) : seen s.writeParams = seen s := by
  unfold State.writeParams
  split
  · rfl
  refine (foldl_keeps seen (fun s k => seen_succeed s k 0 0) _ _).trans (seen_modCfg fun h => ?_)
  exact (stamp_setParams ..).trans (by rfl)

@[simp] theorem seen_fireArms (s : State) : seen s.fireArms.1 = seen s := by
  unfold State.fireArms
  split
  · rfl
  exact (foldl_keeps seen (fun s a => seen_succeed s _ 0 0) _ _).trans seen_modCfg

@[simp] theorem seen_openWindow (s : State) (t : Nat) : seen (s.openWindow t) = seen s := by
  unfold State.openWindow
  dsimp only
  split
  · rfl
  · exact (seen_modCfg).trans seen_mapMe

@[simp] theorem seen_markPorts (s : State) (g : RunConfig) : seen (s.markPorts g) = seen s := by
  unfold State.markPorts
  split
  · rfl
  refine foldl_keeps seen (fun s p => ?_) _ s
  dsimp only
  split
  · rfl
  · exact (seen_modCfg).trans (seen_modIngress ..)

@[simp] theorem seen_enter (s : State) (v : Env) : seen (s.enter v).1 = seen s :=
  foldl_keeps (fun x : State × List (Nat × Item) × List Nat => seen x.1) (fun x p => seen_ingressTurn x.1 v p) _ _

@[simp] theorem seen_reactElem (s : State) (v : Env) (e : ElemState) (sees : Sees) :
    seen (s.reactElem v e sees).1 = seen s := by
  unfold State.reactElem
  split
  · exact seen_memReact ..
  · rfl

@[simp] theorem seen_reactAll (s : State) (v : Env) (cols : BitVec 12) (xs : List Signal) :
    seen (s.reactAll v cols xs).1 = seen s :=
  foldl_keeps (fun y : State × List Reaction => seen y.1) (fun y e => seen_reactElem y.1 v e _) _ _

theorem stamp_send (g : RunConfig) (t lead : Nat) (src : Src) (x : Item) : stamp (g.send t lead src x) = stamp g :=
  foldl_keeps stamp (fun _ _ => by rfl) _ g

@[simp] theorem seen_sendEgress (s : State) (g : Image) (t lead : Nat) (src : Src) (x : Item) :
    seen (s.sendEgress g t lead src x) = seen s :=
  foldl_keeps seen (fun s _ => seen_modEgress s _ _) _ s

@[simp] theorem seen_sendItems (s : State) (g : Image) (t lead i : Nat) (xs : List (Nat × Item)) :
    seen (s.sendItems g t lead i xs) = seen s :=
  foldl_keeps seen (fun _ _ => (seen_sendEgress ..).trans (seen_modCfg fun _ => stamp_send ..)) xs s

@[simp] theorem seen_applyAll (s : State) (v : Env) (rs : List Reaction) (entered : List (Nat × Item))
    (withheld : List Nat) : seen (s.applyAll v rs entered withheld) = seen s := by
  unfold State.applyAll
  dsimp only
  refine (foldl_keeps seen (fun _ _ => seen_modCfg fun _ => stamp_send ..) _ _).trans ?_
  refine (foldl_keeps seen (fun s r => seen_sendItems s _ _ _ _ _) _ _).trans ?_
  exact seen_modCfg

/-! ## The end of a configuration -/

/-- A core without a configuration, whose last one ended with a count. -/
def Ended (n : Nat) (s : State) : Prop := s.me.fabric.config = none ∧ s.me.fabric.lastCount = n

theorem ended_iff (n : Nat) (s : State) : Ended n s ↔ mark s.me.fabric = (none, n) := by
  simp [Ended, mark]

theorem ended_of_running {n : Nat} {s t : State} (h : running t = running s) (hs : Ended n s) : Ended n t := by
  rw [ended_iff] at hs ⊢
  rw [mark_me_of_running h, hs]

theorem ended_of_seen {n : Nat} {s t : State} (h : seen t = seen s) (hs : Ended n s) : Ended n t :=
  ended_of_running (running_of_seen h) hs

/-- The configuration of the focused core has a count. -/
def Counts (n : Nat) (s : State) : Prop := ∃ g, s.me.fabric.config = some g ∧ g.instant = n

theorem counts_iff (n : Nat) (s : State) :
    Counts n s ↔ (mark s.me.fabric).1.map Prod.fst = some n := by
  simp [Counts, mark, stamp]

theorem counts_of_running {n : Nat} {s t : State} (h : running t = running s) (hs : Counts n s) : Counts n t := by
  rw [counts_iff] at hs ⊢
  rw [mark_me_of_running h, hs]

theorem endConfig_ended {n : Nat} {s : State} (hs : Counts n s) (g : RunConfig) : Ended n (s.endConfig g) := by
  obtain ⟨g', hg, rfl⟩ := hs
  simp [Ended, State.endConfig, Fabric.ended, hg]

@[simp] theorem seen_refusePorts (s : State) (code : Code) (off : Option Nat) (ks : List (Cmd × Nat × Bool)) :
    seen (s.refusePorts code off ks) = seen s := by
  refine foldl_keeps seen (fun s k => ?_) ks s
  dsimp only
  split
  · exact seen_mapMe
  · simp

@[simp] theorem seen_failCfg (s : State) (id : Nat) (addr : Word) (tok : Reg) (o : Owner) (code : Code) (w v0 : Word) :
    seen (s.failCfg id addr tok o code w v0) = seen s := by
  unfold State.failCfg; split <;> simp

@[simp] theorem seen_noteFabric (s : State) (w v0 v1 addr : Word) : seen (s.noteFabric w v0 v1 addr) = seen s :=
  seen_mapMe

/-- A configuration that ends without committing ends with its count (08 R145). -/
theorem abortConfig_ended {n : Nat} {s : State} (hs : Counts n s) (g : RunConfig) (code : Code) (w v0 : Word) :
    Ended n (s.abortConfig g code w v0) := by
  unfold State.abortConfig
  extract_lets ks cs released cleared refused
  have hreleased : seen released = seen s := (seen_releaseTiles ..).trans (seen_dropConsumes ..)
  have hcleared : seen cleared = seen released := seen_mapMe
  have hended : Ended n (cleared.endConfig g) :=
    endConfig_ended (counts_of_running (running_of_seen (hcleared.trans hreleased)) hs) g
  have hrefused : seen refused = seen (cleared.endConfig g) := seen_refusePorts ..
  exact ended_of_seen ((seen_failCfg ..).trans hrefused) hended

theorem elemFault_ended {n : Nat} {s : State} (hs : Counts n s) (g : RunConfig) (f : ElemFault) (more : Bool) :
    Ended n (s.elemFault g f more) := by
  unfold State.elemFault
  refine abortConfig_ended (counts_of_running (running_of_seen ((seen_noteFabric ..).trans ?_)) hs) ..
  cases f.val0 <;> cases f.val1 <;> rfl

theorem haltConfig_ended {n : Nat} {s : State} (hs : Counts n s) (g : RunConfig) (k : Cmd) : Ended n (s.haltConfig g k) :=
  ended_of_seen (seen_succeed ..) (abortConfig_ended hs ..)

/-! ## Writes that become visible -/

/-- The focus moves between cores and changes none. -/
theorem coreAt_focus (s : State) (c x : CoreNum) : (s.focus c).coreAt x = s.coreAt x := by
  unfold State.focus
  split
  · rfl
  next hc =>
  by_cases hx : x = c
  · simp [State.coreAt, hx]
  · by_cases hcur : x = s.cur
    · subst hcur
      simp [State.coreAt, hx, assocGet_assocSet_same]
    · simp [State.coreAt, hx, hcur, assocGet_assocSet_other _ _ hcur, assocGet_assocDel_other _ hx]

theorem cur_focus (s : State) (c : CoreNum) : (s.focus c).cur = c := by
  unfold State.focus
  split
  · next hc => exact hc.symm
  · rfl

theorem running_onCore {s : State} {c : CoreNum} {f : State → State} (h : ∀ s, running (f s) = running s) :
    running (s.onCore c f) = running s := by
  unfold State.onCore
  split
  · exact h s
  · refine Prod.ext (cur_focus ..) (funext fun x => ?_)
    have hf : mark ((f (s.focus c)).coreAt x).fabric = mark ((s.focus c).coreAt x).fabric :=
      congrFun (congrArg Prod.snd (h (s.focus c))) x
    rw [coreAt_focus] at hf
    simpa only [running, coreAt_focus] using hf

theorem running_put (s : State) (n : Reg) (v : Word) : running (s.put n v) = running s := by
  refine Prod.ext rfl (funext fun c => ?_)
  by_cases hc : c = s.cur <;> simp [running, State.coreAt, hc]

/-- A register filled for a task is no matter of any configuration. -/
theorem running_fillFor {s : State} {o : Owner} {n : Reg} {v : Word} {inMemory : State → Record → State}
    (h : ∀ s r, running (inMemory s r) = running s) : running (s.fillFor o n v inMemory) = running s := by
  unfold State.fillFor
  split
  · rfl
  split
  · exact running_put ..
  split
  · rfl
  split
  · rfl
  split
  · refine running_modCore fun k => ?_
    split <;> rfl
  · split
    · rfl
    · split
      · exact h ..
      · rfl

theorem running_writePhysBytes (s : State) (key : Option (BitVec 512)) (a : Nat) (bs : List Byte) :
    running (s.writePhysBytes key a bs) = running s := by
  induction bs generalizing s a with
  | nil => rfl
  | cons b rest ih => exact (ih ..).trans rfl

theorem running_writeTarget (s : State) (t : Target) (bs : List Byte) : running (s.writeTarget t bs) = running s := by
  cases t with
  | mem pa key cache future => exact Eq.trans rfl (running_writePhysBytes s key pa bs)
  | loft c slot off => exact running_of_seen (seen_modLoft ..)
  | ctrl p d off => rfl
  | remote d pa cache => rfl

theorem running_fillSaveArea (n : Reg) (v : Word) (pdk : PdkNum) (s : State) (r : Record) :
    running (fillSaveArea n v pdk s r) = running s := by
  unfold fillSaveArea
  dsimp only
  split
  · exact (running_writeTarget ..).trans (running_writeTarget ..)
  · rfl

theorem running_fillBartoks (s : State) (c : CoreNum) : running (s.fillBartoks c) = running s := by
  unfold State.fillBartoks
  dsimp only
  split
  · rfl
  · refine (foldl_keeps running (fun s b => ?_) _ _).trans running_modCore
    exact running_onCore fun s => running_fillFor fun s r => running_fillSaveArea ..

theorem seen_dropImage (s : State) (pdk : PdkNum) (r : Record) : seen (s.dropImage pdk r) = seen s := by
  unfold State.dropImage
  split
  · rfl
  · next i _ =>
    have h : seen (i.consumes.foldl (fun s k => if k.admitted then s.sendUnhold r.lastCore k.handle else s) s) = seen s :=
      foldl_keeps seen (fun s k => by split <;> simp) _ s
    exact h

theorem seen_holdRecord (s : State) (o : Owner) (f : FaultInfo) : seen (s.holdRecord o f) = seen s := by
  unfold State.holdRecord
  refine (seen_raiseDetached ..).trans ((seen_modPaddock ..).trans ?_)
  split
  · exact seen_dropImage ..
  · rfl

theorem seen_makeReady (s : State) (o : Owner) (front : Bool) : seen (s.makeReady o front) = seen s := by
  unfold State.makeReady
  split
  · split
    · split
      · exact (seen_holdRecord ..).trans (seen_drew s)
      · dsimp only
        split
        · exact seen_holdRecord ..
        · rfl
    · rfl
  · rfl

theorem seen_wake (s : State) (o : Owner) : seen (s.wake o) = seen s := by
  unfold State.wake
  split
  · exact (seen_makeReady ..).trans (seen_modPaddock ..)
  · rfl

theorem running_watchPhases (s : State) : running s.watchPhases = running s := by
  unfold State.watchPhases
  refine (foldl_keeps running (fun s o => running_of_seen (seen_wake s o)) _ _).trans ?_
  exact foldl_keeps running (fun s (e : Nat × CoreNum) => running_fillBartoks s e.2) _ _

/-- Held writes that become visible end no configuration. -/
theorem running_applyRuns (s : State) (rs : List Run) : running (s.applyRuns rs) = running s :=
  (running_watchPhases _).trans (foldl_keeps running (fun s (r : Run) => running_writeTarget s r.tgt r.bytes) rs s)

/-- A commit ends the configuration with its count (08 R153). -/
theorem commitConfig_ended {n : Nat} {s : State} (hs : Counts n s) (g : RunConfig) : Ended n (s.commitConfig g) := by
  unfold State.commitConfig
  extract_lets ended left control published counted dropped keep kept clear cleared bare succeeded refused
  have hpublished : running published = running s := running_applyRuns s _
  have hdropped : seen dropped = seen published := (seen_dropConsumes counted _ _).trans (seen_commitConsumes ..)
  have hkept : seen kept = seen dropped := foldl_keeps seen (fun s (e : Nat × CoreNum) => seen_modLoft s e.2 keep) _ _
  have hcleared : seen cleared = seen kept := seen_mapMe
  have hrunning : running cleared = running s :=
    (running_of_seen (hcleared.trans (hkept.trans hdropped))).trans hpublished
  have hbare : Ended n bare := endConfig_ended (counts_of_running hrunning hs) g
  have hsucceeded : seen succeeded = seen bare :=
    foldl_keeps seen (fun s (r : PortRun) => seen_succeed s r.cmd r.detail.toNat r.moved) _ _
  have hrefused : seen refused = seen succeeded := seen_refusePorts ..
  exact ended_of_seen ((seen_finish refused _ _).trans (hrefused.trans hsucceeded)) hbare

/-! ## The instant -/

/-- How an instant ends: the configuration goes on to the next instant and nothing has become visible, or it has ended with
its count. -/
def Closes (g : RunConfig) (s t : State) : Prop :=
  (∃ g', t.me.fabric.config = some g' ∧ g'.instant = g.instant + 1 ∧ g'.image = g.image ∧ g'.id = g.id
      ∧ (∀ key a, t.readPhys key a = s.readPhys key a) ∧ (∀ a, t.fullBit a = s.fullBit a) ∧ t.me.seq = s.me.seq)
    ∨ Ended g.instant t

/-- A configuration found through what is visible. -/
theorem config_of_seen {g : RunConfig} {s t : State} (hg : s.me.fabric.config = some g) (h : seen t = seen s) :
    ∃ g', t.me.fabric.config = some g' ∧ stamp g' = stamp g := by
  have hm : (mark t.me.fabric).1 = some (stamp g) := by
    rw [mark_me_of_running (running_of_seen h)]; simp [mark, hg]
  simpa [mark] using hm

theorem counts_of_seen {g : RunConfig} {s t : State} (hg : s.me.fabric.config = some g) (h : seen t = seen s) :
    Counts g.instant t := counts_of_running (running_of_seen h) ⟨g, hg, rfl⟩

/-- The end of an instant in which nothing has become visible (08 R143, R145, R153). -/
theorem closeInstant_closes {g : RunConfig} {s t : State} (hg : s.me.fabric.config = some g) (h : seen t = seen s)
    (fs : List ElemFault) : Closes g s (t.closeInstant fs) := by
  have hcount : Counts g.instant t := counts_of_seen hg h
  obtain ⟨g', hg', hstamp⟩ := config_of_seen hg h
  simp only [stamp, Prod.mk.injEq] at hstamp
  obtain ⟨hinstant, hid, himage⟩ := hstamp
  unfold State.closeInstant
  rw [hg']
  dsimp only
  split
  · right
    split
    · exact ended_of_seen (seen_succeed ..) (elemFault_ended hcount ..)
    · exact elemFault_ended hcount ..
  · exact .inr (haltConfig_ended hcount ..)
  · split
    · exact .inr (commitConfig_ended hcount ..)
    · simp only [seen, Seen.mk.injEq] at h
      obtain ⟨-, hmem, henc, hfull, hseq⟩ := h
      refine .inl ⟨{ g' with instant := g'.instant + 1 }, ?_, ?_, himage, hid, ?_, ?_, hseq⟩
      · simp [State.modCfg, hg']
      · simp [hinstant]
      · intro key a; simp [State.modCfg, State.readPhys, hmem, henc]
      · intro a; simp [State.modCfg, State.fullBit, hfull]

/-- An instant: its parameters, ports, elements and drains show nothing, and then it closes (08 R139). -/
theorem instant_closes {g : RunConfig} {s : State} (hg : s.me.fabric.config = some g) : Closes g s s.instant := by
  unfold State.instant
  extract_lets begun
  have hbegun : seen begun = seen s := (seen_writeParams ..).trans (seen_drainInstant s)
  have harmed := (seen_fireArms begun).trans hbegun
  split
  next armed cols heq =>
  rw [heq] at harmed
  extract_lets opened
  have hopened : seen opened = seen s := (seen_openWindow ..).trans harmed
  obtain ⟨g', hg', -⟩ := config_of_seen hg hopened
  split
  · next hnone => cases hg'.symm.trans hnone
  extract_lets v xs
  have hentered := (seen_enter opened v).trans hopened
  split
  next entered items withheld heq =>
  rw [heq] at hentered
  extract_lets marked
  have hmarked : seen marked = seen s := (seen_markPorts ..).trans hentered
  have hreacted := (seen_reactAll marked v cols xs).trans hmarked
  split
  next reacted rs heq =>
  rw [heq] at hreacted
  extract_lets applied drained
  have happlied : seen applied = seen s := (seen_applyAll ..).trans hreacted
  have hdrained : seen drained = seen s := (foldl_keeps seen (fun s p => seen_egressTurn s v p) _ _).trans happlied
  exact closeInstant_closes hg hdrained _

/-! ## Timeouts -/

/-- An element of a mode and index that has been silent for its timeout, and that has room. -/
def Silent (v : Env) (n : Nat) (m : EMode) (e : ElemState) : Prop :=
  e.desc.index = n ∧ e.desc.mode = m ∧ e.enabled = true ∧ e.saved = false ∧ e.p 2 ≠ 0 ∧ (e.p 2).toNat ≤ e.num 0
    ∧ v.room e = true

/-- What a timeout of a mode does to an element. -/
def atTimeout (v : Env) (n : Nat) (m : EMode) (e : ElemState) : ElemState :=
  if e.desc.index == n && e.desc.mode == m && e.enabled && !e.saved && e.timeoutDue && v.room e then v.timeOut e else e

/-- An element that has been silent for its timeout times out. -/
theorem atTimeout_silent {v : Env} {n : Nat} {m : EMode} {e : ElemState} (hm : m = .thr ∨ m = .ctlm) (h : Silent v n m e) :
    atTimeout v n m e = v.timeOut e := by
  obtain ⟨rfl, rfl, hen, hsaved, hp, hnum, hroom⟩ := h
  have hdue : e.timeoutDue = true := by
    unfold ElemState.timeoutDue
    rcases hm with hm | hm <;> simpa [hm, hnum] using hp
  simp [atTimeout, hen, hsaved, hdue, hroom]

/-- Any other element stays. -/
theorem atTimeout_not_silent {v : Env} {n : Nat} {m : EMode} {e : ElemState} (hm : m = .thr ∨ m = .ctlm)
    (h : ¬ Silent v n m e) : atTimeout v n m e = e := by
  unfold atTimeout
  refine if_neg fun hc => h ?_
  simp only [Bool.and_eq_true, beq_iff_eq, Bool.not_eq_true'] at hc
  obtain ⟨⟨⟨⟨⟨hindex, hmode⟩, hen⟩, hsaved⟩, hdue⟩, hroom⟩ := hc
  have hdue' : e.p 2 ≠ 0 ∧ (e.p 2).toNat ≤ e.num 0 := by
    unfold ElemState.timeoutDue at hdue
    rw [hmode] at hdue
    rcases hm with rfl | rfl <;> simpa using hdue
  exact ⟨hindex, hmode, hen, hsaved, hdue'.1, hdue'.2, hroom⟩

/-- A timeout of an element with an output in use queues a marker and sets the count back. -/
theorem timeOut_outs {v : Env} {e : ElemState} {mark : GroupRun} (houts : (v.outs e).isEmpty = false)
    (hmark : (if e.desc.mode = .ctlm then GroupRun.ofDone (field (e.p 4) 0 3) else GroupRun.ofMarker (field (e.p 1) 0 3))
      = mark) : v.timeOut e = ({ e with groups := e.groups ++ [mark] } : ElemState).setNum 0 0 := by
  simp [Env.timeOut, houts, hmark]

theorem num_setNum_zero (e : ElemState) : (e.setNum 0 0).num 0 = 0 := by
  unfold ElemState.num ElemState.setNum
  cases e.nums <;> rfl

theorem field_param (v : BitVec 32) : field v 0 3 = v.setWidth 3 := by
  exact (BitVec.setWidth_eq_extractLsb' (by omega)).symm

/-- A timeout acts on the elements that have been silent, and on no other (16 R351, R360). -/
theorem timeoutAt_spec {s : State} {g : RunConfig} (hg : s.me.fabric.config = some g) {m : EMode} {n : Nat}
    (hm : m = .thr ∨ m = .ctlm) {mark : ElemState → GroupRun}
    (hmark : ∀ e, e.desc.mode = m → (if e.desc.mode = .ctlm then GroupRun.ofDone (field (e.p 4) 0 3)
      else GroupRun.ofMarker (field (e.p 1) 0 3)) = mark e) :
    let v : Env := ⟨g, s.me.fabric.egress, s.cur, s.clk⟩
    ∃ g' : RunConfig, (s.timeoutAt m n).me.fabric.config = some g' ∧ g'.elems.length = g.elems.length
      ∧ ∀ (j : Nat) (e : ElemState), g.elems[j]? = some e → (¬ Silent v n m e → g'.elems[j]? = some e)
        ∧ (Silent v n m e → (v.outs e).isEmpty = false → ∃ e' : ElemState, g'.elems[j]? = some e' ∧ e'.desc = e.desc
            ∧ e'.groups = e.groups ++ [mark e] ∧ e'.num 0 = 0 ∧ e'.fifos = e.fifos) := by
  intro v
  refine ⟨{ g with elems := g.elems.map (atTimeout v n m) }, ?_, by simp, fun j e hj => ⟨fun h => ?_, fun h houts => ?_⟩⟩
  · simp [State.timeoutAt, hg, State.modCfg, atTimeout, v]
  · simp [hj, atTimeout_not_silent hm h]
  · refine ⟨v.timeOut e, by simp [hj, atTimeout_silent hm h], ?_⟩
    rw [timeOut_outs houts (hmark e h.2.1)]
    exact ⟨rfl, rfl, num_setNum_zero _, rfl⟩

/-! ## The obligation -/

/-- Settles O46: an instant closes as `instant_closes` says, from what its parts leave visible (`seen`), and a timeout acts
on each element as `timeoutAt_spec` says. -/
theorem instants : Obligations.Instants := by
  unfold Obligations.Instants
  intro s g hg
  refine ⟨fun hsplits => ?_, fun hsplits => ?_, fun n => ⟨?_, ?_⟩⟩
  · simp [execInstant, hg, hsplits]
  · refine ⟨s.instant, ?_, instant_closes hg⟩
    simp [execInstant, hg, hsplits]
  · refine ⟨s.timeoutAt .thr n.toNat, ?_, timeoutAt_spec hg (.inl rfl) fun e he => ?_⟩
    · simp [execThrTimeout]
    · simp [he, field_param]
  · refine ⟨s.timeoutAt .ctlm n.toNat, ?_, timeoutAt_spec hg (.inr rfl) fun e he => ?_⟩
    · simp [execCtlmTimeout]
    · simp [he, field_param]

end Sys2Proof.Instants
end
